-- ==== Sys2Proof/Word.lean ====
section
/-! DEFINITION. The words, bytes and register names of the LZ8 (R2, R34, R51). -/
namespace Sys2Proof

/-- A 64-bit x-register word (R51). -/
abbrev Word := BitVec 64
/-- One byte of memory. -/
abbrev Byte := BitVec 8
/-- A 32-bit scalar word of the instruction store (R33). -/
abbrev Word32 := BitVec 32
/-- A 128-bit command (R38). -/
abbrev Cmd128 := BitVec 128
/-- A 512-bit token wave, flit or v register (R51, R118, R264). -/
abbrev Wave := BitVec 512
/-- A tile number, row·64 + col (R11). -/
abbrev TileId := Fin 1024
/-- A task slot of a tile, or one of its virtual channels VC0 to VC15 (R16). -/
abbrev SlotId := Fin 16
/-- A compute die (R8). -/
abbrev DieId := Fin 8
/-- A register number x0 to x31 (R34). -/
abbrev XReg := BitVec 5
/-- A predicate number p0 to p7 (R34). -/
abbrev PReg := BitVec 3

end Sys2Proof
end

