-- ==== Sys2Proof/Config.lean ====
section
/-! DEFINITION. What the package fixes, and the values the spec leaves open. An open value is an opaque constant applied to the
state's draw counter (or to the operands it depends on): nothing can be proved about it. -/
namespace Sys2Proof.Config

/-- clk that pass during step n of a run (R3, R15, R184: the spec gives least times only; assumption 3, DESIGN CHOICE). -/
opaque elapsed : Nat → Nat
/-- The n-th free 64-bit value (assumption 4, DESIGN CHOICE). -/
opaque freeWord : Nat → Word
/-- The byte a read of host memory returns at a bus address (R175; assumption 5, DESIGN CHOICE). -/
opaque hostByte : Nat → Nat → Byte
/-- The answer of the host's address translation service: device-side address, or none where the request fails (R178, R179). -/
opaque atsAnswer : Nat → Nat → Option Nat
/-- Whether an image's signature verifies under a key (R378): key, image bytes, signature bytes. -/
opaque signatureOk : List Byte → List Byte → List Byte → Bool
/-- The ROM's digests at the head of the measurement log (R376; assumption 95, DESIGN CHOICE, as of the functions beside it). -/
opaque romDigests : List Byte
/-- The signed answer to an SPDM request (R376): whether it is a key exchange, the log, the draw. -/
opaque spdmAnswer : Bool → List (List Byte) → Nat → List Byte
/-- The digest measurement entry 1 holds (R376), of the fuses and the life-cycle state given. -/
opaque coverDigest : List Byte → List Byte
/-- The CXL IDE keys a key exchange sets (R376). -/
opaque ideKeys : Nat → List Byte
/-- Bytes of a telemetry block, and the byte at a place of one (R370, R382): of what it reports, and of the draw for temperatures and rails. -/
opaque telemetryBytes : List Nat → Nat → Nat
opaque telemetryByte : List Nat → Nat → Nat → Byte

/-- Bytes of device physical memory: 768 GiB (R21). -/
def hbmBytes : Nat := 768 * 2 ^ 30
/-- Bytes of a tile's instruction store (R30). -/
def istoreBytes : Nat := 65536
/-- The scratchpad share of a split (R17). -/
def spShare (split : Bool) : Nat := if split then 768 * 1024 else 1152 * 1024
/-- The L1 share of a split (R17). -/
def l1Share (split : Bool) : Nat := if split then 768 * 1024 else 384 * 1024
/-- First address of the scratchpad windows (R174). -/
def spBase : Nat := 0xFFF0000000000
/-- Bytes between two tiles' scratchpad windows (R174). -/
def spStride : Nat := 0x200000
/-- First address above the scratchpad windows of the 1,024 tiles (R174). -/
def spEnd : Nat := spBase + 1024 * spStride
/-- The block-transfer aperture (R174). -/
def apertureBase : Nat := 0xFFFFFFF000000
/-- First address above the aperture. -/
def apertureEnd : Nat := 0xFFFFFFF100000
/-- The issuing tile's own scratchpad window (R174). -/
def ownSpBase : Nat := 0xFFFFFFFE00000
/-- End of the 52-bit device virtual address space. -/
def vaEnd : Nat := 2 ^ 52
/-- First and last-plus-one address of the peer range (R21). -/
def peerBase : Nat := 0x10000000000
def peerEnd : Nat := 0x20000000000

end Sys2Proof.Config
end

