-- ==== Sys2Proof/Syntax.lean ====
section
/-! DEFINITION. The syntax of the LZ8: every row of the opcode table is one constructor of `Instr` (scalar words, 128-bit
commands, walk rules, and the device's own happenings, which are steps without an encoding). -/
namespace Sys2Proof

/-- The fault codes of R361; `soft n` is trap code n (0x0100 + n, R347). -/
inductive FaultCode where
  | illegalOp | illegalField | formatMismatch | extentRange | misaligned | xlate | protect | ecc
  | versionFull | versionNever | versionReclaimed | sbRewrite | demandBeforeRetained | demandRange
  | walkLimit | walkPointer | cfgNoGraft | cfgPool | rotOrphan | cfgFetch | sparseField
  | quota | watchdog | saveLimit | pairAbandoned | brk | blighted
  | soft (n : BitVec 10)
  deriving DecidableEq, Repr

/-- The 16-bit value of a fault code (R361). -/
def FaultCode.val : FaultCode → Nat
  | .illegalOp => 0x0001 | .illegalField => 0x0002 | .formatMismatch => 0x0003 | .extentRange => 0x0004
  | .misaligned => 0x0005 | .xlate => 0x0006 | .protect => 0x0007 | .ecc => 0x0008
  | .versionFull => 0x0010 | .versionNever => 0x0011 | .versionReclaimed => 0x0012 | .sbRewrite => 0x0018
  | .demandBeforeRetained => 0x0020 | .demandRange => 0x0021 | .walkLimit => 0x0030 | .walkPointer => 0x0031
  | .cfgNoGraft => 0x0040 | .cfgPool => 0x0041 | .rotOrphan => 0x0042 | .cfgFetch => 0x0043
  | .sparseField => 0x0050 | .quota => 0x0060 | .watchdog => 0x0061 | .saveLimit => 0x0062
  | .pairAbandoned => 0x0070 | .brk => 0x007E | .blighted => 0x007F | .soft n => 0x0100 + n.toNat

/-- The fields of a command below its class and opcode (R38); the five slots keep their 16 bits (R46). -/
structure Cmd where
  ga : BitVec 3
  gb : BitVec 3
  comb : BitVec 2
  hint : BitVec 4
  chain : BitVec 1
  yield : BitVec 1
  stall : BitVec 4
  tag : BitVec 5
  eh : BitVec 3
  ew : BitVec 3
  s1 : BitVec 16
  s2 : BitVec 16
  s3 : BitVec 16
  s4 : BitVec 16
  s5 : BitVec 16
  deriving DecidableEq, Repr

/-- Who issues a mailbox request (R367): a physical function, a virtual function or the sideband controller. -/
inductive Func where
  | pf (n : Fin 2)
  | vf (n : Fin 512)
  | sideband
  deriving DecidableEq, Repr

/-- A mailbox request's target and arguments (R368). -/
structure Req where
  target : BitVec 16
  res0 : BitVec 32
  a0 : Word
  a1 : Word
  a2 : Word
  a3 : Word
  a4 : Word
  a5 : Word
  a6 : Word
  deriving DecidableEq, Repr

/-- A demand port (R290): the sink or the source of a channel, or the operator of a stage. -/
inductive PortId where
  | sink (ctx slot chan : Nat)
  | oper (ctx slot : Nat) (t : TileId) (st : Fin 6)
  | source (ctx slot chan : Nat)
  /-- a SOFT input of an operator, handed to software (R304). -/
  | soft (ctx slot : Nat) (t : TileId) (st : Fin 6) (inp : Fin 3)
  deriving DecidableEq, Repr

/-- One constructor per row of the opcode table. Fields carry the bits of the encoding, by the table's field names.
A happening acts on the tile, slot, channel, walk, job or record that the state's focus names. -/
inductive Instr where
  /-- R75. Writes the 64-bit wrapped sum of two x registers. -/
  | add (d : BitVec 5) (a : BitVec 5) (b : BitVec 5) (g : BitVec 3)
  /-- R75. Writes the 64-bit wrapped difference of two x registers. -/
  | sub (d : BitVec 5) (a : BitVec 5) (b : BitVec 5) (g : BitVec 3)
  /-- R75. Writes the bitwise AND of two x registers. -/
  | and (d : BitVec 5) (a : BitVec 5) (b : BitVec 5) (g : BitVec 3)
  /-- R75. Writes the bitwise OR of two x registers. -/
  | or (d : BitVec 5) (a : BitVec 5) (b : BitVec 5) (g : BitVec 3)
  /-- R75. Writes the bitwise XOR of two x registers. -/
  | xor (d : BitVec 5) (a : BitVec 5) (b : BitVec 5) (g : BitVec 3)
  /-- R75. Writes a AND NOT b. -/
  | andn (d : BitVec 5) (a : BitVec 5) (b : BitVec 5) (g : BitVec 3)
  /-- R75. Shifts left by b[5:0]. -/
  | sll (d : BitVec 5) (a : BitVec 5) (b : BitVec 5) (g : BitVec 3)
  /-- R75. Shifts right logically by b[5:0]. -/
  | srl (d : BitVec 5) (a : BitVec 5) (b : BitVec 5) (g : BitVec 3)
  /-- R75. Shifts right arithmetically by b[5:0]. -/
  | sra (d : BitVec 5) (a : BitVec 5) (b : BitVec 5) (g : BitVec 3)
  /-- R75. Rotates left by b[5:0]. -/
  | rol (d : BitVec 5) (a : BitVec 5) (b : BitVec 5) (g : BitVec 3)
  /-- R75. Writes the low 64 bits of the product. -/
  | mul (d : BitVec 5) (a : BitVec 5) (b : BitVec 5) (g : BitVec 3)
  /-- R75. Writes the high 64 bits of the signed product. -/
  | mulh (d : BitVec 5) (a : BitVec 5) (b : BitVec 5) (g : BitVec 3)
  /-- R75. Writes the high 64 bits of the unsigned product. -/
  | mulhn (d : BitVec 5) (a : BitVec 5) (b : BitVec 5) (g : BitVec 3)
  /-- R76. Signed division truncating toward zero on the shared divider, with fixed results for division by zero and overflow. -/
  | div (d : BitVec 5) (a : BitVec 5) (b : BitVec 5) (g : BitVec 3)
  /-- R76. Unsigned division on the shared divider. -/
  | divn (d : BitVec 5) (a : BitVec 5) (b : BitVec 5) (g : BitVec 3)
  /-- R76. Signed remainder taking the sign of the dividend. -/
  | rem (d : BitVec 5) (a : BitVec 5) (b : BitVec 5) (g : BitVec 3)
  /-- R76. Unsigned remainder. -/
  | remn (d : BitVec 5) (a : BitVec 5) (b : BitVec 5) (g : BitVec 3)
  /-- R75. Writes the signed minimum. -/
  | min (d : BitVec 5) (a : BitVec 5) (b : BitVec 5) (g : BitVec 3)
  /-- R75. Writes the unsigned minimum. -/
  | minn (d : BitVec 5) (a : BitVec 5) (b : BitVec 5) (g : BitVec 3)
  /-- R75. Writes the signed maximum. -/
  | max (d : BitVec 5) (a : BitVec 5) (b : BitVec 5) (g : BitVec 3)
  /-- R75. Writes the unsigned maximum. -/
  | maxn (d : BitVec 5) (a : BitVec 5) (b : BitVec 5) (g : BitVec 3)
  /-- R75. Writes 1 when a < b signed, else 0. -/
  | slt (d : BitVec 5) (a : BitVec 5) (b : BitVec 5) (g : BitVec 3)
  /-- R75. Writes 1 when a < b unsigned, else 0. -/
  | sltn (d : BitVec 5) (a : BitVec 5) (b : BitVec 5) (g : BitVec 3)
  /-- R75. Counts leading zero bits. -/
  | clz (d : BitVec 5) (a : BitVec 5) (g : BitVec 3)
  /-- R75. Counts trailing zero bits. -/
  | ctz (d : BitVec 5) (a : BitVec 5) (g : BitVec 3)
  /-- R75. Counts set bits. -/
  | popc (d : BitVec 5) (a : BitVec 5) (g : BitVec 3)
  /-- R77. Adds a sign-extended 13-bit immediate. -/
  | addi (d : BitVec 5) (a : BitVec 5) (i : BitVec 13) (g : BitVec 3)
  /-- R77. ANDs with a sign-extended immediate. -/
  | andi (d : BitVec 5) (a : BitVec 5) (i : BitVec 13) (g : BitVec 3)
  /-- R77. ORs with a sign-extended immediate. -/
  | ori (d : BitVec 5) (a : BitVec 5) (i : BitVec 13) (g : BitVec 3)
  /-- R77. XORs with a sign-extended immediate. -/
  | xori (d : BitVec 5) (a : BitVec 5) (i : BitVec 13) (g : BitVec 3)
  /-- R77. Signed compare with an immediate. -/
  | slti (d : BitVec 5) (a : BitVec 5) (i : BitVec 13) (g : BitVec 3)
  /-- R77. Unsigned compare with a sign-extended immediate. -/
  | sltni (d : BitVec 5) (a : BitVec 5) (i : BitVec 13) (g : BitVec 3)
  /-- R78. Shifts left by an immediate amount. -/
  | slli (d : BitVec 5) (a : BitVec 5) (s : BitVec 6) (g : BitVec 3)
  /-- R78. Logical right shift by an immediate amount. -/
  | srli (d : BitVec 5) (a : BitVec 5) (s : BitVec 6) (g : BitVec 3)
  /-- R78. Arithmetic right shift by an immediate amount. -/
  | srai (d : BitVec 5) (a : BitVec 5) (s : BitVec 6) (g : BitVec 3)
  /-- R78. Rotates left by an immediate amount. -/
  | roli (d : BitVec 5) (a : BitVec 5) (s : BitVec 6) (g : BitVec 3)
  /-- R79. Loads a sign-extended 21-bit immediate shifted left by 12. -/
  | lui (d : BitVec 5) (i : BitVec 21)
  /-- R79. Writes pc plus four times a sign-extended immediate. -/
  | pcai (d : BitVec 5) (i : BitVec 21)
  /-- R80. Extracts a zero-extended bit field. -/
  | bfx (d : BitVec 5) (a : BitVec 5) (l : BitVec 6) (w : BitVec 6) (g : BitVec 3)
  /-- R80. Extracts a sign-extended bit field. -/
  | bfxS (d : BitVec 5) (a : BitVec 5) (l : BitVec 6) (w : BitVec 6) (g : BitVec 3)
  /-- R80. Inserts the low bits of ra into a field of rd. -/
  | bfi (d : BitVec 5) (a : BitVec 5) (l : BitVec 6) (w : BitVec 6) (g : BitVec 3)
  /-- R81. Selects ra or rb by a predicate. -/
  | sel (d : BitVec 5) (a : BitVec 5) (b : BitVec 5) (p : BitVec 3) (g : BitVec 3)
  /-- R82. Writes a predicate with a == b. -/
  | pcmpEq (d : BitVec 3) (a : BitVec 5) (b : BitVec 5) (g : BitVec 3)
  /-- R82. Writes a predicate with a != b. -/
  | pcmpNe (d : BitVec 3) (a : BitVec 5) (b : BitVec 5) (g : BitVec 3)
  /-- R82. Writes a predicate with signed a < b. -/
  | pcmpLt (d : BitVec 3) (a : BitVec 5) (b : BitVec 5) (g : BitVec 3)
  /-- R82. Writes a predicate with signed a >= b. -/
  | pcmpGe (d : BitVec 3) (a : BitVec 5) (b : BitVec 5) (g : BitVec 3)
  /-- R82. Writes a predicate with unsigned a < b. -/
  | pcmpLtn (d : BitVec 3) (a : BitVec 5) (b : BitVec 5) (g : BitVec 3)
  /-- R82. Writes a predicate with unsigned a >= b. -/
  | pcmpGen (d : BitVec 3) (a : BitVec 5) (b : BitVec 5) (g : BitVec 3)
  /-- R83. Writes a predicate from a 4-bit truth table of two predicates. -/
  | plog (d : BitVec 3) (a : BitVec 3) (b : BitVec 3) (t : BitVec 4) (g : BitVec 3)
  /-- R84. Branches when a == b. -/
  | bEq (a : BitVec 5) (b : BitVec 5) (o : BitVec 13)
  /-- R84. Branches when a != b. -/
  | bNe (a : BitVec 5) (b : BitVec 5) (o : BitVec 13)
  /-- R84. Branches when a < b signed. -/
  | bLt (a : BitVec 5) (b : BitVec 5) (o : BitVec 13)
  /-- R84. Branches when a >= b signed. -/
  | bGe (a : BitVec 5) (b : BitVec 5) (o : BitVec 13)
  /-- R84. Branches when a < b unsigned. -/
  | bLtn (a : BitVec 5) (b : BitVec 5) (o : BitVec 13)
  /-- R84. Branches when a >= b unsigned. -/
  | bGen (a : BitVec 5) (b : BitVec 5) (o : BitVec 13)
  /-- R85. Branches when a predicate is true. -/
  | bpT (p : BitVec 3) (o : BitVec 13)
  /-- R85. Branches when a predicate is false. -/
  | bpF (p : BitVec 3) (o : BitVec 13)
  /-- R86. Writes the return address and jumps by a 21-bit word offset. -/
  | jal (d : BitVec 5) (o : BitVec 21)
  /-- R87. Jumps to a register plus byte offset after alignment, range and tail-word checks. -/
  | jalr (d : BitVec 5) (a : BitVec 5) (i : BitVec 13) (g : BitVec 3)
  /-- R183. Loads a zero-extended byte. -/
  | ldb (d : BitVec 5) (a : BitVec 5) (o : BitVec 10) (g : BitVec 3)
  /-- R183. Loads a sign-extended byte. -/
  | ldbs (d : BitVec 5) (a : BitVec 5) (o : BitVec 10) (g : BitVec 3)
  /-- R183. Loads a zero-extended halfword. -/
  | ldh (d : BitVec 5) (a : BitVec 5) (o : BitVec 10) (g : BitVec 3)
  /-- R183. Loads a sign-extended halfword. -/
  | ldhs (d : BitVec 5) (a : BitVec 5) (o : BitVec 10) (g : BitVec 3)
  /-- R183. Loads a zero-extended word. -/
  | ldw (d : BitVec 5) (a : BitVec 5) (o : BitVec 10) (g : BitVec 3)
  /-- R183. Loads a sign-extended word. -/
  | ldws (d : BitVec 5) (a : BitVec 5) (o : BitVec 10) (g : BitVec 3)
  /-- R183. Loads a doubleword. -/
  | ldd (d : BitVec 5) (a : BitVec 5) (o : BitVec 10) (g : BitVec 3)
  /-- R183. Stores a byte. -/
  | stb (d : BitVec 5) (a : BitVec 5) (o : BitVec 10) (g : BitVec 3)
  /-- R183. Stores a halfword. -/
  | sth (d : BitVec 5) (a : BitVec 5) (o : BitVec 10) (g : BitVec 3)
  /-- R183. Stores a word. -/
  | stw (d : BitVec 5) (a : BitVec 5) (o : BitVec 10) (g : BitVec 3)
  /-- R183. Stores a doubleword; at the aperture it starts a templated copy. -/
  | std (d : BitVec 5) (a : BitVec 5) (o : BitVec 10) (g : BitVec 3)
  /-- R187. Waits for and reads exactly one version of a versioned word. -/
  | ldvEq (d : BitVec 5) (a : BitVec 5) (b : BitVec 5) (g : BitVec 3)
  /-- R187. Waits for a version at or above v and reads the newest. -/
  | ldvGe (d : BitVec 5) (a : BitVec 5) (b : BitVec 5) (g : BitVec 3)
  /-- R188. Posts a new newest version of a versioned word, as a release. -/
  | stv (d : BitVec 5) (a : BitVec 5) (b : BitVec 5) (g : BitVec 3)
  /-- R190. Reserves a version on a word in the containment unit. -/
  | stvRsv (a : BitVec 5) (b : BitVec 5) (g : BitVec 3)
  /-- R189. Raises floors and retires old versions over a byte range. -/
  | rclm (d : BitVec 5) (a : BitVec 5) (b : BitVec 5) (g : BitVec 3)
  /-- R218. Atomic wrapping add at the read-modify-write node. -/
  | amoAdd (d : BitVec 5) (a : BitVec 5) (b : BitVec 5) (s : BitVec 2) (o : BitVec 2) (g : BitVec 3)
  /-- R218. Atomic AND. -/
  | amoAnd (d : BitVec 5) (a : BitVec 5) (b : BitVec 5) (s : BitVec 2) (o : BitVec 2) (g : BitVec 3)
  /-- R218. Atomic OR. -/
  | amoOr (d : BitVec 5) (a : BitVec 5) (b : BitVec 5) (s : BitVec 2) (o : BitVec 2) (g : BitVec 3)
  /-- R218. Atomic XOR. -/
  | amoXor (d : BitVec 5) (a : BitVec 5) (b : BitVec 5) (s : BitVec 2) (o : BitVec 2) (g : BitVec 3)
  /-- R218. Atomic signed minimum. -/
  | amoMin (d : BitVec 5) (a : BitVec 5) (b : BitVec 5) (s : BitVec 2) (o : BitVec 2) (g : BitVec 3)
  /-- R218. Atomic signed maximum. -/
  | amoMax (d : BitVec 5) (a : BitVec 5) (b : BitVec 5) (s : BitVec 2) (o : BitVec 2) (g : BitVec 3)
  /-- R218. Atomic unsigned minimum. -/
  | amoMinn (d : BitVec 5) (a : BitVec 5) (b : BitVec 5) (s : BitVec 2) (o : BitVec 2) (g : BitVec 3)
  /-- R218. Atomic unsigned maximum. -/
  | amoMaxn (d : BitVec 5) (a : BitVec 5) (b : BitVec 5) (s : BitVec 2) (o : BitVec 2) (g : BitVec 3)
  /-- R218. Atomic swap. -/
  | amoSwap (d : BitVec 5) (a : BitVec 5) (b : BitVec 5) (s : BitVec 2) (o : BitVec 2) (g : BitVec 3)
  /-- R218. Atomic compare-and-swap against rd. -/
  | amoCas (d : BitVec 5) (a : BitVec 5) (b : BitVec 5) (s : BitVec 2) (o : BitVec 2) (g : BitVec 3)
  /-- R218. Atomic test-and-set of one bit. -/
  | amoTas (d : BitVec 5) (a : BitVec 5) (b : BitVec 5) (s : BitVec 2) (o : BitVec 2) (g : BitVec 3)
  /-- R219. Atomic f32 or bf16 add with fallow identity. -/
  | amoFadd (d : BitVec 5) (a : BitVec 5) (b : BitVec 5) (s : BitVec 2) (o : BitVec 2) (g : BitVec 3)
  /-- R204. Acquire fence at a scope. -/
  | fncAcq (s : BitVec 4) (g : BitVec 3)
  /-- R204. Release fence at a scope. -/
  | fncRel (s : BitVec 4) (g : BitVec 3)
  /-- R204. Acquire-release fence at a scope. -/
  | fncAr (s : BitVec 4) (g : BitVec 3)
  /-- R204. Full fence at a scope. -/
  | fncSc (s : BitVec 4) (g : BitVec 3)
  /-- R205. Orders earlier ordinary accesses before later engine accesses. -/
  | xfncOe (s : BitVec 4) (g : BitVec 3)
  /-- R205. Orders observed engine completions before later ordinary accesses. -/
  | xfncEo (s : BitVec 4) (g : BitVec 3)
  /-- R197. Prefetches a line into L1. -/
  | pref (a : BitVec 5) (o : BitVec 10) (g : BitVec 3)
  /-- R197. Prefetches a line into L2 only. -/
  | prefL2 (a : BitVec 5) (o : BitVec 10) (g : BitVec 3)
  /-- R197. Writes back a dirty L1 line and keeps it. -/
  | cfl (a : BitVec 5) (o : BitVec 10) (g : BitVec 3)
  /-- R197. Writes back and removes an L1 line. -/
  | cinv (a : BitVec 5) (o : BitVec 10) (g : BitVec 3)
  /-- R199. Waits for room and appends an entry to a hardware queue, notifying on empty-to-one. -/
  | hqw (d : BitVec 5) (a : BitVec 5) (g : BitVec 3)
  /-- R199. Appends an entry if room, writing success to a predicate. -/
  | hqwTry (d : BitVec 5) (a : BitVec 5) (p : BitVec 3) (g : BitVec 3)
  /-- R199. Waits for and removes an entry from a hardware queue. -/
  | hqr (d : BitVec 5) (a : BitVec 5) (g : BitVec 3)
  /-- R199. Removes an entry if present, writing success to a predicate. -/
  | hqrTry (d : BitVec 5) (a : BitVec 5) (p : BitVec 3) (g : BitVec 3)
  /-- R88. Opens or resumes a clause over the next n commands. -/
  | cls (n : BitVec 4)
  /-- R90. Ends the task once earlier accesses have passed translation. -/
  | tend
  /-- R89. Takes one issue clk and does nothing. -/
  | nop
  /-- R344. Reads a control register. -/
  | csrR (d : BitVec 5) (n : BitVec 11) (g : BitVec 3)
  /-- R344. Writes a control register that has no behaviour of its own. -/
  | csrW (d : BitVec 5) (a : BitVec 5) (n : BitVec 11) (g : BitVec 3)
  /-- R344. Sets bits of a control register. -/
  | csrS (d : BitVec 5) (a : BitVec 5) (n : BitVec 11) (g : BitVec 3)
  /-- R344. Clears bits of a control register. -/
  | csrC (d : BitVec 5) (a : BitVec 5) (n : BitVec 11) (g : BitVec 3)
  /-- R101. A write of the seed register loads the LFSR, turning 0 into 1. -/
  | seedWrite (v : Word)
  /-- R347. Stops the task precisely with a software fault code. -/
  | trap (a : BitVec 5) (c : BitVec 10) (g : BitVec 3)
  /-- R349. Reads and optionally sets the watchdog limit. -/
  | wdg (d : BitVec 5) (a : BitVec 5) (g : BitVec 3)
  /-- R352. Blights a job of the issuing context. -/
  | kilJ (d : BitVec 5) (a : BitVec 5) (g : BitVec 3)
  /-- R358. Kills a context (system mode only). -/
  | kilC (d : BitVec 5) (a : BitVec 5) (g : BitVec 3)
  /-- R354. Saves a context to its save area. -/
  | ctxs (d : BitVec 5) (a : BitVec 5) (g : BitVec 3)
  /-- R357. Restores a context from its save area. -/
  | ctxr (d : BitVec 5) (a : BitVec 5) (g : BitVec 3)
  /-- R348. Stops with F_BREAK when debugging is enabled, else acts as nop. -/
  | brk (c : BitVec 16)
  /-- R327. Arrives at a bed barrier as a release. -/
  | bar (b : BitVec 5) (v : BitVec 4) (i : BitVec 2) (g : BitVec 3)
  /-- R332. Advances the tile phase by n within the lead allowance. -/
  | phs (d : BitVec 5) (n : BitVec 10) (g : BitVec 3)
  /-- R332. Advances the tile phase to a value within the lead allowance. -/
  | phsTo (d : BitVec 5) (a : BitVec 5) (g : BitVec 3)
  /-- R332. Sets the tile's lead allowance. -/
  | lead (n : BitVec 8) (g : BitVec 3)
  /-- R326. Adds an explicit edge between two jobs. -/
  | dep (d : BitVec 5) (a : BitVec 5) (p : BitVec 3) (g : BitVec 3)
  /-- R316. Submits a job card to the home scheduler and waits for its status. -/
  | jsub (d : BitVec 5) (a : BitVec 5) (g : BitVec 3)
  /-- R325. Binds the lowest free slot to a card's entry and VC. -/
  | tbnd (d : BitVec 5) (a : BitVec 5) (g : BitVec 3)
  /-- R325. Unbinds the slot bound to a VC. -/
  | tbndU (n : BitVec 4) (g : BitVec 3)
  /-- R305. Inserts a tick-range demand at a sink, with optional reply. -/
  | dmd (p : BitVec 5) (a : BitVec 5) (b : BitVec 5) (e : BitVec 1) (v : BitVec 4) (g : BitVec 3)
  /-- R306. Registers a VC for a source or SOFT input's demand words. -/
  | drg (p : BitVec 5) (a : BitVec 5) (g : BitVec 3)
  /-- R306. Sets a retention floor. -/
  | drt (p : BitVec 5) (a : BitVec 5) (g : BitVec 3)
  /-- R306. Sets a pending cutting tick of a stateful operator. -/
  | dcut (p : BitVec 5) (a : BitVec 5) (g : BitVec 3)
  /-- R306. Sets a stateful operator's state address and cadence. -/
  | dcad (p : BitVec 5) (a : BitVec 5) (b : BitVec 5) (g : BitVec 3)
  /-- R308. Cancels ticks held at a sink and sends a cancel flit upstream. -/
  | dcan (p : BitVec 5) (a : BitVec 5) (b : BitVec 5) (g : BitVec 3)
  /-- R125. Element-wise add. -/
  | vadd (c : Cmd)
  /-- R125. Element-wise subtract. -/
  | vsub (c : Cmd)
  /-- R125. Element-wise multiply. -/
  | vmul (c : Cmd)
  /-- R125. Fused multiply-add. -/
  | vfma (c : Cmd)
  /-- R125. Fused multiply-subtract. -/
  | vfms (c : Cmd)
  /-- R127. Element-wise minimum. -/
  | vmin (c : Cmd)
  /-- R127. Element-wise maximum. -/
  | vmax (c : Cmd)
  /-- R125. Element-wise absolute value. -/
  | vabs (c : Cmd)
  /-- R125. Element-wise negation. -/
  | vneg (c : Cmd)
  /-- R125. Element-wise clamp between lo and hi. -/
  | vclamp (c : Cmd)
  /-- R125. Element-wise bitwise AND. -/
  | vand (c : Cmd)
  /-- R125. Element-wise bitwise OR. -/
  | vor (c : Cmd)
  /-- R125. Element-wise bitwise XOR. -/
  | vxor (c : Cmd)
  /-- R125. Element-wise bitwise NOT. -/
  | vnot (c : Cmd)
  /-- R125. Element-wise left shift. -/
  | vshl (c : Cmd)
  /-- R125. Element-wise logical right shift. -/
  | vshr (c : Cmd)
  /-- R125. Element-wise arithmetic right shift. -/
  | vsra (c : Cmd)
  /-- R128. Writes a bits-tagged mask of an element-wise comparison. -/
  | vcmp (c : Cmd)
  /-- R128. Selects elements by a mask. -/
  | vsel (c : Cmd)
  /-- R129. Copies register data, side word and tag. -/
  | vmov (c : Cmd)
  /-- R129. Broadcasts one element or an x pattern. -/
  | vbcast (c : Cmd)
  /-- R129. Permutes elements by an index register. -/
  | vperm (c : Cmd)
  /-- R129. Shifts elements within a register, filling fallow. -/
  | vshf (c : Cmd)
  /-- R130. Correctly rounded reciprocal. -/
  | vrcp (c : Cmd)
  /-- R130. Correctly rounded reciprocal square root. -/
  | vrsq (c : Cmd)
  /-- R130. Correctly rounded square root. -/
  | vsqrt (c : Cmd)
  /-- R130. Correctly rounded 2^x. -/
  | vexp2 (c : Cmd)
  /-- R130. Correctly rounded log2. -/
  | vlog2 (c : Cmd)
  /-- R130. Correctly rounded tanh. -/
  | vtanh (c : Cmd)
  /-- R130. Correctly rounded sigmoid. -/
  | vsgm (c : Cmd)
  /-- R130. Correctly rounded sin of x turns. -/
  | vsin (c : Cmd)
  /-- R132. Reduces a block into lane 0 of an a register. -/
  | vred (c : Cmd)
  /-- R132. Accumulates a block per lane into an a register. -/
  | vacc (c : Cmd)
  /-- R133. Drains an a register's values, means or counts into a v register. -/
  | vdrn (c : Cmd)
  /-- R134. Sequential inclusive or exclusive scan over a block. -/
  | vscan (c : Cmd)
  /-- R138. Places or removes a steer in the chain image. -/
  | vstr (c : Cmd)
  /-- R139. Places or removes a merge in the chain image. -/
  | vmrg (c : Cmd)
  /-- R140. Places or removes a carry in the chain image. -/
  | vcar (c : Cmd)
  /-- R141. Sets or removes join control of a stage. -/
  | vjoin (c : Cmd)
  /-- R136. Loads the tile's chain image from an 80-byte scratchpad descriptor. -/
  | vcfg (c : Cmd)
  /-- R137. Drives a register block or channel through the chain image in stream mode. -/
  | vrun (c : Cmd)
  /-- R107. Converts one part of each register between formats. -/
  | cvt (c : Cmd)
  /-- R108. Converts with saturation in place of infinities. -/
  | cvtSat (c : Cmd)
  /-- R109. Quantises a 32-element block into a Q4 block. -/
  | qblk (c : Cmd)
  /-- R111. Dequantises Q4 blocks. -/
  | dqblk (c : Cmd)
  /-- R112. Packs q6 elements into 24-bit groups. -/
  | pack6 (c : Cmd)
  /-- R112. Unpacks 24-bit groups into q6 elements. -/
  | unpk6 (c : Cmd)
  /-- R113. Writes the fallow code into a range of elements. -/
  | falFill (c : Cmd)
  /-- R114. Counts present elements into x and optionally a predicate. -/
  | falTest (c : Cmd)
  /-- R115. Sets register tags without changing data. -/
  | tagSet (c : Cmd)
  /-- R156. Loads the shadow weight plane from an m register or channel. -/
  | mls (c : Cmd)
  /-- R157. Exchanges active and shadow planes after earlier loads and rows. -/
  | mswp (c : Cmd)
  /-- R158. Streams dense activation rows past the active plane, optionally paired. -/
  | mst (c : Cmd)
  /-- R160. Streams sparse rows from value and coordinate channels. -/
  | msc (c : Cmd)
  /-- R161. Streams N:M structured activation rows. -/
  | mnm (c : Cmd)
  /-- R163. Multiplies matched values of two coordinate streams per fiber. -/
  | mintDot (c : Cmd)
  /-- R166. Drains rows of a z register into v registers. -/
  | mdr (c : Cmd)
  /-- R167. Clears the z registers named in a mask. -/
  | mclr (c : Cmd)
  /-- R164. Emits one match count per fiber pair on a channel. -/
  | mintCnt (c : Cmd)
  /-- R165. Turns count tokens into row offsets in registers. -/
  | mintScan (c : Cmd)
  /-- R194. Loads a block of v registers from memory. -/
  | vld (c : Cmd)
  /-- R194. Stores a block of v registers to memory. -/
  | vst (c : Cmd)
  /-- R195. Loads an m register from 32 rows. -/
  | tld (c : Cmd)
  /-- R195. Stores an m register as 32 rows. -/
  | tst (c : Cmd)
  /-- R196. Loads from own scratchpad once presence bits are set. -/
  | sbld (c : Cmd)
  /-- R196. Stores to a scratchpad, setting presence bits and refusing rewrites. -/
  | sbst (c : Cmd)
  /-- R196. Clears presence bits over a scratchpad range. -/
  | sbclr (c : Cmd)
  /-- R222. Vector atomic update of 32-bit words, with optional reply. -/
  | vamo (c : Cmd)
  /-- R230. Copies memory to memory or into a delivery channel. -/
  | cpy (c : Cmd)
  /-- R233. Channel copy carrying one follow-on matrix command. -/
  | cpym (c : Cmd) (follow : Cmd128)
  /-- R235. Replicates flits onto up to four branch channels. -/
  | mcst (c : Cmd)
  /-- R239. Gathers elements at coordinates onto a channel. -/
  | gath (c : Cmd)
  /-- R240. Scatters values to coordinates. -/
  | scat (c : Cmd)
  /-- R241. Loads an address-generator node from a descriptor. -/
  | agc (c : Cmd)
  /-- R242. Runs count segments of a loaded address-generator node. -/
  | seg (c : Cmd)
  /-- R252. Starts a pointer walk in an HBM walker with a rule program. -/
  | walk (c : Cmd)
  /-- R279. Checks and loads a graph image into a graph slot. -/
  | gld (c : Cmd)
  /-- R280. Fetches a slot's configuration into a region's shadow planes. -/
  | gsh (c : Cmd)
  /-- R281. Rotates a region to its shadow configuration with ROT tokens. -/
  | grot (c : Cmd)
  /-- R282. Sets a live channel's depth after it drains. -/
  | gdep (c : Cmd)
  /-- R283. Makes a graph slot live. -/
  | gstr (c : Cmd)
  /-- R284. Stops the live graph after its segments end. -/
  | gstp (c : Cmd)
  /-- R284. Switches the live graph to another slot at a segment boundary. -/
  | gsw (c : Cmd)
  /-- R253. Walk rule: loads a key word. -/
  | wkLdk (d : BitVec 3) (i : BitVec 2)
  /-- R253. Walk rule: loads a memory word. -/
  | wkLdw (d : BitVec 3) (a : BitVec 3) (o : BitVec 18)
  /-- R253. Walk rule: multiplicative hash to b bits. -/
  | wkHash (d : BitVec 3) (a : BitVec 3) (b : BitVec 6)
  /-- R253. Walk rule: adds a shifted index. -/
  | wkIdx (d : BitVec 3) (a : BitVec 3) (b : BitVec 3) (s : BitVec 6)
  /-- R253. Walk rule: unsigned compare setting LT, EQ or GT. -/
  | wkCmp (a : BitVec 3) (b : BitVec 3)
  /-- R253. Walk rule: masked byte equality setting EQ or NE. -/
  | wkEq (a : BitVec 3) (b : BitVec 3) (m : BitVec 8)
  /-- R253. Walk rule: reads the left or right child by condition. -/
  | wkLr (d : BitVec 3) (a : BitVec 3) (l : BitVec 9) (r : BitVec 9)
  /-- R253. Walk rule: follows a pointer, ending as a miss on 0. -/
  | wkNxt (d : BitVec 3) (a : BitVec 3) (o : BitVec 18)
  /-- R253. Walk rule: adds an immediate. -/
  | wkAddImm (d : BitVec 3) (a : BitVec 3) (i : BitVec 17)
  /-- R253. Walk rule: adds a register. -/
  | wkAddReg (d : BitVec 3) (a : BitVec 3) (b : BitVec 3)
  /-- R253. Walk rule: ANDs with an immediate. -/
  | wkAndImm (d : BitVec 3) (a : BitVec 3) (i : BitVec 17)
  /-- R253. Walk rule: ANDs with a register. -/
  | wkAndReg (d : BitVec 3) (a : BitVec 3) (b : BitVec 3)
  /-- R253. Walk rule: faults F_WALK_POINTER when wa >= wb. -/
  | wkChk (a : BitVec 3) (b : BitVec 3)
  /-- R253. Walk rule: jumps when the condition is in the mask. -/
  | wkJmp (t : BitVec 5) (m : BitVec 4)
  /-- R253. Walk rule: skips one rule when the condition is in the mask. -/
  | wkSkip (m : BitVec 4)
  /-- R253. Walk rule: reads n words and replies FOUND. -/
  | wkEmit (a : BitVec 3) (n : BitVec 3) (o : BitVec 15)
  /-- R253. Walk rule: replies MISS and ends. -/
  | wkMiss
  /-- R338. A write of consumed frees fault-ring entries and lets a stopped context go on. -/
  | ringConsumedWrite (v : Word)
  /-- R375. A host write to a queue doorbell performs hqw on the mapped descriptor. -/
  | queueDoorbellWrite (i : Fin 64) (v : Word)
  /-- R364. A host read of device memory is served at the home L2 slice. -/
  | hdmRead (pa : Nat) (n : Nat)
  /-- R364. A host write to device memory is performed, or dropped on a versioned page. -/
  | hdmWrite (pa : Nat) (bs : List Byte)
  /-- R365. A host snoop always misses. -/
  | hostSnoop (addr : Word)
  /-- R376. An SPDM request is answered with signed measurements or key exchange. -/
  | spdmRequest (keyExchange : Bool)
  /-- R379. A peer link exhausts its retry budget and blights users with F_ECC. -/
  | peerLinkFailure (port : Fin 12)
  /-- R66. A fetched word or command that no entry assigns traps F_ILLEGAL_OP, F_ILLEGAL_FIELD, F_MISALIGNED or another encoding fault by the fixed check order. -/
  | illegalEncoding (code : FaultCode)
  /-- R253. A walk reaching a rule word with op 0x0F to 0x1F ends with a walk fault F_ILLEGAL_OP under its policy. -/
  | wkUnassignedRule (w : Word32)
  /-- R370. A mailbox request with opcode 0x00 or 0x17 to 0xFFFF is answered with status 0x8007. -/
  | mailboxUnknownOpcode (op : BitVec 16)
  /-- R363. The CXL host link trains, or retrains down to x8 or x4 or a lower rate. -/
  | hostLinkTraining (lanes : Nat) (gtps : Nat)
  /-- R70. The sequencer picks the next READY slot round-robin to issue. -/
  | slotSelect
  /-- R71. An IDLE slot dequeues the word at its VC head, sets registers and becomes READY. -/
  | taskStart
  /-- R68. The cause of a BLOCKED slot clears and it becomes READY. -/
  | slotUnblock
  /-- R56. A port accepts a command into its queue or clause staging. -/
  | portAccept
  /-- R57. A released clause command enters its port queue when room frees. -/
  | clauseCommandEnqueue
  /-- R180. A page walk ends and the parked accesses proceed or fault. -/
  | pageWalkDone
  /-- R182. A fault found after issue stops the task at its next word boundary. -/
  | lateFault
  /-- R184. A load's data returns and writes its destination register. -/
  | loadComplete
  /-- R202. A posted access performs at a scope. -/
  | accessPerform
  /-- R188. A posted stv is added at the home port once a version slot is free. -/
  | stvHomeWrite
  /-- R188. A waiting stv's version timeout expires and it faults F_VERSION_FULL. -/
  | versionTimeout
  /-- R187. The awaited version appears or becomes impossible and the ldv ends. -/
  | ldvComplete
  /-- R204. The accesses a fence covers have performed and it completes. -/
  | fenceComplete
  /-- R214. An atomic or vamo element executes at its read-modify-write node. -/
  | atomicAtNode
  /-- R333. A queued notify word is delivered to its VC. -/
  | hqNotify
  /-- R146. A command-mode lane result register is written and its stage frees. -/
  | laneStageResult
  /-- R263. A stream element with inputs and acknowledgements fires. -/
  | elementFire
  /-- R138. A steer sends a token to its true or false path and records a decision. -/
  | steerRoute
  /-- R139. A merge takes its next token by decision queue or arrival. -/
  | mergeTake
  /-- R140. A carry injects a channel token ahead of upstream tokens. -/
  | carryTake
  /-- R137. The last token leaves boundary 6 and the vrun ends, adding its counts. -/
  | vrunEnd
  /-- R156. The shadow plane load completes and its loaded bit is set. -/
  | mlsLoaded
  /-- R155. A row's results accumulate into z after its latency. -/
  | zRowLand
  /-- R159. A supplying half's partial results reach the home half's staging. -/
  | pairStageArrive
  /-- R159. The pair timeout expires and the waiting half traps F_PAIR_ABANDONED. -/
  | pairTimeout
  /-- R168. A balance job is assigned to the bed array with least pending work. -/
  | balanceDispatch
  /-- R168. An idle array takes the oldest unstarted job from the busiest array. -/
  | balanceSteal
  /-- R322. A balance job's trigger is delivered once its tile's matrix queue is empty. -/
  | balanceTrigger
  /-- R227. A copy starts after the previous copy on its channel issued its last request. -/
  | copyStart
  /-- R230. A copy delivers a flit to its channel or writes bytes. -/
  | copyFlitDeliver
  /-- R227. The end-of-tile token is placed after a copy's last data. -/
  | copyEndOfTile
  /-- R228. A copy's reply word or versioned store is sent after its bytes perform. -/
  | copyReply
  /-- R232. An aperture store reaching the engine runs a templated copy. -/
  | templateCopy
  /-- R234. The follow-on matrix command issues 2 clk after the last flit lands. -/
  | cpymFollowOn
  /-- R236. Branches accept the offered flit and the point advances. -/
  | mcstFlitAccept
  /-- R238. A node's memory answer returns and values leave in coordinate order. -/
  | agValueReturn
  /-- R343. An engine fault is reported late or blights the job. -/
  | engineFault
  /-- R247. A queued walk is taken by a walker with room. -/
  | walkDequeue
  /-- R254. A walk rule's memory read completes. -/
  | walkMemoryRead
  /-- R248. A walk moves to a walker of the stack that homes its next read. -/
  | walkHandoff
  /-- R257. A walk writes its VC or versioned reply after its reads complete. -/
  | walkReply
  /-- R396. A walk with a fallow v key is answered MISS by walker 0 of stack 2d. -/
  | fallowKeyReply
  /-- R265. A producer sends a flit when its channel holds a free slot. -/
  | flitSend
  /-- R266. A data flit lands in scratchpad, setting presence bits. -/
  | streamBufferLanding
  /-- R275. A graft node forwards a token once earlier writes performed at cscope. -/
  | graftForward
  /-- R280. A region's shadow fetch completes loaded or failed. -/
  | shadowLoaded
  /-- R281. An element holding ROT on all inputs swaps planes and forwards ROT. -/
  | rotSwap
  /-- R284. The last EOTs are forwarded and the graph stops with its final record. -/
  | graphStopped
  /-- R292. A demand flit arrives at a port and merges into its coalescer. -/
  | demandInsert
  /-- R293. An idle port of a live slot serves its lowest held interval. -/
  | portServe
  /-- R304. A source posts demand words to its registered VC. -/
  | sourcePost
  /-- R299. A stateful operator writes its state words as a cutting version. -/
  | cuttingWrite
  /-- R305. A sink accepts an EOT, covering ticks and possibly sending dmd replies. -/
  | sinkEotAccept
  /-- R308. A cancel flit removes ticks at an operator or fan-out. -/
  | cancelFlit
  /-- R317. The home scheduler checks, numbers and admits a card against quota. -/
  | jobAdmit
  /-- R319. A version write at a watched word re-evaluates card conditions. -/
  | conditionReeval
  /-- R319. A scratchpad port reports a read region fully present. -/
  | presenceReport
  /-- R320. The die scheduler selects one ready card by aged priority and tenant. -/
  | jobSelect
  /-- R321. A trigger word reaches a target VC, binding a slot implicitly if needed. -/
  | triggerDeliver
  /-- R323. A job's work has performed at pkg; edges resolve and its reply is sent. -/
  | jobComplete
  /-- R328. All tiles of a bed have arrived and completion words are sent. -/
  | barrierComplete
  /-- R338. The containment unit writes a fault record and advances produced. -/
  | faultRecordWrite
  /-- R350. The watchdog count reaches its limit and blights the context's jobs. -/
  | watchdogExpiry
  /-- R356. A save's limit expires and the context is killed with F_SAVE_LIMIT. -/
  | saveLimitExpiry
  /-- R372. Claims ownership of an unowned device. -/
  | ownClaim
  /-- R372. Hands ownership to another master. -/
  | ownGive
  /-- R370. Returns the owner id. -/
  | ownQuery
  /-- R373. Moves the device between life-cycle states. -/
  | lifecycle
  /-- R370. Writes or erases an image key slot. -/
  | keys
  /-- R374. Kills every context and zeroes all device state. -/
  | wipe
  /-- R376. Writes the measurement log. -/
  | measure
  /-- R370. Writes counters, temperatures, rails and ECC counts. -/
  | telemetry
  /-- R317. Sets a tenant's queue-slot and counter quota. -/
  | quotaSet
  /-- R375. Binds or unbinds a doorbell to a hardware-queue descriptor. -/
  | queueMap
  /-- R370. Creates a context with tenant, table root, save area and fault ring. -/
  | ctxCreate
  /-- R370. Saves a context as ctxs does. -/
  | ctxSave
  /-- R370. Restores a context as ctxr does. -/
  | ctxRestore
  /-- R358. Kills a context as kil.c does. -/
  | ctxKill
  /-- R342. Resumes a FAULTED slot by retry or skip, or reopens selection. -/
  | ctxResume
  /-- R371. Writes a page-table entry and invalidates TLBs over a range. -/
  | ptWrite
  /-- R378. Verifies an image signature and records it as verified. -/
  | imgVerify
  /-- R371. Sets a context's launch rectangle, optionally loading and starting an image. -/
  | launch
  /-- R316. Submits a card as jsub does. -/
  | jobSubmit
  /-- R307. Inserts a demand as dmd without reply. -/
  | demand
  /-- R380. Sets die power states and timing-margin mode. -/
  | dieMode
  /-- R379. Opens or closes a peer memory window. -/
  | peerCfg
  /-- R374. A reset clears ownership and wipes the device. -/
  | reset
  /-- R382. A sensor above 100 °C steps its die down one power state per ms. -/
  | thermalThrottle
  /-- R382. A sensor at 110 °C makes the module remove power. -/
  | thermalShutdown
  /-- R374. A running wipe finishes, within 40 ms, and commands stop returning 0x8006. -/
  | wipeEnd
  /-- R380. A die's power-state change, lasting at most 2 us, ends and issue resumes at the new clock. -/
  | powerStateChangeEnd
  /-- R382. Once every sensor of a throttled die is below 92 C, the die returns up one power state at a time. -/
  | thermalRecovery
  /-- R283. The fetch of a started slot's active words ends and firing is enabled, or the fetch fails with a late F_CFG_FETCH and no graph becomes live. -/
  | activeWordsFetched
  deriving DecidableEq, Repr

end Sys2Proof
end

