-- ==== Sys2Proof/WellFormed.lean ====
section
/-! DEFINITION. The field checks of an encoding (R66, R67) that hold whatever the machine's state: which kinds of operand slot a
command's entry allows, its tag, hint, chain, stage and extent fields, its control value; and the scalar words' limits. -/
namespace Sys2Proof

/-- The kind bits [15:14] of an operand slot (R46). -/
abbrev slotKind (s : BitVec 16) : BitVec 2 := s.extractLsb' 14 2
/-- The value bits [13:0] of an operand slot. -/
abbrev slotVal (s : BitVec 16) : BitVec 14 := s.extractLsb' 0 14
/-- The sub-kind [13:11] of a special slot (R47). -/
abbrev slotSub (s : BitVec 16) : BitVec 3 := s.extractLsb' 11 3

/-- A kind of operand an entry may allow in a slot (R46 to R48, R122, R152, R193, R229, R250, R278). -/
inductive SlotRule where
  /-- 0x0000: unused -/
  | zero
  | v | x
  /-- an even x register from x2 to x30 -/
  | xe
  /-- any immediate -/
  | imm
  /-- an immediate read unsigned, from lo to hi -/
  | immU (lo hi : Nat)
  /-- an immediate read as two's complement, from lo to hi -/
  | immS (lo hi : Int)
  | m | z | a | p
  /-- a tile virtual channel -/
  | vc
  /-- a die copy channel -/
  | cc
  /-- half of a wave word -/
  | wave
  deriving DecidableEq, Repr

/-- Whether a slot is of an allowed kind, with its res0 bits zero. -/
def SlotRule.ok (s : BitVec 16) : SlotRule → Bool
  | .zero => s = 0
  | .v => slotKind s = 0 && s.extractLsb' 6 8 = 0
  | .x => slotKind s = 1 && s.extractLsb' 5 9 = 0
  | .xe => slotKind s = 1 && s.extractLsb' 5 9 = 0 && s.extractLsb' 0 1 = 0 && s.extractLsb' 1 4 != 0
  | .imm => slotKind s = 2
  | .immU lo hi => slotKind s = 2 && decide (lo ≤ (slotVal s).toNat) && decide ((slotVal s).toNat ≤ hi)
  | .immS lo hi => slotKind s = 2 && decide (lo ≤ (slotVal s).toInt) && decide ((slotVal s).toInt ≤ hi)
  | .m => slotKind s = 3 && slotSub s = 0 && s.extractLsb' 4 7 = 0
  | .z => slotKind s = 3 && slotSub s = 1 && s.extractLsb' 2 9 = 0
  | .a => slotKind s = 3 && slotSub s = 2 && s.extractLsb' 4 7 = 0
  | .vc => slotKind s = 3 && slotSub s = 3 && s.extractLsb' 4 7 = 0
  | .cc => slotKind s = 3 && slotSub s = 3 && s.extractLsb' 10 1 = 1 && s.extractLsb' 6 4 = 0
  | .p => slotKind s = 3 && slotSub s = 4 && s.extractLsb' 3 8 = 0
  | .wave => slotKind s = 3

/-- Whether some rule allows the slot. -/
def slotOk (rs : List SlotRule) (s : BitVec 16) : Bool := rs.any (SlotRule.ok s)

/-- What a command's entry says of its fields. -/
structure Shape where
  /-- the command makes a memory access: hints 0 to 5 (R40); otherwise 0 (R38) -/
  mem : Bool := false
  /-- lane classes: chain allowed, [95:92] is a stage select; otherwise [97] is res0 (R41) -/
  lane : Bool := false
  /-- the entry uses an extent -/
  ext : Bool := false
  s1 : List SlotRule := [.zero]
  s2 : List SlotRule := [.zero]
  s3 : List SlotRule := [.zero]
  s4 : List SlotRule := [.zero]
  s5 : List SlotRule := [.zero]

/-- The checks of R38, R40 to R42, R44 and R46 that every command shares. -/
def Shape.ok (sh : Shape) (c : Cmd) : Bool :=
  (c.comb != 0 || c.gb == 0) &&
  (if sh.mem then decide (c.hint.toNat ≤ 5) else c.hint == 0) &&
  (sh.lane || c.chain == 0) && (!sh.lane || decide (c.stall.toNat ≤ 6)) &&
  decide (c.tag.toNat ≤ 0x11) &&
  (sh.ext || (c.eh == 0 && c.ew == 0)) &&
  slotOk sh.s1 c.s1 && slotOk sh.s2 c.s2 && slotOk sh.s3 c.s3 && slotOk sh.s4 c.s4 && slotOk sh.s5 c.s5

/-- Whether a tag code is a floating-point format with 32 or 16 bits (f32, bf16, f16). -/
def tagFloat (t : BitVec 5) : Bool := t == 1 || t == 2 || t == 3
/-- Whether a tag code is an integer format or crd. -/
def tagInt (t : BitVec 5) : Bool := decide (8 ≤ t.toNat ∧ t.toNat ≤ 0x10)

/-- The control value of classes 0x0 and 0x1 (R123): allowed sel values, whether clear, free and decide may be set, and whether
the entry rounds. The mode must be 000 but in a format the entry rounds in.
Assumption 139 (DEDUCED). -/
def laneCtl (c : Cmd) (sels : List Nat) (clear free dec rounds : Bool) : Bool :=
  let v := slotVal c.s5
  v.extractLsb' 9 5 == 0 && (clear || v.extractLsb' 8 1 == 0) && sels.contains (v.extractLsb' 5 3).toNat &&
  (free || v.extractLsb' 4 1 == 0) && (dec || v.extractLsb' 3 1 == 0) && decide ((v.extractLsb' 0 3).toNat ≤ 5) &&
  (v.extractLsb' 0 3 == 0 || (rounds && (c.tag == 0 || tagFloat c.tag)))

/-- `vdrn` and `mdr` (R133, R166): kind with its formats; `cnt` has mode 000. -/
def drainCtl (c : Cmd) : Bool :=
  laneCtl c [0, 1, 2] true false false true &&
  (if (slotVal c.s5).extractLsb' 5 3 == 2 then c.tag == 0x0E && (slotVal c.s5).extractLsb' 0 3 == 0 else tagFloat c.tag)

/-- The control value of class 0x3 (R106): [13:10] res0, source tag, Q4 type, mode. -/
def convCtl (c : Cmd) (v : BitVec 14) (srcs : List Nat) : Bool :=
  v.extractLsb' 10 4 == 0 && srcs.contains (v.extractLsb' 5 5).toNat && decide ((v.extractLsb' 0 3).toNat ≤ 5) &&
  (v.extractLsb' 3 2 == 0 || c.tag == 6)

/-- Slot kinds of the third operand of a group A or B command. -/
def opnd : List SlotRule := [.v, .x, .imm]
/-- Slot kinds of a stride (R193). -/
def strd : List SlotRule := [.immU 0 16383, .x, .zero]
/-- A reply slot of class 0x7. -/
def reply7 : List SlotRule := [.vc, .xe, .zero]

/-- An element-wise command's shape: slot 3 and slot 4 by entry (R122). -/
def laneShape (s3 s4 : List SlotRule) : Shape :=
  { lane := true, ext := true, s1 := [.v], s2 := [.v], s3, s4, s5 := [.imm] }

/-- Both wave slots are zero, or both are halves of a wave word (R48, R193). -/
def wavePair (c : Cmd) : Bool := (c.s4 == 0 && c.s5 == 0) || (slotKind c.s4 == 3 && slotKind c.s5 == 3)

/-- Tags `vld` and `sbld` take (R193). -/
def loadTag (t : BitVec 5) : Bool := t != 0 && t != 7
/-- Weight and tile formats (R153, R193). -/
def tileTag (t : BitVec 5) : Bool := [2, 3, 4, 5, 8, 6].contains t.toNat
/-- Value formats of the sparse commands (R160, R161, R163). -/
def sparseTag (t : BitVec 5) : Bool := [2, 3, 4, 5, 8].contains t.toNat

/-- The formats of `gath`, `scat` and a descriptor (R239 to R241). -/
def agTag (t : BitVec 5) : Bool := t != 0 && t != 6 && t != 7 && decide (t.toNat ≤ 0x11)
/-- The control value of `gath` and `scat` (R229). -/
def agCtl (c : Cmd) (reply : Bool) : Bool :=
  (slotVal c.s5).extractLsb' 9 5 == 0 && (reply || (slotVal c.s5).extractLsb' 8 1 == 0) && (slotVal c.s5).extractLsb' 2 2 == 0

/-- A cc or VC operand. -/
def chan : List SlotRule := [.vc, .cc]
def rowImm : List SlotRule := [.immU 0 31, .x]
def fillSlot : List SlotRule := [.x, .imm, .zero]

/-- The field checks of every command (R66): its shape, and what its entry adds. -/
def cmdOk : Instr → Bool
  | .vadd c | .vsub c | .vmul c => (laneShape opnd [.zero]).ok c && laneCtl c [0] false false false true
  | .vfma c | .vfms c => (laneShape opnd opnd).ok c && laneCtl c [0] false false false true
  | .vmin c | .vmax c => (laneShape opnd [.zero]).ok c && laneCtl c [0] false false true false
  | .vabs c | .vneg c => (laneShape [.zero] [.zero]).ok c && laneCtl c [0] false false false false
  | .vclamp c => (laneShape opnd opnd).ok c && laneCtl c [0] false false true false
  | .vand c | .vor c | .vxor c => (laneShape opnd [.zero]).ok c && laneCtl c [0] false false false false
  | .vnot c => (laneShape [.zero] [.zero]).ok c && laneCtl c [0] false false false false
  | .vshl c | .vshr c | .vsra c =>
      (laneShape [.v, .x, .immS 0 63] [.zero]).ok c && laneCtl c [0] false false false false
  | .vcmp c => (laneShape opnd [.zero]).ok c && laneCtl c [0, 1, 2, 3, 4, 5] false false true false
  | .vsel c => (laneShape [.v] [.v]).ok c && laneCtl c [0] false false false false
  | .vmov c => (laneShape [.zero] [.zero]).ok c && laneCtl c [0] false false false false
  | .vbcast c =>
      ((laneShape [.immU 0 16383] [.zero]).ok c ||
        ({ lane := true, ext := true, s1 := [.v], s2 := [.x], s5 := [.imm] : Shape }.ok c && c.tag != 0)) &&
      laneCtl c [0] false false false false
  | .vperm c => (laneShape [.v] [.zero]).ok c && laneCtl c [0] false false false false
  | .vshf c => (laneShape [.x, .immS (-63) 63] [.zero]).ok c && laneCtl c [0] false false false false
  | .vrcp c | .vrsq c | .vsqrt c | .vexp2 c | .vlog2 c | .vtanh c | .vsgm c | .vsin c =>
      (laneShape [.zero] [.zero]).ok c && laneCtl c [0] false false false true
  | .vred c | .vacc c =>
      { lane := true, ext := true, s1 := [.a], s2 := [.v], s5 := [.imm] : Shape }.ok c &&
      laneCtl c [0, 1, 2] false true false false
  | .vdrn c => { lane := true, s1 := [.v], s2 := [.a], s4 := fillSlot, s5 := [.imm] : Shape }.ok c && drainCtl c
  | .vscan c => (laneShape [.zero] [.zero]).ok c && laneCtl c [0, 1, 2, 4, 5, 6] false false false true
  | .vstr c =>
      { lane := true, s1 := [.immU 1 5], s2 := [.vc, .immU 0 6], s3 := [.immU 0 3, .zero] : Shape }.ok c && c.tag == 0 &&
      (slotKind c.s2 == 3 || slotVal c.s2 == 0 || decide ((slotVal c.s1).toNat < (slotVal c.s2).toNat)) &&
      (c.s3 != 0 || c.s2 == 0x8000)
  | .vmrg c => { lane := true, s1 := [.immU 1 6], s2 := [.vc, .zero], s3 := [.immU 0 4, .immU 7 7] : Shape }.ok c && c.tag == 0
  | .vcar c => { lane := true, s1 := [.immU 0 5], s2 := [.vc, .immU 0 0] : Shape }.ok c && c.tag == 0
  | .vjoin c =>
      { lane := true, s1 := [.immU 0 5], s2 := [.immU 0 4095, .zero], s3 := [.immU 0 63, .zero] : Shape }.ok c && c.tag == 0 &&
      ((c.s2 == 0) == (c.s3 == 0))
  | .vcfg c => { lane := true, mem := true, s1 := [.x] : Shape }.ok c && c.tag == 0
  | .vrun c =>
      { lane := true, ext := true, s1 := [.v, .vc], s2 := [.v, .vc], s3 := [.immU 1 16383, .x, .zero] : Shape }.ok c &&
      (slotKind c.s1 == 0 || slotKind c.s2 == 0 || (c.eh == 0 && c.ew == 0)) && (slotKind c.s2 != 0 || c.s3 == 0)
  | .cvt c | .cvtSat c =>
      { ext := true, s1 := [.v], s2 := [.v], s3 := [.immU 0 16383], s4 := [.imm], s5 := [.immU 0 63, .x, .zero] : Shape }.ok c &&
      c.tag != 0 && c.tag != 0x11 && ((c.tag == 6) == (c.s5 != 0)) &&
      convCtl c (slotVal c.s4) [0, 1, 2, 3, 4, 5, 7, 8, 9, 10, 11, 12, 13, 14, 15, 16]
  | .qblk c =>
      { ext := true, s1 := [.v], s2 := [.v], s3 := [.immU 0 3], s4 := [.imm] : Shape }.ok c && c.tag == 6 &&
      convCtl c (slotVal c.s4) [0, 2, 3]
  | .dqblk c =>
      { ext := true, s1 := [.v], s2 := [.v], s3 := [.immU 0 7], s4 := [.imm] : Shape }.ok c && tagFloat c.tag &&
      (c.tag == 1 || decide ((slotVal c.s3).toNat ≤ 3)) && convCtl c (slotVal c.s4) [0, 6]
  | .pack6 c | .unpk6 c => { ext := true, s1 := [.v], s2 := [.v] : Shape }.ok c && c.tag == 7
  | .falFill c =>
      { ext := true, s1 := [.v], s2 := [.immU 0 16383, .x], s3 := [.immU 0 16383, .x] : Shape }.ok c && c.tag != 0 && c.tag != 0x11
  | .falTest c => { ext := true, s1 := [.x], s2 := [.v], s3 := [.p, .zero] : Shape }.ok c
  | .tagSet c => { ext := true, s1 := [.v] : Shape }.ok c && c.tag != 0
  | .mls c => { s1 := [.m, .vc, .cc] : Shape }.ok c && (slotSub c.s1 == 0 || c.tag != 0)
  | .mswp c => ({ } : Shape).ok c && c.tag == 0
  | .mst c =>
      { ext := true, s1 := [.z], s2 := [.v, .vc, .cc], s3 := rowImm, s4 := [.imm], s5 := [.immU 1 32, .x, .zero] : Shape }.ok c &&
      (slotVal c.s4).extractLsb' 4 10 == 0 && (slotVal c.s4).extractLsb' 0 3 == 0 &&
      (if slotKind c.s2 == 0 then c.s5 == 0 else c.eh == 0 && c.ew == 0 && c.tag != 0)
  | .msc c => { s1 := [.z], s2 := chan, s3 := chan, s4 := rowImm : Shape }.ok c && sparseTag c.tag
  | .mnm c =>
      { ext := true, s1 := [.z], s2 := [.v], s3 := [.v], s4 := rowImm, s5 := [.imm] : Shape }.ok c &&
      (slotVal c.s5).extractLsb' 2 12 == 0
  | .mintDot c => { s1 := [.z], s2 := chan, s3 := chan, s4 := chan, s5 := chan : Shape }.ok c && sparseTag c.tag
  | .mintCnt c => { s1 := [.vc], s2 := chan, s3 := chan : Shape }.ok c && (c.tag == 0x0D || c.tag == 0x0E)
  | .mintScan c =>
      { ext := true, s1 := [.v], s2 := chan, s3 := [.immU 0 16383, .x] : Shape }.ok c && (c.tag == 0x0E || c.tag == 0x0F)
  | .mdr c =>
      { ext := true, s1 := [.v], s2 := [.z], s3 := rowImm, s4 := fillSlot, s5 := [.imm] : Shape }.ok c && drainCtl c
  | .mclr c => { s1 := [.immU 1 15] : Shape }.ok c && c.tag == 0
  | .vld c | .sbld c =>
      { mem := true, ext := true, s1 := [.v], s2 := [.x], s3 := strd, s4 := [.wave, .zero], s5 := [.wave, .zero] : Shape }.ok c &&
      loadTag c.tag && wavePair c
  | .vst c | .sbst c =>
      { mem := true, ext := true, s1 := [.v], s2 := [.x], s3 := strd, s4 := [.wave, .zero], s5 := [.wave, .zero] : Shape }.ok c &&
      wavePair c
  | .tld c =>
      { mem := true, s1 := [.m], s2 := [.x], s3 := strd, s4 := [.wave, .zero], s5 := [.wave, .zero] : Shape }.ok c &&
      tileTag c.tag && wavePair c
  | .tst c =>
      { mem := true, s1 := [.m], s2 := [.x], s3 := strd, s4 := [.wave, .zero], s5 := [.wave, .zero] : Shape }.ok c &&
      (c.tag == 0 || tileTag c.tag) && wavePair c
  | .sbclr c => { mem := true, s1 := [.x], s2 := [.immU 0 16383, .x] : Shape }.ok c && c.tag == 0
  | .vamo c =>
      { mem := true, ext := true, s1 := [.x], s2 := [.v], s3 := [.v, .zero], s4 := [.imm], s5 := [.vc, .zero] : Shape }.ok c &&
      (slotVal c.s4).extractLsb' 8 6 == 0 && (slotVal c.s4).extractLsb' 0 5 == 0 &&
      decide (((slotVal c.s4).extractLsb' 5 3).toNat ≤ 5)
  | .cpy c =>
      ({ mem := true, s1 := [.x], s2 := [.x], s3 := [.immU 0 16383, .x], s4 := [.cc], s5 := reply7 : Shape }.ok c ||
        { mem := true, s1 := [.cc], s2 := [.x], s3 := [.immU 0 16383, .x], s5 := reply7 : Shape }.ok c) && c.tag == 0
  | .cpym c _ => { mem := true, s1 := [.cc], s2 := [.x], s3 := [.immU 0 16383, .x], s5 := reply7 : Shape }.ok c && c.tag == 0
  | .mcst c =>
      { mem := true, s1 := [.x], s2 := [.x], s3 := [.immU 0 16383, .x], s4 := [.cc], s5 := reply7 : Shape }.ok c && c.tag == 0
  | .gath c =>
      { mem := true, ext := true, s1 := [.vc, .cc], s2 := [.x], s3 := [.v, .vc], s4 := [.immU 0 16383, .x, .zero],
        s5 := [.imm] : Shape }.ok c && (slotKind c.s3 == 0 || (c.eh == 0 && c.ew == 0)) && agCtl c false && agTag c.tag
  | .scat c =>
      { mem := true, ext := true, s1 := [.x], s2 := [.v, .vc], s3 := [.v, .vc], s4 := [.immU 0 16383, .x, .zero],
        s5 := [.imm] : Shape }.ok c && (slotKind c.s2 == 0 || slotKind c.s3 == 0 || (c.eh == 0 && c.ew == 0)) && agCtl c true && agTag c.tag
  | .agc c => { mem := true, s1 := [.immU 0 3], s2 := [.x] : Shape }.ok c && c.tag == 0
  | .seg c => { mem := true, s1 := [.immU 0 3], s2 := [.x], s3 := [.immU 1 16383, .x] : Shape }.ok c && c.tag == 0
  | .walk c =>
      { ext := true, s1 := [.x], s2 := [.x], s3 := [.x, .v], s4 := [.immU 4 16383], s5 := [.vc, .xe] : Shape }.ok c &&
      c.tag != 6 && c.tag != 7 && c.tag != 0x11 &&
      (slotKind c.s3 == 0 || c.eh.extractLsb' 0 2 == 0 && c.ew.extractLsb' 2 1 == 0)
  | .gld c => { mem := true, s1 := [.immU 0 3], s2 := [.x] : Shape }.ok c && c.tag == 0
  | .gsh c => { s1 := [.immU 0 3], s2 := [.x, .zero], s3 := [.vc, .zero] : Shape }.ok c && c.tag == 0
  | .grot c => { s1 := [.x, .zero], s2 := [.vc, .zero] : Shape }.ok c && c.tag == 0
  | .gdep c => { s1 := [.immU 0 4095, .x], s2 := [.immU 1 64, .x] : Shape }.ok c && c.tag == 0
  | .gstr c => { s1 := [.immU 0 3] : Shape }.ok c && c.tag == 0
  | .gstp c => { s1 := [.vc, .zero] : Shape }.ok c && c.tag == 0
  | .gsw c => { s1 := [.immU 0 3], s2 := [.vc, .zero] : Shape }.ok c && c.tag == 0
  | _ => true

/-- The assigned control-register numbers (R345). -/
def csrAssigned (n : BitVec 11) : Bool := decide (n.toNat ≤ 0x014) || (decide (0x020 ≤ n.toNat) && decide (n.toNat ≤ 0x02F))

/-- The limits the scalar words and walk rules set on their own fields (R36, R66, R219, R253, R332, R344). -/
def wordOk : Instr → Bool
  | .bfx _ _ l w _ | .bfxS _ _ l w _ | .bfi _ _ l w _ => decide (l.toNat + w.toNat + 1 ≤ 64)
  | .fncAcq s _ | .fncRel s _ | .fncAr s _ | .fncSc s _ | .xfncOe s _ | .xfncEo s _ => decide (s.toNat ≤ 11)
  | .cls n => n != 0
  | .csrR _ n _ | .csrW _ _ n _ | .csrS _ _ n _ | .csrC _ _ n _ => csrAssigned n
  | .phs _ n _ => n != 0
  | .lead n _ => n != 0
  | .amoFadd _ _ _ s _ _ => s == 1 || s == 2
  | .wkEq _ _ m => m != 0
  | .wkJmp _ m | .wkSkip m => m != 0
  | .wkUnassignedRule w => decide (15 ≤ (w.extractLsb' 27 5).toNat)
  | _ => true

/-- A well-formed instruction: its fields are ones the encoding assigns. -/
def Instr.wellFormed (i : Instr) : Bool := wordOk i && cmdOk i

end Sys2Proof
end

