-- ==== Sys2Proof/Decode.lean ====
section
/-! DEFINITION. The decoder and the encoder of the fetched words (R30 to R50, R66, R67), and of walk rules (R253). Decoding is total:
a word no entry assigns is `illegalEncoding` with its fault code. The arms follow spec/opcode_table.json. -/
namespace Sys2Proof

/-- A word whose major or sub-operation is unassigned (R66). -/
abbrev badOp : Instr := .illegalEncoding .illegalOp
/-- A word with a field out of its limits (R66). -/
abbrev badField : Instr := .illegalEncoding .illegalField

/-! ## Scalar words -/

/-- Major 0x01 (R36): the sub-operation is bits [10:3]. -/
def decodeIntR (w : Word32) : Instr :=
  match w.extractLsb' 3 8 with
  | 0#8 => .add (w.extractLsb' 21 5) (w.extractLsb' 16 5) (w.extractLsb' 11 5) (w.extractLsb' 0 3)
  | 1#8 => .sub (w.extractLsb' 21 5) (w.extractLsb' 16 5) (w.extractLsb' 11 5) (w.extractLsb' 0 3)
  | 2#8 => .and (w.extractLsb' 21 5) (w.extractLsb' 16 5) (w.extractLsb' 11 5) (w.extractLsb' 0 3)
  | 3#8 => .or (w.extractLsb' 21 5) (w.extractLsb' 16 5) (w.extractLsb' 11 5) (w.extractLsb' 0 3)
  | 4#8 => .xor (w.extractLsb' 21 5) (w.extractLsb' 16 5) (w.extractLsb' 11 5) (w.extractLsb' 0 3)
  | 5#8 => .andn (w.extractLsb' 21 5) (w.extractLsb' 16 5) (w.extractLsb' 11 5) (w.extractLsb' 0 3)
  | 6#8 => .sll (w.extractLsb' 21 5) (w.extractLsb' 16 5) (w.extractLsb' 11 5) (w.extractLsb' 0 3)
  | 7#8 => .srl (w.extractLsb' 21 5) (w.extractLsb' 16 5) (w.extractLsb' 11 5) (w.extractLsb' 0 3)
  | 8#8 => .sra (w.extractLsb' 21 5) (w.extractLsb' 16 5) (w.extractLsb' 11 5) (w.extractLsb' 0 3)
  | 9#8 => .rol (w.extractLsb' 21 5) (w.extractLsb' 16 5) (w.extractLsb' 11 5) (w.extractLsb' 0 3)
  | 10#8 => .mul (w.extractLsb' 21 5) (w.extractLsb' 16 5) (w.extractLsb' 11 5) (w.extractLsb' 0 3)
  | 11#8 => .mulh (w.extractLsb' 21 5) (w.extractLsb' 16 5) (w.extractLsb' 11 5) (w.extractLsb' 0 3)
  | 12#8 => .mulhn (w.extractLsb' 21 5) (w.extractLsb' 16 5) (w.extractLsb' 11 5) (w.extractLsb' 0 3)
  | 13#8 => .div (w.extractLsb' 21 5) (w.extractLsb' 16 5) (w.extractLsb' 11 5) (w.extractLsb' 0 3)
  | 14#8 => .divn (w.extractLsb' 21 5) (w.extractLsb' 16 5) (w.extractLsb' 11 5) (w.extractLsb' 0 3)
  | 15#8 => .rem (w.extractLsb' 21 5) (w.extractLsb' 16 5) (w.extractLsb' 11 5) (w.extractLsb' 0 3)
  | 16#8 => .remn (w.extractLsb' 21 5) (w.extractLsb' 16 5) (w.extractLsb' 11 5) (w.extractLsb' 0 3)
  | 17#8 => .min (w.extractLsb' 21 5) (w.extractLsb' 16 5) (w.extractLsb' 11 5) (w.extractLsb' 0 3)
  | 18#8 => .minn (w.extractLsb' 21 5) (w.extractLsb' 16 5) (w.extractLsb' 11 5) (w.extractLsb' 0 3)
  | 19#8 => .max (w.extractLsb' 21 5) (w.extractLsb' 16 5) (w.extractLsb' 11 5) (w.extractLsb' 0 3)
  | 20#8 => .maxn (w.extractLsb' 21 5) (w.extractLsb' 16 5) (w.extractLsb' 11 5) (w.extractLsb' 0 3)
  | 21#8 => .slt (w.extractLsb' 21 5) (w.extractLsb' 16 5) (w.extractLsb' 11 5) (w.extractLsb' 0 3)
  | 22#8 => .sltn (w.extractLsb' 21 5) (w.extractLsb' 16 5) (w.extractLsb' 11 5) (w.extractLsb' 0 3)
  | 23#8 => if w.extractLsb' 11 5 = 0#5 then .clz (w.extractLsb' 21 5) (w.extractLsb' 16 5) (w.extractLsb' 0 3) else badField
  | 24#8 => if w.extractLsb' 11 5 = 0#5 then .ctz (w.extractLsb' 21 5) (w.extractLsb' 16 5) (w.extractLsb' 0 3) else badField
  | 25#8 => if w.extractLsb' 11 5 = 0#5 then .popc (w.extractLsb' 21 5) (w.extractLsb' 16 5) (w.extractLsb' 0 3) else badField
  | _ => badOp

/-- Major 0x08 (R36): the sub-operation is bits [15:13]. -/
def decodeShift (w : Word32) : Instr :=
  match w.extractLsb' 13 3 with
  | 0#3 => if w.extractLsb' 9 4 = 0#4 then .slli (w.extractLsb' 21 5) (w.extractLsb' 16 5) (w.extractLsb' 3 6) (w.extractLsb' 0 3) else badField
  | 1#3 => if w.extractLsb' 9 4 = 0#4 then .srli (w.extractLsb' 21 5) (w.extractLsb' 16 5) (w.extractLsb' 3 6) (w.extractLsb' 0 3) else badField
  | 2#3 => if w.extractLsb' 9 4 = 0#4 then .srai (w.extractLsb' 21 5) (w.extractLsb' 16 5) (w.extractLsb' 3 6) (w.extractLsb' 0 3) else badField
  | 3#3 => if w.extractLsb' 9 4 = 0#4 then .roli (w.extractLsb' 21 5) (w.extractLsb' 16 5) (w.extractLsb' 3 6) (w.extractLsb' 0 3) else badField
  | _ => badOp

/-- Major 0x0B (R36): the sub-operation is bits [3:3]. -/
def decodeBfx (w : Word32) : Instr :=
  match w.extractLsb' 3 1 with
  | 0#1 => if (w.extractLsb' 10 6).toNat + (w.extractLsb' 4 6).toNat + 1 ≤ 64 then .bfx (w.extractLsb' 21 5) (w.extractLsb' 16 5) (w.extractLsb' 10 6) (w.extractLsb' 4 6) (w.extractLsb' 0 3) else badField
  | 1#1 => if (w.extractLsb' 10 6).toNat + (w.extractLsb' 4 6).toNat + 1 ≤ 64 then .bfxS (w.extractLsb' 21 5) (w.extractLsb' 16 5) (w.extractLsb' 10 6) (w.extractLsb' 4 6) (w.extractLsb' 0 3) else badField

/-- Major 0x0E (R36): the sub-operation is bits [5:3]. -/
def decodePcmp (w : Word32) : Instr :=
  match w.extractLsb' 3 3 with
  | 0#3 => if w.extractLsb' 24 2 = 0#2 ∧ w.extractLsb' 6 5 = 0#5 then .pcmpEq (w.extractLsb' 21 3) (w.extractLsb' 16 5) (w.extractLsb' 11 5) (w.extractLsb' 0 3) else badField
  | 1#3 => if w.extractLsb' 24 2 = 0#2 ∧ w.extractLsb' 6 5 = 0#5 then .pcmpNe (w.extractLsb' 21 3) (w.extractLsb' 16 5) (w.extractLsb' 11 5) (w.extractLsb' 0 3) else badField
  | 2#3 => if w.extractLsb' 24 2 = 0#2 ∧ w.extractLsb' 6 5 = 0#5 then .pcmpLt (w.extractLsb' 21 3) (w.extractLsb' 16 5) (w.extractLsb' 11 5) (w.extractLsb' 0 3) else badField
  | 3#3 => if w.extractLsb' 24 2 = 0#2 ∧ w.extractLsb' 6 5 = 0#5 then .pcmpGe (w.extractLsb' 21 3) (w.extractLsb' 16 5) (w.extractLsb' 11 5) (w.extractLsb' 0 3) else badField
  | 4#3 => if w.extractLsb' 24 2 = 0#2 ∧ w.extractLsb' 6 5 = 0#5 then .pcmpLtn (w.extractLsb' 21 3) (w.extractLsb' 16 5) (w.extractLsb' 11 5) (w.extractLsb' 0 3) else badField
  | 5#3 => if w.extractLsb' 24 2 = 0#2 ∧ w.extractLsb' 6 5 = 0#5 then .pcmpGen (w.extractLsb' 21 3) (w.extractLsb' 16 5) (w.extractLsb' 11 5) (w.extractLsb' 0 3) else badField
  | _ => badOp

/-- Major 0x10 (R36): the sub-operation is bits [15:13]. -/
def decodeBranch (w : Word32) : Instr :=
  match w.extractLsb' 13 3 with
  | 0#3 => .bEq (w.extractLsb' 21 5) (w.extractLsb' 16 5) (w.extractLsb' 0 13)
  | 1#3 => .bNe (w.extractLsb' 21 5) (w.extractLsb' 16 5) (w.extractLsb' 0 13)
  | 2#3 => .bLt (w.extractLsb' 21 5) (w.extractLsb' 16 5) (w.extractLsb' 0 13)
  | 3#3 => .bGe (w.extractLsb' 21 5) (w.extractLsb' 16 5) (w.extractLsb' 0 13)
  | 4#3 => .bLtn (w.extractLsb' 21 5) (w.extractLsb' 16 5) (w.extractLsb' 0 13)
  | 5#3 => .bGen (w.extractLsb' 21 5) (w.extractLsb' 16 5) (w.extractLsb' 0 13)
  | _ => badOp

/-- Major 0x11 (R36): the sub-operation is bits [15:13]. -/
def decodeBp (w : Word32) : Instr :=
  match w.extractLsb' 13 3 with
  | 0#3 => if w.extractLsb' 24 2 = 0#2 ∧ w.extractLsb' 16 5 = 0#5 then .bpT (w.extractLsb' 21 3) (w.extractLsb' 0 13) else badField
  | 1#3 => if w.extractLsb' 24 2 = 0#2 ∧ w.extractLsb' 16 5 = 0#5 then .bpF (w.extractLsb' 21 3) (w.extractLsb' 0 13) else badField
  | _ => badOp

/-- Major 0x14 (R36): the sub-operation is bits [15:13]. -/
def decodeLoad (w : Word32) : Instr :=
  match w.extractLsb' 13 3 with
  | 0#3 => .ldb (w.extractLsb' 21 5) (w.extractLsb' 16 5) (w.extractLsb' 3 10) (w.extractLsb' 0 3)
  | 1#3 => .ldbs (w.extractLsb' 21 5) (w.extractLsb' 16 5) (w.extractLsb' 3 10) (w.extractLsb' 0 3)
  | 2#3 => .ldh (w.extractLsb' 21 5) (w.extractLsb' 16 5) (w.extractLsb' 3 10) (w.extractLsb' 0 3)
  | 3#3 => .ldhs (w.extractLsb' 21 5) (w.extractLsb' 16 5) (w.extractLsb' 3 10) (w.extractLsb' 0 3)
  | 4#3 => .ldw (w.extractLsb' 21 5) (w.extractLsb' 16 5) (w.extractLsb' 3 10) (w.extractLsb' 0 3)
  | 5#3 => .ldws (w.extractLsb' 21 5) (w.extractLsb' 16 5) (w.extractLsb' 3 10) (w.extractLsb' 0 3)
  | 6#3 => .ldd (w.extractLsb' 21 5) (w.extractLsb' 16 5) (w.extractLsb' 3 10) (w.extractLsb' 0 3)
  | _ => badOp

/-- Major 0x15 (R36): the sub-operation is bits [15:13]. -/
def decodeStore (w : Word32) : Instr :=
  match w.extractLsb' 13 3 with
  | 0#3 => .stb (w.extractLsb' 21 5) (w.extractLsb' 16 5) (w.extractLsb' 3 10) (w.extractLsb' 0 3)
  | 1#3 => .sth (w.extractLsb' 21 5) (w.extractLsb' 16 5) (w.extractLsb' 3 10) (w.extractLsb' 0 3)
  | 2#3 => .stw (w.extractLsb' 21 5) (w.extractLsb' 16 5) (w.extractLsb' 3 10) (w.extractLsb' 0 3)
  | 3#3 => .std (w.extractLsb' 21 5) (w.extractLsb' 16 5) (w.extractLsb' 3 10) (w.extractLsb' 0 3)
  | _ => badOp

/-- Major 0x16 (R36): the sub-operation is bits [3:3]. -/
def decodeLdv (w : Word32) : Instr :=
  match w.extractLsb' 3 1 with
  | 0#1 => if w.extractLsb' 4 7 = 0#7 then .ldvEq (w.extractLsb' 21 5) (w.extractLsb' 16 5) (w.extractLsb' 11 5) (w.extractLsb' 0 3) else badField
  | 1#1 => if w.extractLsb' 4 7 = 0#7 then .ldvGe (w.extractLsb' 21 5) (w.extractLsb' 16 5) (w.extractLsb' 11 5) (w.extractLsb' 0 3) else badField

/-- Major 0x17 (R36): the sub-operation is bits [3:3]. -/
def decodeStv (w : Word32) : Instr :=
  match w.extractLsb' 3 1 with
  | 0#1 => if w.extractLsb' 4 7 = 0#7 then .stv (w.extractLsb' 21 5) (w.extractLsb' 16 5) (w.extractLsb' 11 5) (w.extractLsb' 0 3) else badField
  | 1#1 => if w.extractLsb' 21 5 = 0#5 ∧ w.extractLsb' 4 7 = 0#7 then .stvRsv (w.extractLsb' 16 5) (w.extractLsb' 11 5) (w.extractLsb' 0 3) else badField

/-- Major 0x18 (R36): the sub-operation is bits [3:3]. -/
def decodeRclm (w : Word32) : Instr :=
  match w.extractLsb' 3 1 with
  | 0#1 => if w.extractLsb' 4 7 = 0#7 then .rclm (w.extractLsb' 21 5) (w.extractLsb' 16 5) (w.extractLsb' 11 5) (w.extractLsb' 0 3) else badField
  | _ => badOp

/-- Major 0x19 (R36): the sub-operation is bits [10:7]. -/
def decodeAmo (w : Word32) : Instr :=
  match w.extractLsb' 7 4 with
  | 0#4 => .amoAdd (w.extractLsb' 21 5) (w.extractLsb' 16 5) (w.extractLsb' 11 5) (w.extractLsb' 5 2) (w.extractLsb' 3 2) (w.extractLsb' 0 3)
  | 1#4 => .amoAnd (w.extractLsb' 21 5) (w.extractLsb' 16 5) (w.extractLsb' 11 5) (w.extractLsb' 5 2) (w.extractLsb' 3 2) (w.extractLsb' 0 3)
  | 2#4 => .amoOr (w.extractLsb' 21 5) (w.extractLsb' 16 5) (w.extractLsb' 11 5) (w.extractLsb' 5 2) (w.extractLsb' 3 2) (w.extractLsb' 0 3)
  | 3#4 => .amoXor (w.extractLsb' 21 5) (w.extractLsb' 16 5) (w.extractLsb' 11 5) (w.extractLsb' 5 2) (w.extractLsb' 3 2) (w.extractLsb' 0 3)
  | 4#4 => .amoMin (w.extractLsb' 21 5) (w.extractLsb' 16 5) (w.extractLsb' 11 5) (w.extractLsb' 5 2) (w.extractLsb' 3 2) (w.extractLsb' 0 3)
  | 5#4 => .amoMax (w.extractLsb' 21 5) (w.extractLsb' 16 5) (w.extractLsb' 11 5) (w.extractLsb' 5 2) (w.extractLsb' 3 2) (w.extractLsb' 0 3)
  | 6#4 => .amoMinn (w.extractLsb' 21 5) (w.extractLsb' 16 5) (w.extractLsb' 11 5) (w.extractLsb' 5 2) (w.extractLsb' 3 2) (w.extractLsb' 0 3)
  | 7#4 => .amoMaxn (w.extractLsb' 21 5) (w.extractLsb' 16 5) (w.extractLsb' 11 5) (w.extractLsb' 5 2) (w.extractLsb' 3 2) (w.extractLsb' 0 3)
  | 8#4 => .amoSwap (w.extractLsb' 21 5) (w.extractLsb' 16 5) (w.extractLsb' 11 5) (w.extractLsb' 5 2) (w.extractLsb' 3 2) (w.extractLsb' 0 3)
  | 9#4 => .amoCas (w.extractLsb' 21 5) (w.extractLsb' 16 5) (w.extractLsb' 11 5) (w.extractLsb' 5 2) (w.extractLsb' 3 2) (w.extractLsb' 0 3)
  | 10#4 => .amoTas (w.extractLsb' 21 5) (w.extractLsb' 16 5) (w.extractLsb' 11 5) (w.extractLsb' 5 2) (w.extractLsb' 3 2) (w.extractLsb' 0 3)
  | 11#4 => if (w.extractLsb' 6 1 ≠ w.extractLsb' 5 1) then .amoFadd (w.extractLsb' 21 5) (w.extractLsb' 16 5) (w.extractLsb' 11 5) (w.extractLsb' 5 2) (w.extractLsb' 3 2) (w.extractLsb' 0 3) else badField
  | _ => badOp

/-- Major 0x1A (R36): the sub-operation is bits [15:14]. -/
def decodeFnc (w : Word32) : Instr :=
  match w.extractLsb' 14 2 with
  | 0#2 => if w.extractLsb' 16 10 = 0#10 ∧ w.extractLsb' 3 7 = 0#7 ∧ (w.extractLsb' 10 4).toNat ≤ 11 then .fncAcq (w.extractLsb' 10 4) (w.extractLsb' 0 3) else badField
  | 1#2 => if w.extractLsb' 16 10 = 0#10 ∧ w.extractLsb' 3 7 = 0#7 ∧ (w.extractLsb' 10 4).toNat ≤ 11 then .fncRel (w.extractLsb' 10 4) (w.extractLsb' 0 3) else badField
  | 2#2 => if w.extractLsb' 16 10 = 0#10 ∧ w.extractLsb' 3 7 = 0#7 ∧ (w.extractLsb' 10 4).toNat ≤ 11 then .fncAr (w.extractLsb' 10 4) (w.extractLsb' 0 3) else badField
  | 3#2 => if w.extractLsb' 16 10 = 0#10 ∧ w.extractLsb' 3 7 = 0#7 ∧ (w.extractLsb' 10 4).toNat ≤ 11 then .fncSc (w.extractLsb' 10 4) (w.extractLsb' 0 3) else badField

/-- Major 0x1B (R36): the sub-operation is bits [15:15]. -/
def decodeXfnc (w : Word32) : Instr :=
  match w.extractLsb' 15 1 with
  | 0#1 => if w.extractLsb' 16 10 = 0#10 ∧ w.extractLsb' 14 1 = 0#1 ∧ w.extractLsb' 3 7 = 0#7 ∧ (w.extractLsb' 10 4).toNat ≤ 11 then .xfncOe (w.extractLsb' 10 4) (w.extractLsb' 0 3) else badField
  | 1#1 => if w.extractLsb' 16 10 = 0#10 ∧ w.extractLsb' 14 1 = 0#1 ∧ w.extractLsb' 3 7 = 0#7 ∧ (w.extractLsb' 10 4).toNat ≤ 11 then .xfncEo (w.extractLsb' 10 4) (w.extractLsb' 0 3) else badField

/-- Major 0x1C (R36): the sub-operation is bits [15:14]. -/
def decodeCache (w : Word32) : Instr :=
  match w.extractLsb' 14 2 with
  | 0#2 => if w.extractLsb' 13 1 = 0#1 then
      if w.extractLsb' 21 5 = 0#5 then .pref (w.extractLsb' 16 5) (w.extractLsb' 3 10) (w.extractLsb' 0 3) else badField
    else
      if w.extractLsb' 21 5 = 0#5 then .prefL2 (w.extractLsb' 16 5) (w.extractLsb' 3 10) (w.extractLsb' 0 3) else badField
  | 1#2 => if w.extractLsb' 21 5 = 0#5 ∧ w.extractLsb' 13 1 = 0#1 then .cfl (w.extractLsb' 16 5) (w.extractLsb' 3 10) (w.extractLsb' 0 3) else badField
  | 2#2 => if w.extractLsb' 21 5 = 0#5 ∧ w.extractLsb' 13 1 = 0#1 then .cinv (w.extractLsb' 16 5) (w.extractLsb' 3 10) (w.extractLsb' 0 3) else badField
  | _ => badOp

/-- Major 0x1D (R36): the sub-operation is bits [15:15]. -/
def decodeQueue (w : Word32) : Instr :=
  match w.extractLsb' 15 1 with
  | 0#1 => if w.extractLsb' 14 1 = 0#1 then
      if w.extractLsb' 3 11 = 0#11 then .hqw (w.extractLsb' 21 5) (w.extractLsb' 16 5) (w.extractLsb' 0 3) else badField
    else
      if w.extractLsb' 3 8 = 0#8 then .hqwTry (w.extractLsb' 21 5) (w.extractLsb' 16 5) (w.extractLsb' 11 3) (w.extractLsb' 0 3) else badField
  | 1#1 => if w.extractLsb' 14 1 = 0#1 then
      if w.extractLsb' 3 11 = 0#11 then .hqr (w.extractLsb' 21 5) (w.extractLsb' 16 5) (w.extractLsb' 0 3) else badField
    else
      if w.extractLsb' 3 8 = 0#8 then .hqrTry (w.extractLsb' 21 5) (w.extractLsb' 16 5) (w.extractLsb' 11 3) (w.extractLsb' 0 3) else badField

/-- Major 0x23 (R36): the sub-operation is bits [15:14]. -/
def decodeCsr (w : Word32) : Instr :=
  match w.extractLsb' 14 2 with
  | 0#2 => if w.extractLsb' 16 5 = 0#5 ∧ csrAssigned (w.extractLsb' 3 11) then .csrR (w.extractLsb' 21 5) (w.extractLsb' 3 11) (w.extractLsb' 0 3) else badField
  | 1#2 => if csrAssigned (w.extractLsb' 3 11) then .csrW (w.extractLsb' 21 5) (w.extractLsb' 16 5) (w.extractLsb' 3 11) (w.extractLsb' 0 3) else badField
  | 2#2 => if csrAssigned (w.extractLsb' 3 11) then .csrS (w.extractLsb' 21 5) (w.extractLsb' 16 5) (w.extractLsb' 3 11) (w.extractLsb' 0 3) else badField
  | 3#2 => if csrAssigned (w.extractLsb' 3 11) then .csrC (w.extractLsb' 21 5) (w.extractLsb' 16 5) (w.extractLsb' 3 11) (w.extractLsb' 0 3) else badField

/-- Major 0x24 (R36): the sub-operation is bits [15:13]. -/
def decodeSys (w : Word32) : Instr :=
  match w.extractLsb' 13 3 with
  | 0#3 => if w.extractLsb' 21 5 = 0#5 then .trap (w.extractLsb' 16 5) (w.extractLsb' 3 10) (w.extractLsb' 0 3) else badField
  | 1#3 => if w.extractLsb' 3 10 = 0#10 then .wdg (w.extractLsb' 21 5) (w.extractLsb' 16 5) (w.extractLsb' 0 3) else badField
  | 2#3 => if w.extractLsb' 12 1 = 0#1 then
      if w.extractLsb' 3 9 = 0#9 then .kilJ (w.extractLsb' 21 5) (w.extractLsb' 16 5) (w.extractLsb' 0 3) else badField
    else
      if w.extractLsb' 3 9 = 0#9 then .kilC (w.extractLsb' 21 5) (w.extractLsb' 16 5) (w.extractLsb' 0 3) else badField
  | 3#3 => if w.extractLsb' 3 10 = 0#10 then .ctxs (w.extractLsb' 21 5) (w.extractLsb' 16 5) (w.extractLsb' 0 3) else badField
  | 4#3 => if w.extractLsb' 3 10 = 0#10 then .ctxr (w.extractLsb' 21 5) (w.extractLsb' 16 5) (w.extractLsb' 0 3) else badField
  | _ => badOp

/-- Major 0x27 (R36): the sub-operation is bits [15:14]. -/
def decodePhase (w : Word32) : Instr :=
  match w.extractLsb' 14 2 with
  | 0#2 => if w.extractLsb' 13 1 = 0#1 then
      if w.extractLsb' 16 5 = 0#5 ∧ w.extractLsb' 3 10 ≠ 0#10 then .phs (w.extractLsb' 21 5) (w.extractLsb' 3 10) (w.extractLsb' 0 3) else badField
    else
      if w.extractLsb' 3 10 = 0#10 then .phsTo (w.extractLsb' 21 5) (w.extractLsb' 16 5) (w.extractLsb' 0 3) else badField
  | 1#2 => if w.extractLsb' 16 10 = 0#10 ∧ w.extractLsb' 11 3 = 0#3 ∧ w.extractLsb' 3 8 ≠ 0#8 then .lead (w.extractLsb' 3 8) (w.extractLsb' 0 3) else badField
  | 2#2 => if w.extractLsb' 3 8 = 0#8 then .dep (w.extractLsb' 21 5) (w.extractLsb' 16 5) (w.extractLsb' 11 3) (w.extractLsb' 0 3) else badField
  | _ => badOp

/-- Major 0x29 (R36): the sub-operation is bits [15:15]. -/
def decodeTbnd (w : Word32) : Instr :=
  match w.extractLsb' 15 1 with
  | 0#1 => if w.extractLsb' 3 12 = 0#12 then .tbnd (w.extractLsb' 21 5) (w.extractLsb' 16 5) (w.extractLsb' 0 3) else badField
  | 1#1 => if w.extractLsb' 16 10 = 0#10 ∧ w.extractLsb' 3 8 = 0#8 then .tbndU (w.extractLsb' 11 4) (w.extractLsb' 0 3) else badField

/-- Major 0x2B (R36): the sub-operation is bits [10:3]. -/
def decodeDemand (w : Word32) : Instr :=
  match w.extractLsb' 3 8 with
  | 0#8 => if w.extractLsb' 11 5 = 0#5 then .drg (w.extractLsb' 21 5) (w.extractLsb' 16 5) (w.extractLsb' 0 3) else badField
  | 1#8 => if w.extractLsb' 11 5 = 0#5 then .drt (w.extractLsb' 21 5) (w.extractLsb' 16 5) (w.extractLsb' 0 3) else badField
  | 2#8 => if w.extractLsb' 11 5 = 0#5 then .dcut (w.extractLsb' 21 5) (w.extractLsb' 16 5) (w.extractLsb' 0 3) else badField
  | 3#8 => .dcad (w.extractLsb' 21 5) (w.extractLsb' 16 5) (w.extractLsb' 11 5) (w.extractLsb' 0 3)
  | 4#8 => .dcan (w.extractLsb' 21 5) (w.extractLsb' 16 5) (w.extractLsb' 11 5) (w.extractLsb' 0 3)
  | _ => badOp

/-- The instruction a 32-bit scalar word stands for (R36, R37, R66, R67): the major and the sub-operation are checked before
the fields. Major 0x3F is the command escape and is decoded by `decodeCommand`. -/
def decodeScalar (w : Word32) : Instr :=
  match w.extractLsb' 26 6 with
  | 1#6 => decodeIntR w
  | 2#6 => .addi (w.extractLsb' 21 5) (w.extractLsb' 16 5) (w.extractLsb' 3 13) (w.extractLsb' 0 3)
  | 3#6 => .andi (w.extractLsb' 21 5) (w.extractLsb' 16 5) (w.extractLsb' 3 13) (w.extractLsb' 0 3)
  | 4#6 => .ori (w.extractLsb' 21 5) (w.extractLsb' 16 5) (w.extractLsb' 3 13) (w.extractLsb' 0 3)
  | 5#6 => .xori (w.extractLsb' 21 5) (w.extractLsb' 16 5) (w.extractLsb' 3 13) (w.extractLsb' 0 3)
  | 6#6 => .slti (w.extractLsb' 21 5) (w.extractLsb' 16 5) (w.extractLsb' 3 13) (w.extractLsb' 0 3)
  | 7#6 => .sltni (w.extractLsb' 21 5) (w.extractLsb' 16 5) (w.extractLsb' 3 13) (w.extractLsb' 0 3)
  | 8#6 => decodeShift w
  | 9#6 => .lui (w.extractLsb' 21 5) (w.extractLsb' 0 21)
  | 10#6 => .pcai (w.extractLsb' 21 5) (w.extractLsb' 0 21)
  | 11#6 => decodeBfx w
  | 12#6 => if w.extractLsb' 3 1 = 0#1 ∧ (w.extractLsb' 10 6).toNat + (w.extractLsb' 4 6).toNat + 1 ≤ 64 then .bfi (w.extractLsb' 21 5) (w.extractLsb' 16 5) (w.extractLsb' 10 6) (w.extractLsb' 4 6) (w.extractLsb' 0 3) else badField
  | 13#6 => if w.extractLsb' 6 5 = 0#5 then .sel (w.extractLsb' 21 5) (w.extractLsb' 16 5) (w.extractLsb' 11 5) (w.extractLsb' 3 3) (w.extractLsb' 0 3) else badField
  | 14#6 => decodePcmp w
  | 15#6 => if w.extractLsb' 24 2 = 0#2 ∧ w.extractLsb' 19 2 = 0#2 ∧ w.extractLsb' 14 2 = 0#2 ∧ w.extractLsb' 7 4 = 0#4 then .plog (w.extractLsb' 21 3) (w.extractLsb' 16 3) (w.extractLsb' 11 3) (w.extractLsb' 3 4) (w.extractLsb' 0 3) else badField
  | 16#6 => decodeBranch w
  | 17#6 => decodeBp w
  | 18#6 => .jal (w.extractLsb' 21 5) (w.extractLsb' 0 21)
  | 19#6 => .jalr (w.extractLsb' 21 5) (w.extractLsb' 16 5) (w.extractLsb' 3 13) (w.extractLsb' 0 3)
  | 20#6 => decodeLoad w
  | 21#6 => decodeStore w
  | 22#6 => decodeLdv w
  | 23#6 => decodeStv w
  | 24#6 => decodeRclm w
  | 25#6 => decodeAmo w
  | 26#6 => decodeFnc w
  | 27#6 => decodeXfnc w
  | 28#6 => decodeCache w
  | 29#6 => decodeQueue w
  | 32#6 => if w.extractLsb' 4 22 = 0#22 ∧ w.extractLsb' 0 4 ≠ 0#4 then .cls (w.extractLsb' 0 4) else badField
  | 33#6 => if w.extractLsb' 0 26 = 0#26 then .tend else badField
  | 34#6 => if w.extractLsb' 0 26 = 0#26 then .nop else badField
  | 35#6 => decodeCsr w
  | 36#6 => decodeSys w
  | 37#6 => if w.extractLsb' 16 10 = 0#10 then .brk (w.extractLsb' 0 16) else badField
  | 38#6 => if w.extractLsb' 21 5 = 0#5 ∧ w.extractLsb' 3 7 = 0#7 then .bar (w.extractLsb' 16 5) (w.extractLsb' 12 4) (w.extractLsb' 10 2) (w.extractLsb' 0 3) else badField
  | 39#6 => decodePhase w
  | 40#6 => if w.extractLsb' 3 13 = 0#13 then .jsub (w.extractLsb' 21 5) (w.extractLsb' 16 5) (w.extractLsb' 0 3) else badField
  | 41#6 => decodeTbnd w
  | 42#6 => if w.extractLsb' 8 3 = 0#3 then .dmd (w.extractLsb' 21 5) (w.extractLsb' 16 5) (w.extractLsb' 11 5) (w.extractLsb' 7 1) (w.extractLsb' 3 4) (w.extractLsb' 0 3) else badField
  | 43#6 => decodeDemand w
  | _ => badOp

/-! ## Commands -/

/-- The fields of a command below its class and opcode (R38). -/
def cmdFields (c : Cmd128) : Cmd where
  ga := c.extractLsb' 107 3
  gb := c.extractLsb' 104 3
  comb := c.extractLsb' 102 2
  hint := c.extractLsb' 98 4
  chain := c.extractLsb' 97 1
  yield := c.extractLsb' 96 1
  stall := c.extractLsb' 92 4
  tag := c.extractLsb' 87 5
  eh := c.extractLsb' 84 3
  ew := c.extractLsb' 81 3
  s1 := c.extractLsb' 65 16
  s2 := c.extractLsb' 49 16
  s3 := c.extractLsb' 33 16
  s4 := c.extractLsb' 17 16
  s5 := c.extractLsb' 1 16

/-- Class 0x0 (R49, R121). -/
def cmdClass0 (op : BitVec 8) (c : Cmd) : Option Instr :=
  match op with
  | 0#8 => some (.vadd c)
  | 1#8 => some (.vsub c)
  | 2#8 => some (.vmul c)
  | 3#8 => some (.vfma c)
  | 4#8 => some (.vfms c)
  | 5#8 => some (.vmin c)
  | 6#8 => some (.vmax c)
  | 7#8 => some (.vabs c)
  | 8#8 => some (.vneg c)
  | 9#8 => some (.vclamp c)
  | 10#8 => some (.vand c)
  | 11#8 => some (.vor c)
  | 12#8 => some (.vxor c)
  | 13#8 => some (.vnot c)
  | 14#8 => some (.vshl c)
  | 15#8 => some (.vshr c)
  | 16#8 => some (.vsra c)
  | 17#8 => some (.vcmp c)
  | 18#8 => some (.vsel c)
  | 19#8 => some (.vmov c)
  | 20#8 => some (.vbcast c)
  | 21#8 => some (.vperm c)
  | 22#8 => some (.vshf c)
  | _ => none

/-- Class 0x1 (R49, R121). -/
def cmdClass1 (op : BitVec 8) (c : Cmd) : Option Instr :=
  match op with
  | 0#8 => some (.vrcp c)
  | 1#8 => some (.vrsq c)
  | 2#8 => some (.vsqrt c)
  | 3#8 => some (.vexp2 c)
  | 4#8 => some (.vlog2 c)
  | 5#8 => some (.vtanh c)
  | 6#8 => some (.vsgm c)
  | 7#8 => some (.vsin c)
  | 16#8 => some (.vred c)
  | 17#8 => some (.vacc c)
  | 18#8 => some (.vdrn c)
  | 19#8 => some (.vscan c)
  | _ => none

/-- Class 0x2 (R49, R121). -/
def cmdClass2 (op : BitVec 8) (c : Cmd) : Option Instr :=
  match op with
  | 0#8 => some (.vstr c)
  | 1#8 => some (.vmrg c)
  | 2#8 => some (.vcar c)
  | 3#8 => some (.vjoin c)
  | 4#8 => some (.vcfg c)
  | 5#8 => some (.vrun c)
  | _ => none

/-- Class 0x3 (R49, R105). -/
def cmdClass3 (op : BitVec 8) (c : Cmd) : Option Instr :=
  match op with
  | 0#8 => some (.cvt c)
  | 1#8 => some (.cvtSat c)
  | 2#8 => some (.qblk c)
  | 3#8 => some (.dqblk c)
  | 4#8 => some (.pack6 c)
  | 5#8 => some (.unpk6 c)
  | 6#8 => some (.falFill c)
  | 7#8 => some (.falTest c)
  | 8#8 => some (.tagSet c)
  | _ => none

/-- Class 0x4 (R49, R151). -/
def cmdClass4 (op : BitVec 8) (c : Cmd) : Option Instr :=
  match op with
  | 0#8 => some (.mls c)
  | 1#8 => some (.mswp c)
  | 2#8 => some (.mst c)
  | 3#8 => some (.msc c)
  | 4#8 => some (.mnm c)
  | 5#8 => some (.mintDot c)
  | 6#8 => some (.mdr c)
  | 7#8 => some (.mclr c)
  | 8#8 => some (.mintCnt c)
  | 9#8 => some (.mintScan c)
  | _ => none

/-- Class 0x5 (R49, R192). -/
def cmdClass5 (op : BitVec 8) (c : Cmd) : Option Instr :=
  match op with
  | 0#8 => some (.vld c)
  | 1#8 => some (.vst c)
  | 2#8 => some (.tld c)
  | 3#8 => some (.tst c)
  | 4#8 => some (.sbld c)
  | 5#8 => some (.sbst c)
  | 6#8 => some (.sbclr c)
  | _ => none

/-- Class 0x6 (R49, R221). -/
def cmdClass6 (op : BitVec 8) (c : Cmd) : Option Instr :=
  match op with
  | 0#8 => some (.vamo c)
  | _ => none

/-- Class 0x7 (R49, R229). -/
def cmdClass7 (op : BitVec 8) (c : Cmd) (follow : Cmd128) : Option Instr :=
  match op with
  | 0#8 => some (.cpy c)
  | 1#8 => some (.cpym c follow)
  | 2#8 => some (.mcst c)
  | 3#8 => some (.gath c)
  | 4#8 => some (.scat c)
  | 5#8 => some (.agc c)
  | 6#8 => some (.seg c)
  | _ => none

/-- Class 0x8 (R49, R250). -/
def cmdClass8 (op : BitVec 8) (c : Cmd) : Option Instr :=
  match op with
  | 0#8 => some (.walk c)
  | _ => none

/-- Class 0x9 (R49, R278). -/
def cmdClass9 (op : BitVec 8) (c : Cmd) : Option Instr :=
  match op with
  | 0#8 => some (.gld c)
  | 1#8 => some (.gsh c)
  | 2#8 => some (.grot c)
  | 3#8 => some (.gdep c)
  | 4#8 => some (.gstr c)
  | 5#8 => some (.gstp c)
  | 6#8 => some (.gsw c)
  | _ => none

/-- The command a class and opcode stand for (R49, R50). -/
def cmdOf (cls : BitVec 4) (op : BitVec 8) (c : Cmd) (follow : Cmd128) : Option Instr :=
  match cls with
  | 0#4 => cmdClass0 op c
  | 1#4 => cmdClass1 op c
  | 2#4 => cmdClass2 op c
  | 3#4 => cmdClass3 op c
  | 4#4 => cmdClass4 op c
  | 5#4 => cmdClass5 op c
  | 6#4 => cmdClass6 op c
  | 7#4 => cmdClass7 op c follow
  | 8#4 => cmdClass8 op c
  | 9#4 => cmdClass9 op c
  | _ => none

/-- The instruction a command stands for (R66, R67): class and opcode are checked before the fields. `follow` is the 16-byte unit
after it, which a `cpym` carries (R233). -/
def decodeCommand (c follow : Cmd128) : Instr :=
  match cmdOf (c.extractLsb' 118 4) (c.extractLsb' 110 8) (cmdFields c) follow with
  | none => badOp
  | some i => if c.extractLsb' 0 1 = 0#1 ∧ cmdOk i = true then i else badField

/-- Four words in ascending address order, the first at bits [127:96] (R31). -/
def joinWords (w0 w1 w2 w3 : Word32) : Cmd128 := w0 ++ w1 ++ w2 ++ w3

/-- Word k of the little-endian bytes of the instruction store (R2, R30); a byte that is not there reads 0. -/
def wordAt (bytes : List Byte) (k : Nat) : Word32 :=
  bytes.getD (4 * k + 3) 0 ++ bytes.getD (4 * k + 2) 0 ++ bytes.getD (4 * k + 1) 0 ++ bytes.getD (4 * k) 0

/-- The 16-byte unit that starts at word k. -/
def unitAt (bytes : List Byte) (k : Nat) : Cmd128 :=
  joinWords (wordAt bytes k) (wordAt bytes (k + 1)) (wordAt bytes (k + 2)) (wordAt bytes (k + 3))

/-- Whether a word is a command's escape word (R31). -/
def isEscape (w : Word32) : Bool := w.extractLsb' 26 6 == 0x3F#6
/-- Whether a unit is a `cpym`, whose follow-on is the next unit (R233). -/
def isCpym (c : Cmd128) : Bool := c.extractLsb' 118 4 == 7#4 && c.extractLsb' 110 8 == 1#8

/-- The instruction at `pc`, from the bytes that start there (R31, R67): an escape word off a 16-byte boundary is misaligned. -/
def decode (pc : BitVec 16) (bytes : List Byte) : Instr :=
  if isEscape (wordAt bytes 0) then
    if pc.extractLsb' 0 4 = 0#4 then decodeCommand (unitAt bytes 0) (unitAt bytes 4) else .illegalEncoding .misaligned
  else decodeScalar (wordAt bytes 0)

/-- Bytes the instruction at `pc` occupies (R30): 4 for a scalar word, 16 for a command, 32 for a `cpym` with its follow-on. An
escape word off its boundary stands alone (assumption 6, DEDUCED). -/
def fetchLength (pc : BitVec 16) (bytes : List Byte) : Nat :=
  if isEscape (wordAt bytes 0) && pc.extractLsb' 0 4 == 0#4 then (if isCpym (unitAt bytes 0) then 32 else 16) else 4

/-- The instruction a walk rule word stands for (R253): a rule with a non-zero res0 bit is `badField`, and an operation 0x0F to
0x1F is `wkUnassignedRule`. -/
def decodeRule (w : Word32) : Instr :=
  match w.extractLsb' 27 5 with
  | 0#5 => if w.extractLsb' 2 22 = 0#22 then .wkLdk (w.extractLsb' 24 3) (w.extractLsb' 0 2) else badField
  | 1#5 => if w.extractLsb' 18 3 = 0#3 then .wkLdw (w.extractLsb' 24 3) (w.extractLsb' 21 3) (w.extractLsb' 0 18) else badField
  | 2#5 => if w.extractLsb' 6 15 = 0#15 then .wkHash (w.extractLsb' 24 3) (w.extractLsb' 21 3) (w.extractLsb' 0 6) else badField
  | 3#5 => if w.extractLsb' 6 12 = 0#12 then .wkIdx (w.extractLsb' 24 3) (w.extractLsb' 21 3) (w.extractLsb' 18 3) (w.extractLsb' 0 6) else badField
  | 4#5 => if w.extractLsb' 24 3 = 0#3 ∧ w.extractLsb' 0 18 = 0#18 then .wkCmp (w.extractLsb' 21 3) (w.extractLsb' 18 3) else badField
  | 5#5 => if w.extractLsb' 24 3 = 0#3 ∧ w.extractLsb' 8 10 = 0#10 ∧ w.extractLsb' 0 8 ≠ 0#8 then .wkEq (w.extractLsb' 21 3) (w.extractLsb' 18 3) (w.extractLsb' 0 8) else badField
  | 6#5 => if w.extractLsb' 18 3 = 0#3 then .wkLr (w.extractLsb' 24 3) (w.extractLsb' 21 3) (w.extractLsb' 9 9) (w.extractLsb' 0 9) else badField
  | 7#5 => if w.extractLsb' 18 3 = 0#3 then .wkNxt (w.extractLsb' 24 3) (w.extractLsb' 21 3) (w.extractLsb' 0 18) else badField
  | 8#5 => if w.extractLsb' 17 1 = 0#1 then
      if w.extractLsb' 18 3 = 0#3 then .wkAddImm (w.extractLsb' 24 3) (w.extractLsb' 21 3) (w.extractLsb' 0 17) else badField
    else
      if w.extractLsb' 0 17 = 0#17 then .wkAddReg (w.extractLsb' 24 3) (w.extractLsb' 21 3) (w.extractLsb' 18 3) else badField
  | 9#5 => if w.extractLsb' 17 1 = 0#1 then
      if w.extractLsb' 18 3 = 0#3 then .wkAndImm (w.extractLsb' 24 3) (w.extractLsb' 21 3) (w.extractLsb' 0 17) else badField
    else
      if w.extractLsb' 0 17 = 0#17 then .wkAndReg (w.extractLsb' 24 3) (w.extractLsb' 21 3) (w.extractLsb' 18 3) else badField
  | 10#5 => if w.extractLsb' 24 3 = 0#3 ∧ w.extractLsb' 0 18 = 0#18 then .wkChk (w.extractLsb' 21 3) (w.extractLsb' 18 3) else badField
  | 11#5 => if w.extractLsb' 9 18 = 0#18 ∧ w.extractLsb' 0 4 ≠ 0#4 then .wkJmp (w.extractLsb' 4 5) (w.extractLsb' 0 4) else badField
  | 12#5 => if w.extractLsb' 4 23 = 0#23 ∧ w.extractLsb' 0 4 ≠ 0#4 then .wkSkip (w.extractLsb' 0 4) else badField
  | 13#5 => if w.extractLsb' 24 3 = 0#3 ∧ w.extractLsb' 18 3 = 0#3 then .wkEmit (w.extractLsb' 21 3) (w.extractLsb' 15 3) (w.extractLsb' 0 15) else badField
  | 14#5 => if w.extractLsb' 0 27 = 0#27 then .wkMiss else badField
  | _ => .wkUnassignedRule w
/-! ## The encoder -/

/-- The word of a scalar instruction (R33, R36). -/
def encodeWord : Instr → Option Word32
  | .add d a b g => some (0x1#6 ++ d ++ a ++ b ++ 0x0#8 ++ g)
  | .sub d a b g => some (0x1#6 ++ d ++ a ++ b ++ 0x1#8 ++ g)
  | .and d a b g => some (0x1#6 ++ d ++ a ++ b ++ 0x2#8 ++ g)
  | .or d a b g => some (0x1#6 ++ d ++ a ++ b ++ 0x3#8 ++ g)
  | .xor d a b g => some (0x1#6 ++ d ++ a ++ b ++ 0x4#8 ++ g)
  | .andn d a b g => some (0x1#6 ++ d ++ a ++ b ++ 0x5#8 ++ g)
  | .sll d a b g => some (0x1#6 ++ d ++ a ++ b ++ 0x6#8 ++ g)
  | .srl d a b g => some (0x1#6 ++ d ++ a ++ b ++ 0x7#8 ++ g)
  | .sra d a b g => some (0x1#6 ++ d ++ a ++ b ++ 0x8#8 ++ g)
  | .rol d a b g => some (0x1#6 ++ d ++ a ++ b ++ 0x9#8 ++ g)
  | .mul d a b g => some (0x1#6 ++ d ++ a ++ b ++ 0xA#8 ++ g)
  | .mulh d a b g => some (0x1#6 ++ d ++ a ++ b ++ 0xB#8 ++ g)
  | .mulhn d a b g => some (0x1#6 ++ d ++ a ++ b ++ 0xC#8 ++ g)
  | .div d a b g => some (0x1#6 ++ d ++ a ++ b ++ 0xD#8 ++ g)
  | .divn d a b g => some (0x1#6 ++ d ++ a ++ b ++ 0xE#8 ++ g)
  | .rem d a b g => some (0x1#6 ++ d ++ a ++ b ++ 0xF#8 ++ g)
  | .remn d a b g => some (0x1#6 ++ d ++ a ++ b ++ 0x10#8 ++ g)
  | .min d a b g => some (0x1#6 ++ d ++ a ++ b ++ 0x11#8 ++ g)
  | .minn d a b g => some (0x1#6 ++ d ++ a ++ b ++ 0x12#8 ++ g)
  | .max d a b g => some (0x1#6 ++ d ++ a ++ b ++ 0x13#8 ++ g)
  | .maxn d a b g => some (0x1#6 ++ d ++ a ++ b ++ 0x14#8 ++ g)
  | .slt d a b g => some (0x1#6 ++ d ++ a ++ b ++ 0x15#8 ++ g)
  | .sltn d a b g => some (0x1#6 ++ d ++ a ++ b ++ 0x16#8 ++ g)
  | .clz d a g => some (0x1#6 ++ d ++ a ++ 0x17#13 ++ g)
  | .ctz d a g => some (0x1#6 ++ d ++ a ++ 0x18#13 ++ g)
  | .popc d a g => some (0x1#6 ++ d ++ a ++ 0x19#13 ++ g)
  | .addi d a i g => some (0x2#6 ++ d ++ a ++ i ++ g)
  | .andi d a i g => some (0x3#6 ++ d ++ a ++ i ++ g)
  | .ori d a i g => some (0x4#6 ++ d ++ a ++ i ++ g)
  | .xori d a i g => some (0x5#6 ++ d ++ a ++ i ++ g)
  | .slti d a i g => some (0x6#6 ++ d ++ a ++ i ++ g)
  | .sltni d a i g => some (0x7#6 ++ d ++ a ++ i ++ g)
  | .slli d a s g => some (0x8#6 ++ d ++ a ++ 0x0#7 ++ s ++ g)
  | .srli d a s g => some (0x8#6 ++ d ++ a ++ 0x10#7 ++ s ++ g)
  | .srai d a s g => some (0x8#6 ++ d ++ a ++ 0x20#7 ++ s ++ g)
  | .roli d a s g => some (0x8#6 ++ d ++ a ++ 0x30#7 ++ s ++ g)
  | .lui d i => some (0x9#6 ++ d ++ i)
  | .pcai d i => some (0xA#6 ++ d ++ i)
  | .bfx d a l w g => some (0xB#6 ++ d ++ a ++ l ++ w ++ 0x0#1 ++ g)
  | .bfxS d a l w g => some (0xB#6 ++ d ++ a ++ l ++ w ++ 0x1#1 ++ g)
  | .bfi d a l w g => some (0xC#6 ++ d ++ a ++ l ++ w ++ 0x0#1 ++ g)
  | .sel d a b p g => some (0xD#6 ++ d ++ a ++ b ++ 0x0#5 ++ p ++ g)
  | .pcmpEq d a b g => some (0x38#8 ++ d ++ a ++ b ++ 0x0#8 ++ g)
  | .pcmpNe d a b g => some (0x38#8 ++ d ++ a ++ b ++ 0x1#8 ++ g)
  | .pcmpLt d a b g => some (0x38#8 ++ d ++ a ++ b ++ 0x2#8 ++ g)
  | .pcmpGe d a b g => some (0x38#8 ++ d ++ a ++ b ++ 0x3#8 ++ g)
  | .pcmpLtn d a b g => some (0x38#8 ++ d ++ a ++ b ++ 0x4#8 ++ g)
  | .pcmpGen d a b g => some (0x38#8 ++ d ++ a ++ b ++ 0x5#8 ++ g)
  | .plog d a b t g => some (0x3C#8 ++ d ++ 0x0#2 ++ a ++ 0x0#2 ++ b ++ 0x0#4 ++ t ++ g)
  | .bEq a b o => some (0x10#6 ++ a ++ b ++ 0x0#3 ++ o)
  | .bNe a b o => some (0x10#6 ++ a ++ b ++ 0x1#3 ++ o)
  | .bLt a b o => some (0x10#6 ++ a ++ b ++ 0x2#3 ++ o)
  | .bGe a b o => some (0x10#6 ++ a ++ b ++ 0x3#3 ++ o)
  | .bLtn a b o => some (0x10#6 ++ a ++ b ++ 0x4#3 ++ o)
  | .bGen a b o => some (0x10#6 ++ a ++ b ++ 0x5#3 ++ o)
  | .bpT p o => some (0x44#8 ++ p ++ 0x0#8 ++ o)
  | .bpF p o => some (0x44#8 ++ p ++ 0x1#8 ++ o)
  | .jal d o => some (0x12#6 ++ d ++ o)
  | .jalr d a i g => some (0x13#6 ++ d ++ a ++ i ++ g)
  | .ldb d a o g => some (0x14#6 ++ d ++ a ++ 0x0#3 ++ o ++ g)
  | .ldbs d a o g => some (0x14#6 ++ d ++ a ++ 0x1#3 ++ o ++ g)
  | .ldh d a o g => some (0x14#6 ++ d ++ a ++ 0x2#3 ++ o ++ g)
  | .ldhs d a o g => some (0x14#6 ++ d ++ a ++ 0x3#3 ++ o ++ g)
  | .ldw d a o g => some (0x14#6 ++ d ++ a ++ 0x4#3 ++ o ++ g)
  | .ldws d a o g => some (0x14#6 ++ d ++ a ++ 0x5#3 ++ o ++ g)
  | .ldd d a o g => some (0x14#6 ++ d ++ a ++ 0x6#3 ++ o ++ g)
  | .stb d a o g => some (0x15#6 ++ d ++ a ++ 0x0#3 ++ o ++ g)
  | .sth d a o g => some (0x15#6 ++ d ++ a ++ 0x1#3 ++ o ++ g)
  | .stw d a o g => some (0x15#6 ++ d ++ a ++ 0x2#3 ++ o ++ g)
  | .std d a o g => some (0x15#6 ++ d ++ a ++ 0x3#3 ++ o ++ g)
  | .ldvEq d a b g => some (0x16#6 ++ d ++ a ++ b ++ 0x0#8 ++ g)
  | .ldvGe d a b g => some (0x16#6 ++ d ++ a ++ b ++ 0x1#8 ++ g)
  | .stv d a b g => some (0x17#6 ++ d ++ a ++ b ++ 0x0#8 ++ g)
  | .stvRsv a b g => some (0x2E0#11 ++ a ++ b ++ 0x1#8 ++ g)
  | .rclm d a b g => some (0x18#6 ++ d ++ a ++ b ++ 0x0#8 ++ g)
  | .amoAdd d a b s o g => some (0x19#6 ++ d ++ a ++ b ++ 0x0#4 ++ s ++ o ++ g)
  | .amoAnd d a b s o g => some (0x19#6 ++ d ++ a ++ b ++ 0x1#4 ++ s ++ o ++ g)
  | .amoOr d a b s o g => some (0x19#6 ++ d ++ a ++ b ++ 0x2#4 ++ s ++ o ++ g)
  | .amoXor d a b s o g => some (0x19#6 ++ d ++ a ++ b ++ 0x3#4 ++ s ++ o ++ g)
  | .amoMin d a b s o g => some (0x19#6 ++ d ++ a ++ b ++ 0x4#4 ++ s ++ o ++ g)
  | .amoMax d a b s o g => some (0x19#6 ++ d ++ a ++ b ++ 0x5#4 ++ s ++ o ++ g)
  | .amoMinn d a b s o g => some (0x19#6 ++ d ++ a ++ b ++ 0x6#4 ++ s ++ o ++ g)
  | .amoMaxn d a b s o g => some (0x19#6 ++ d ++ a ++ b ++ 0x7#4 ++ s ++ o ++ g)
  | .amoSwap d a b s o g => some (0x19#6 ++ d ++ a ++ b ++ 0x8#4 ++ s ++ o ++ g)
  | .amoCas d a b s o g => some (0x19#6 ++ d ++ a ++ b ++ 0x9#4 ++ s ++ o ++ g)
  | .amoTas d a b s o g => some (0x19#6 ++ d ++ a ++ b ++ 0xA#4 ++ s ++ o ++ g)
  | .amoFadd d a b s o g => some (0x19#6 ++ d ++ a ++ b ++ 0xB#4 ++ s ++ o ++ g)
  | .fncAcq s g => some (0x1A000#18 ++ s ++ 0x0#7 ++ g)
  | .fncRel s g => some (0x1A001#18 ++ s ++ 0x0#7 ++ g)
  | .fncAr s g => some (0x1A002#18 ++ s ++ 0x0#7 ++ g)
  | .fncSc s g => some (0x1A003#18 ++ s ++ 0x0#7 ++ g)
  | .xfncOe s g => some (0x1B000#18 ++ s ++ 0x0#7 ++ g)
  | .xfncEo s g => some (0x1B002#18 ++ s ++ 0x0#7 ++ g)
  | .pref a o g => some (0x380#11 ++ a ++ 0x0#3 ++ o ++ g)
  | .prefL2 a o g => some (0x380#11 ++ a ++ 0x1#3 ++ o ++ g)
  | .cfl a o g => some (0x380#11 ++ a ++ 0x2#3 ++ o ++ g)
  | .cinv a o g => some (0x380#11 ++ a ++ 0x4#3 ++ o ++ g)
  | .hqw d a g => some (0x1D#6 ++ d ++ a ++ 0x0#13 ++ g)
  | .hqwTry d a p g => some (0x1D#6 ++ d ++ a ++ 0x1#2 ++ p ++ 0x0#8 ++ g)
  | .hqr d a g => some (0x1D#6 ++ d ++ a ++ 0x1000#13 ++ g)
  | .hqrTry d a p g => some (0x1D#6 ++ d ++ a ++ 0x3#2 ++ p ++ 0x0#8 ++ g)
  | .cls n => some (0x8000000#28 ++ n)
  | .tend => some (0x84000000#32)
  | .nop => some (0x88000000#32)
  | .csrR d n g => some (0x23#6 ++ d ++ 0x0#7 ++ n ++ g)
  | .csrW d a n g => some (0x23#6 ++ d ++ a ++ 0x1#2 ++ n ++ g)
  | .csrS d a n g => some (0x23#6 ++ d ++ a ++ 0x2#2 ++ n ++ g)
  | .csrC d a n g => some (0x23#6 ++ d ++ a ++ 0x3#2 ++ n ++ g)
  | .trap a c g => some (0x480#11 ++ a ++ 0x0#3 ++ c ++ g)
  | .wdg d a g => some (0x24#6 ++ d ++ a ++ 0x400#13 ++ g)
  | .kilJ d a g => some (0x24#6 ++ d ++ a ++ 0x800#13 ++ g)
  | .kilC d a g => some (0x24#6 ++ d ++ a ++ 0xA00#13 ++ g)
  | .ctxs d a g => some (0x24#6 ++ d ++ a ++ 0xC00#13 ++ g)
  | .ctxr d a g => some (0x24#6 ++ d ++ a ++ 0x1000#13 ++ g)
  | .brk c => some (0x9400#16 ++ c)
  | .bar b v i g => some (0x4C0#11 ++ b ++ v ++ i ++ 0x0#7 ++ g)
  | .phs d n g => some (0x27#6 ++ d ++ 0x0#8 ++ n ++ g)
  | .phsTo d a g => some (0x27#6 ++ d ++ a ++ 0x400#13 ++ g)
  | .lead n g => some (0x138008#21 ++ n ++ g)
  | .dep d a p g => some (0x27#6 ++ d ++ a ++ 0x2#2 ++ p ++ 0x0#8 ++ g)
  | .jsub d a g => some (0x28#6 ++ d ++ a ++ 0x0#13 ++ g)
  | .tbnd d a g => some (0x29#6 ++ d ++ a ++ 0x0#13 ++ g)
  | .tbndU n g => some (0x14801#17 ++ n ++ 0x0#8 ++ g)
  | .dmd p a b e v g => some (0x2A#6 ++ p ++ a ++ b ++ 0x0#3 ++ e ++ v ++ g)
  | .drg p a g => some (0x2B#6 ++ p ++ a ++ 0x0#13 ++ g)
  | .drt p a g => some (0x2B#6 ++ p ++ a ++ 0x1#13 ++ g)
  | .dcut p a g => some (0x2B#6 ++ p ++ a ++ 0x2#13 ++ g)
  | .dcad p a b g => some (0x2B#6 ++ p ++ a ++ b ++ 0x3#8 ++ g)
  | .dcan p a b g => some (0x2B#6 ++ p ++ a ++ b ++ 0x4#8 ++ g)
  | _ => none

/-- The word of a walk rule (R253). -/
def encodeRule : Instr → Option Word32
  | .wkLdk d i => some (0x0#5 ++ d ++ 0x0#22 ++ i)
  | .wkLdw d a o => some (0x1#5 ++ d ++ a ++ 0x0#3 ++ o)
  | .wkHash d a b => some (0x2#5 ++ d ++ a ++ 0x0#15 ++ b)
  | .wkIdx d a b s => some (0x3#5 ++ d ++ a ++ b ++ 0x0#12 ++ s)
  | .wkCmp a b => some (0x20#8 ++ a ++ b ++ 0x0#18)
  | .wkEq a b m => some (0x28#8 ++ a ++ b ++ 0x0#10 ++ m)
  | .wkLr d a l r => some (0x6#5 ++ d ++ a ++ 0x0#3 ++ l ++ r)
  | .wkNxt d a o => some (0x7#5 ++ d ++ a ++ 0x0#3 ++ o)
  | .wkAddImm d a i => some (0x8#5 ++ d ++ a ++ 0x0#4 ++ i)
  | .wkAddReg d a b => some (0x8#5 ++ d ++ a ++ b ++ 0x20000#18)
  | .wkAndImm d a i => some (0x9#5 ++ d ++ a ++ 0x0#4 ++ i)
  | .wkAndReg d a b => some (0x9#5 ++ d ++ a ++ b ++ 0x20000#18)
  | .wkChk a b => some (0x50#8 ++ a ++ b ++ 0x0#18)
  | .wkJmp t m => some (0x2C0000#23 ++ t ++ m)
  | .wkSkip m => some (0x6000000#28 ++ m)
  | .wkEmit a n o => some (0x68#8 ++ a ++ 0x0#3 ++ n ++ o)
  | .wkMiss => some (0x70000000#32)
  | .wkUnassignedRule w => some w
  | _ => none

/-- The class, opcode and fields of a command. -/
def cmdOpcode : Instr → Option (BitVec 4 × BitVec 8 × Cmd)
  | .vadd c => some (0#4, 0#8, c)
  | .vsub c => some (0#4, 1#8, c)
  | .vmul c => some (0#4, 2#8, c)
  | .vfma c => some (0#4, 3#8, c)
  | .vfms c => some (0#4, 4#8, c)
  | .vmin c => some (0#4, 5#8, c)
  | .vmax c => some (0#4, 6#8, c)
  | .vabs c => some (0#4, 7#8, c)
  | .vneg c => some (0#4, 8#8, c)
  | .vclamp c => some (0#4, 9#8, c)
  | .vand c => some (0#4, 10#8, c)
  | .vor c => some (0#4, 11#8, c)
  | .vxor c => some (0#4, 12#8, c)
  | .vnot c => some (0#4, 13#8, c)
  | .vshl c => some (0#4, 14#8, c)
  | .vshr c => some (0#4, 15#8, c)
  | .vsra c => some (0#4, 16#8, c)
  | .vcmp c => some (0#4, 17#8, c)
  | .vsel c => some (0#4, 18#8, c)
  | .vmov c => some (0#4, 19#8, c)
  | .vbcast c => some (0#4, 20#8, c)
  | .vperm c => some (0#4, 21#8, c)
  | .vshf c => some (0#4, 22#8, c)
  | .vrcp c => some (1#4, 0#8, c)
  | .vrsq c => some (1#4, 1#8, c)
  | .vsqrt c => some (1#4, 2#8, c)
  | .vexp2 c => some (1#4, 3#8, c)
  | .vlog2 c => some (1#4, 4#8, c)
  | .vtanh c => some (1#4, 5#8, c)
  | .vsgm c => some (1#4, 6#8, c)
  | .vsin c => some (1#4, 7#8, c)
  | .vred c => some (1#4, 16#8, c)
  | .vacc c => some (1#4, 17#8, c)
  | .vdrn c => some (1#4, 18#8, c)
  | .vscan c => some (1#4, 19#8, c)
  | .vstr c => some (2#4, 0#8, c)
  | .vmrg c => some (2#4, 1#8, c)
  | .vcar c => some (2#4, 2#8, c)
  | .vjoin c => some (2#4, 3#8, c)
  | .vcfg c => some (2#4, 4#8, c)
  | .vrun c => some (2#4, 5#8, c)
  | .cvt c => some (3#4, 0#8, c)
  | .cvtSat c => some (3#4, 1#8, c)
  | .qblk c => some (3#4, 2#8, c)
  | .dqblk c => some (3#4, 3#8, c)
  | .pack6 c => some (3#4, 4#8, c)
  | .unpk6 c => some (3#4, 5#8, c)
  | .falFill c => some (3#4, 6#8, c)
  | .falTest c => some (3#4, 7#8, c)
  | .tagSet c => some (3#4, 8#8, c)
  | .mls c => some (4#4, 0#8, c)
  | .mswp c => some (4#4, 1#8, c)
  | .mst c => some (4#4, 2#8, c)
  | .msc c => some (4#4, 3#8, c)
  | .mnm c => some (4#4, 4#8, c)
  | .mintDot c => some (4#4, 5#8, c)
  | .mdr c => some (4#4, 6#8, c)
  | .mclr c => some (4#4, 7#8, c)
  | .mintCnt c => some (4#4, 8#8, c)
  | .mintScan c => some (4#4, 9#8, c)
  | .vld c => some (5#4, 0#8, c)
  | .vst c => some (5#4, 1#8, c)
  | .tld c => some (5#4, 2#8, c)
  | .tst c => some (5#4, 3#8, c)
  | .sbld c => some (5#4, 4#8, c)
  | .sbst c => some (5#4, 5#8, c)
  | .sbclr c => some (5#4, 6#8, c)
  | .vamo c => some (6#4, 0#8, c)
  | .cpy c => some (7#4, 0#8, c)
  | .cpym c _ => some (7#4, 1#8, c)
  | .mcst c => some (7#4, 2#8, c)
  | .gath c => some (7#4, 3#8, c)
  | .scat c => some (7#4, 4#8, c)
  | .agc c => some (7#4, 5#8, c)
  | .seg c => some (7#4, 6#8, c)
  | .walk c => some (8#4, 0#8, c)
  | .gld c => some (9#4, 0#8, c)
  | .gsh c => some (9#4, 1#8, c)
  | .grot c => some (9#4, 2#8, c)
  | .gdep c => some (9#4, 3#8, c)
  | .gstr c => some (9#4, 4#8, c)
  | .gstp c => some (9#4, 5#8, c)
  | .gsw c => some (9#4, 6#8, c)
  | _ => none

/-- The 128 bits of a command with class, opcode and fields (R38). -/
def packCmd (cls : BitVec 4) (op : BitVec 8) (c : Cmd) : Cmd128 :=
  0x3F#6 ++ cls ++ op ++ c.ga ++ c.gb ++ c.comb ++ c.hint ++ c.chain ++ c.yield ++ c.stall ++ c.tag ++ c.eh ++ c.ew ++
    c.s1 ++ c.s2 ++ c.s3 ++ c.s4 ++ c.s5 ++ 0#1

/-- The command an instruction encodes to. -/
def encodeCmd (i : Instr) : Option Cmd128 := (cmdOpcode i).map fun (cls, op, c) => packCmd cls op c

/-- The four words of a command, in ascending address order (R31). -/
def splitCmd (c : Cmd128) : List Word32 := [c.extractLsb' 96 32, c.extractLsb' 64 32, c.extractLsb' 32 32, c.extractLsb' 0 32]

/-- The words of an instruction the sequencer can fetch, in ascending address order; none for a rule, a happening or a bad encoding. -/
def encode (i : Instr) : List Word32 :=
  match encodeWord i with
  | some w => [w]
  | none =>
    match encodeCmd i, i with
    | some c, .cpym _ f => splitCmd c ++ splitCmd f
    | some c, _ => splitCmd c
    | none, _ => []

/-- The four little-endian bytes of a word (R2). -/
def wordBytes (w : Word32) : List Byte := [w.extractLsb' 0 8, w.extractLsb' 8 8, w.extractLsb' 16 8, w.extractLsb' 24 8]
/-- The bytes of an instruction as the instruction store holds them. -/
def encodeBytes (i : Instr) : List Byte := (encode i).flatMap wordBytes

/-- The bytes of an instruction whose bits are `w`, numbered as the opcode table numbers them: each 32-bit word little-endian, the
first at the lowest address; up to the longest instruction, 32 bytes. -/
def tableBytes (nbits w : Nat) : List Byte :=
  (List.range 32).map fun k => BitVec.ofNat 8 ((w % 2 ^ nbits) >>> (8 * k))

/-- The instruction the decoder reads from the table word `w`, at a 16-byte boundary; none where it refuses the word.
Assumption 11 (DESIGN CHOICE). -/
def decodeTableWord (nbits w : Nat) : Option Instr :=
  match decode 0 (tableBytes nbits w) with
  | .illegalEncoding _ => none
  | i => some i

end Sys2Proof
end

