-- ==== Sys2Proof/Machine/State.lean ====
section
/-! DEFINITION. The state of the LZ8: everything the spec gives the package, as plain data. A tile holds its slots, registers,
arrays, nodes and memories; a context its tables, jobs, graph slots and records; a die its copy channels and tables; the package
its memories, walks, mailbox, life cycle and telemetry. `agenda` says which agent moves next; `pending` lists the happenings the
device itself still owes. -/
namespace Sys2Proof.Machine
open Sys2Proof

/-- Why a step stops the machine. -/
inductive Fault where
  /-- Raised by `step` alone when the module has removed power (R382) and no happening is on the agenda: nothing executes until
  the next power-up, which is a RESET on the agenda. Safe: the machine stops where the hardware has no state at all. -/
  | noPower
  deriving DecidableEq, Repr

/-- Why a step has no meaning. -/
inductive Refusal where
  /-- Raised by an arm of `exec` whose instruction has no meaning yet. Safe: the model stops. -/
  | notModelled (mnemonic : String)
  deriving DecidableEq, Repr

/-! ## Registers -/

/-- One accumulator lane or cell: an FP32 value and a 24-bit sown count (R51), and whether a contribution has already found that it would
carry the count past 0xFF_FFFF (R97: the first one is counted). -/
structure Cell where
  value : BitVec 32 := 0
  count : BitVec 24 := 0
  past : Bool := false
  deriving DecidableEq, Repr

/-- A v register: 512 data bits, a side word and a tag (R51). -/
structure VReg where
  data : Wave := 0
  side : BitVec 32 := 0
  tag : BitVec 5 := 0
  deriving DecidableEq, Repr

/-- An m register: 32 × 32 cells of 16 bits and a tag (R51, R153). -/
structure MReg where
  data : BitVec 16384 := 0
  tag : BitVec 5 := 0
  deriving DecidableEq, Repr

/-- A weight plane of the matrix array (R148). -/
structure Plane where
  data : BitVec 16384 := 0
  tag : BitVec 5 := 0
  loaded : Bool := false
  deriving DecidableEq, Repr

/-- The clause register `cls` (R58). -/
structure Clause where
  hdr : BitVec 16 := 0
  remaining : BitVec 4 := 0
  wave : BitVec 8 := 0
  isOpen : Bool := false
  deriving DecidableEq, Repr

/-- The state of a task slot (R68). -/
inductive SlotStatus where
  | free | idle | ready | running | blocked | faulted
  deriving DecidableEq, Repr

/-- What a BLOCKED slot waits for: the causes of R341, with what is needed to see that a cause has cleared. -/
inductive Wait where
  | none
  | pendingReg (xs ps : List Nat)
  /-- v and m registers an earlier command has still to write (R53, R150) -/
  | busyRegs (vs ms : List Nat)
  | fullPort
  | window
  | presence (words : List Nat)
  | version (va pa v : Nat) (ge : Bool) (rd : XReg)
  | coalescer (p : PortId)
  | phase (new : Nat)
  | barrier (bed : BitVec 16) (id gen : Nat)
  | hwQueue (va : Nat) (read : Bool)
  | drain (slot chan depth : Nat)
  | clause
  | scheduler
  | demandPort
  /-- a fence: kind 0 acq, 1 rel, 2 ar, 3 sc, 4 oe, 5 eo; whether its scope is wider than the tile; number of the next access -/
  | fence (kind : Nat) (wide : Bool) (upto : Nat)
  /-- the operand log holds no free entry (R181) -/
  | operandLog
  | graphCmd
  | tableFull
  | engineBusy
  /-- an address-generator node is busy (R238) -/
  | agNode (n : Fin 4)
  deriving DecidableEq, Repr

/-- Where a reply goes: a VC of the issuing tile, or a versioned word (R228). -/
inductive Reply where
  | none
  | vc (t : TileId) (vc : SlotId)
  | ver (va : Nat) (v : Nat)
  deriving DecidableEq, Repr

/-- The wave word of a class 0x5 access (R48), and the number of the run of its task that it belongs to (R200). -/
structure WaveInfo where
  own : Nat
  pred : Option Nat
  succ : Option Nat
  isBegin : Bool
  isEnd : Bool
  run : Nat := 0
  deriving DecidableEq, Repr

/-- One contiguous piece of an access: its address, its length and, for a store, its bytes. -/
structure Piece where
  va : Nat
  len : Nat
  bytes : List Byte := []
  deriving DecidableEq, Repr

/-- The last command a slot issued, as the chain bit needs it (R120): whether it is of class 0x0 or 0x1, the number it has on its tile,
its destination block and its extent. -/
structure LastCmd where
  isLane : Bool
  no : Nat
  dst : BitVec 16
  eh : BitVec 3
  ew : BitVec 3
  deriving DecidableEq, Repr

/-- Who issued a command or an access, with the x registers as its word read them (R72, R343). `epoch` tells one run of a slot from
the next; `wave` is the clause's wave number, 0xFF outside a clause; `follow` marks a `cpym` follow-on (R234); `no` numbers the commands
of the tile as they issue, and `prev` is the command its task issued before it (R120). -/
structure Issue where
  ctx : Nat
  tile : TileId
  slot : SlotId
  pc : BitVec 16
  job : Nat
  epoch : Nat
  x : Vector Word 32
  wave : BitVec 8 := 0xFF
  follow : Bool := false
  no : Nat := 0
  prev : Option LastCmd := none
  /-- work of a graph or a scheduler, behind which no task stands; and the engine that its records name (R341) -/
  auto : Bool := false
  engine : Nat := 0
  deriving DecidableEq, Repr

/-- Where an address leads: device memory (physical address, whether the page is versioned, its scope), host memory, a peer window,
a scratchpad, or the block-transfer aperture (R174). -/
inductive Loc where
  | dev (pa : Nat) (ver : Bool) (scope : Nat)
  | host (a : Nat)
  | peer (a : Nat)
  | sp (t : TileId) (off : Nat)
  | aper (off : Nat)
  deriving DecidableEq, Repr

/-- What an issued memory access does when it completes (R183 to R197, R217, R222). -/
inductive AccKind where
  | load (rd : XReg) (signed : Bool)
  | store
  | amo (op : BitVec 4) (size : Nat) (ord : BitVec 2) (rd : XReg) (b cmp : Word)
  | stv (v : Nat) (data : Word)
  | stvRsv (v : Nat)
  | rclm (f : Nat)
  | cacheOp (inval : Bool)
  /-- a prefetch into L2 only, or into L1 (R197) -/
  | pref (l2 : Bool)
  | vload (vds : List Nat) (tag : BitVec 5)
  | mload (md : Nat) (tag : BitVec 5)
  | vstore
  | sbStore
  | sbClear
  /-- a `vamo` element list: operation, format, remaining (k, address, value), elements performed, reply -/
  | vamo (op : BitVec 3) (fmt : BitVec 5) (elems : List (Nat × Nat × BitVec 32)) (done : Nat) (reply : Reply)
  /-- an aperture store that starts a templated copy (R231) -/
  | aperture (copy : Nat)
  deriving DecidableEq, Repr

/-- An issued access that has not completed: an entry of the operand log while `olog` names one (R181); `entry` is the one it took at issue,
which its fault names (R182). -/
structure Access where
  id : Nat
  iss : Issue
  olog : Option Nat
  entry : Option Nat := none
  kind : AccKind
  pieces : List Piece
  /-- where its bytes lie, in order, once it is translated -/
  locs : List (Loc × Nat) := []
  /-- the stores of its task with a smaller number perform at pkg before it does (R204) -/
  bar : Nat := 0
  /-- true while the access waits for its translation, and whether a page walk has to find it, which takes a place of the die's pool (R180) -/
  parked : Bool
  pooled : Bool := false
  /-- true once the access has performed at tile scope (R202) -/
  tileDone : Bool := false
  wave : Option WaveInfo := none
  /-- clk at which a waiting `stv` times out, once it waits for a version slot (R188) -/
  deadline : Option Nat := none
  deriving DecidableEq, Repr

/-- A late fault found for a task and not yet taken (R182, R343). -/
structure Late where
  code : FaultCode
  addr : Word
  pc : BitVec 16
  olog : Option Nat
  engine : Bool
  aux : Word
  access : Option Access
  /-- a memory command of a clause that faulted as it entered its queue, with its log entry: a retry has it enter again (R182) -/
  cmd : Option (Nat × Instr × Issue) := none
  deriving DecidableEq, Repr

/-- What a FAULTED slot's record says about resuming it (R342). -/
structure FaultInfo where
  code : FaultCode
  pc : BitVec 16
  rpc : BitVec 16
  late : Bool
  inClause : Bool
  len : Nat
  access : Option Access
  cmd : Option (Nat × Instr × Issue) := none
  /-- the fault came from the word's own fall-through address (R30): retry and skip raise it again -/
  fallThrough : Bool
  deriving DecidableEq, Repr

/-- One of a tile's sixteen task slots (R51, R68, R314, R325, R346). -/
structure Slot where
  status : SlotStatus := .free
  wait : Wait := .none
  vc : SlotId := 0
  entry : BitVec 16 := 0
  /-- window of the running task (`vwin`), and that of the card named at the binding -/
  win : BitVec 12 := 0
  bwin : BitVec 12 := 0
  card : Word := 0
  target : BitVec 16 := 0
  implicit : Bool := false
  unbind : Bool := false
  /-- number of the job that started the task (`jobn`), 0 for none -/
  job : Nat := 0
  /-- bed word of the target of the job that started the task (`mc`) -/
  bed : BitVec 16 := 0
  x : Vector Word 32 := Vector.replicate 32 0
  p : Vector Bool 8 := Vector.replicate 8 false
  pc : BitVec 16 := 0
  wavectr : BitVec 8 := 0
  cls : Clause := {}
  stat : Word := 0
  cnt : Vector (BitVec 32) 16 := Vector.replicate 16 0
  /-- x and p registers an issued word has still to write -/
  pendX : List Nat := []
  pendP : List Nat := []
  /-- words issued since the slot became RUNNING (R70) -/
  run : Nat := 0
  /-- clk at which the slot became BLOCKED, for the watchdog's record (R350) -/
  since : Nat := 0
  /-- number of the present run of the slot -/
  epoch : Nat := 0
  /-- a fence of the task was stopped by a late fault and has to complete with fault-ordered status (R206) -/
  fenced : Bool := false
  late : List Late := []
  fault : Option FaultInfo := none
  last : Option LastCmd := none
  /-- accesses of the task below this number perform at pkg before its later stores do (R204) -/
  storeBar : Nat := 0
  /-- waves (R200): the number of the run of waved commands that issued last and, while it lasts, its own number; whether its first access
  opened it by its begin flag; the waved accesses, by number, of waves opened so whose end flag has not issued -/
  waveRun : Nat := 0
  waveOwn : Option Nat := none
  waveMarked : Bool := false
  waves : List (Nat × WaveInfo) := []
  deriving DecidableEq, Repr

/-! ## Tokens, channels and the stream array -/

/-- A flit of a channel or VC: kind and 512 bits (R264, R267); `mask` names the lanes of a steer's flit (R383); `job` the job
whose trigger a scheduler word is. -/
structure Flit where
  kind : BitVec 3
  data : Wave
  mask : BitVec 16 := 0xFFFF
  /-- the end-of-tile token of a copy or of an `mcst` branch (R227, R236) -/
  tileEnd : Bool := false
  /-- the branch of a switch box that accepted it (R237) -/
  branch : Option (TileId × Fin 4) := none
  ctx : Nat := 0
  job : Nat := 0
  card : Word := 0
  deriving DecidableEq, Repr

/-- A virtual channel of a tile: the flits it holds, tokens already taken from its head flit, flits whose producers wait for room
(R265), and whether the next flit, where it is an EOT (some true) or an end-of-tile token (some false), belongs to a command that has
taken its last flit (R227, R388). -/
structure VChan where
  q : List Flit := []
  pos : Nat := 0
  waiting : List Flit := []
  eat : Option Bool := none
  deriving DecidableEq, Repr

/-- A lane token: kind and payload, with the Boolean a compare puts beside it (R263, R271), its place among the data tokens its producer
has emitted in the service and the output tick of its firing (the model's own: the filters of R297 go by them), and the clk it stays in its
slot before it can move on: 1 for one that has moved in the present clk (R384), more behind a longer operation (R146). -/
structure Tok where
  kind : BitVec 3
  val : BitVec 96
  bool : Bool := false
  nth : Nat := 0
  tick : Nat := 0
  rest : Nat := 0
  deriving DecidableEq, Repr

/-- One element of a lane. -/
structure ElemSt where
  /-- the arcs to the boundary below and to the partner element below; an empty arc is an acknowledged one (R263) -/
  own : Option Tok := none
  part : Option Tok := none
  /-- tokens of its last firing still to be placed -/
  next : List Tok := []
  /-- its own last output (select 011); none before it has one -/
  last : Option (BitVec 32) := none
  /-- value and sown count of an acc element; tokens of the block a qblk element collects -/
  cell : Cell := {}
  buf : List (BitVec 32) := []
  /-- inputs A, B, C that have met the end of their segment -/
  ends : Vector Bool 3 := Vector.replicate 3 false
  /-- tick of the last EOT a join has met; data tokens emitted in the segment on its two arcs -/
  endTick : Nat := 0
  sentOwn : Nat := 0
  sentPart : Nat := 0
  /-- SOT tick of the present segment of input A, and its data tokens so far -/
  base : Option Nat := none
  idx : Nat := 0
  /-- the interval in service: whether the lane has forwarded its SOT and its EOT, and whether it has loaded the cutting -/
  sot : Bool := false
  eot : Bool := false
  loaded : Bool := false
  /-- data tokens emitted in the service, and the output tick of the last of them -/
  outs : Nat := 0
  upto : Nat := 0
  /-- in a service that demands nothing of input A, per input: whether an SOT began its present segment, and its data tokens so far (R293) -/
  bareSot : Vector Bool 3 := Vector.replicate 3 false
  bareIdx : Vector Nat 3 := Vector.replicate 3 0
  /-- a BLIGHT token has passed, or the element has faulted -/
  stopped : Bool := false
  /-- it has swapped to its shadow plane in the rotation under way (R281) -/
  swapped : Bool := false
  /-- counters raised since the last EOT it forwarded (R117, R286) -/
  counts : Vector (BitVec 32) 16 := Vector.replicate 16 0
  deriving DecidableEq, Repr

/-- One lane of a stream run (R263, R384): its six elements; the registers of occupied boundaries, port 1 and port 2; for each steer whether
its token has still to be placed on the side path, its bypass arc and the boundary that arc ends at; the four decision queues, a decision
being some true, some false or none for a control entry (R138, R139). -/
structure Lane where
  elems : Vector ElemSt 6 := Vector.replicate 6 {}
  /-- the token that boundary 0 takes within a step: no slot, and empty between steps but for one whose
  element its fault has stopped (R285, R384) -/
  entry : Option Tok := none
  bnd : Vector (Option Tok) 7 := Vector.replicate 7 none
  bnd2 : Vector (Option Tok) 7 := Vector.replicate 7 none
  side : Vector Bool 7 := Vector.replicate 7 false
  bypass : Vector (Option Tok) 7 := Vector.replicate 7 none
  bypassTo : Vector Nat 7 := Vector.replicate 7 0
  decisions : Vector (List (Option Bool)) 4 := Vector.replicate 4 []
  /-- per boundary: flits of its VC this lane has taken from the head, and entries of its carry's stream buffer this lane has read -/
  taken : Vector Nat 7 := Vector.replicate 7 0
  sbPos : Vector Nat 7 := Vector.replicate 7 0
  /-- waves this lane has taken of the source, which of a stream buffer are its entries -/
  srcPos : Nat := 0
  /-- per boundary: data tokens its merge has forwarded in the segment (R139) -/
  merged : Vector Nat 7 := Vector.replicate 7 0
  /-- in the present clk: boundary 0 has taken a token, and so has the register of boundary 6 (R384) -/
  fed : Bool := false
  took6 : Bool := false
  swapped : Vector Bool 7 := Vector.replicate 7 false
  /-- carries to port 2 that the ROT has passed on one of their two inputs (R281) -/
  half : Vector Bool 7 := Vector.replicate 7 false
  /-- boundaries a fault has stopped (R285) -/
  dead : Vector Bool 7 := Vector.replicate 7 false
  /-- data tokens that have left boundary 6 -/
  left : Nat := 0
  deriving DecidableEq, Repr

/-- The chain image of a tile: element words, router words, lane enable, constants and, for a graph, the demand table and
statistics word (R136, R269, R385). -/
structure ChainImage where
  elems : Vector (BitVec 64) 6 := Vector.replicate 6 0
  routers : Vector (BitVec 32) 7 := Vector.replicate 7 0
  lanes : BitVec 16 := 0
  consts : List (Nat × BitVec 32) := []
  dtab : List (BitVec 64) := []
  stat : BitVec 32 := 0
  deriving DecidableEq, Repr

/-- Who drives the stream array: a `vrun`, or the live graph (R137, R283). -/
inductive StreamUse where
  /-- issuer; waves to enter; destination v registers or VC; source VC; waves still to come (none: until EOT) -/
  | vrun (iss : Issue) (waves : List Wave) (dst : List Nat) (dstVc : Option SlotId)
      (srcVc : Option SlotId) (left : Option Nat) (tag : BitVec 5)
  | graph (ctx : Nat)
  deriving DecidableEq, Repr

/-- The stream array of a tile while it runs (R119, R137, R283). -/
structure Stream where
  use : StreamUse
  img : ChainImage
  lanes : Vector Lane 16 := Vector.replicate 16 {}
  sourceDone : Bool := false
  /-- the channel source of a `vrun` is inside a segment (R146) -/
  inSeg : Bool := false
  /-- boundary 6 has faulted (R267) -/
  frozen : Bool := false
  counts : Vector (BitVec 32) 16 := Vector.replicate 16 0
  /-- flits sent in the segment on each channel that leaves boundary 6; the channels that have accepted the packed flit (R236, R276) -/
  sent : List (Nat × Nat) := []
  took : List Nat := []
  /-- rotation number to enter at boundary 0 where no channel feeds it (R281) -/
  rotIn : Option (BitVec 16) := none
  /-- in the present clk: flits that steers have sent to each VC, and per boundary the lanes of the flit its carry has taken (R383) -/
  steered : Vector Nat 16 := Vector.replicate 16 0
  carTook : Vector (Option (BitVec 16)) 7 := Vector.replicate 7 none
  deriving DecidableEq, Repr

/-! ## Engines of a tile -/

/-- A clause command in its port's staging (R56, R57). -/
structure Held where
  instr : Instr
  iss : Issue
  released : Bool
  /-- for an `mls` from an m register: the tag that register has by then (R154) -/
  mtag : BitVec 5 := 0
  deriving DecidableEq, Repr

/-- How far a coordinate stream stands in its present fiber (R162, R398): inside it, at its start directly behind a STOP of level 0,
past its STOP of level 0, or at its end token.
Assumption 127 (DEDUCED). -/
inductive FiberPos where
  | inside | fresh | closed | ended
  deriving DecidableEq, Repr

/-- Partial results of one row of a pair: tree value and count per column (R159). -/
structure Staged where
  row : Nat
  cells : List Cell
  deriving DecidableEq, Repr

/-- A matrix command in the array's queue: its operands as they stood at queue entry and how far it has got (R149, R150). -/
structure MatCmd where
  instr : Instr
  iss : Issue
  /-- the VCs its channel operands name, in slot order -/
  vcs : List SlotId := []
  regs : List VReg := []
  idxs : List VReg := []
  mreg : MReg := {}
  /-- the draws of an `mdr` under `sto`, taken at queue entry (R101) -/
  draws : List Nat := []
  /-- what the array takes a command that runs until its channel ends to owe (R168 gives no figure): a free value (the model's own) -/
  guess : Nat := 0
  /-- rows or fibers done, or flits of weights taken -/
  done : Nat := 0
  /-- contributors of the row or fiber in progress: k, a, w -/
  cur : List (Nat × BitVec 16 × BitVec 16) := []
  prevA : Option Nat := none
  prevB : Option Nat := none
  posA : FiberPos := .inside
  posB : FiberPos := .inside
  /-- matches of the present fiber, skipped pairs of the present row -/
  hits : Nat := 0
  emitted : Nat := 0
  out : List (BitVec 32) := []
  /-- the input has ended and what is left to send is being sent -/
  ending : Bool := false
  /-- rows of a paired command, and whether all of them are there -/
  part : List Staged := []
  ready : Bool := false
  deriving DecidableEq, Repr

/-- A command running on an address-generator node (R239, R240, R242): coordinates and values still to take from its v blocks, or its
VCs; where it delivers; the reply it owes; element index; elements stored or emitted; segments left and the next start tick. -/
structure AgCmd where
  instr : Instr
  iss : Issue
  fmt : BitVec 5
  crd : List Nat := []
  vals : List Nat := []
  vcs : List SlotId := []
  out : Option (TileId × SlotId) := none
  reply : Reply := .none
  base : Nat := 0
  bound : Option Nat := none
  spadOnly : Bool := false
  k : Nat := 0
  count : Nat := 0
  segsLeft : Nat := 0
  tick : Nat := 0
  /-- elements emitted and not yet packed into a flit -/
  buf : List Nat := []
  started : Bool := true
  deriving DecidableEq, Repr

/-- An address-generator node: its descriptor, next outer index and command; the slots that wait for it, each with its epoch and its place
in the order of issue (R238, R241). -/
structure AgNode where
  desc : Option Wave := none
  next : Nat := 0
  cmd : Option AgCmd := none
  line : List (SlotId × Nat × Nat) := []
  deriving DecidableEq, Repr

/-- A multicast in progress at the switch box (R235, R236): its copy, its branches by number, those that have accepted the offered flit, and
that flit once it has been read. -/
structure Mcst where
  copy : Nat
  branches : List (Fin 4 × TileId × SlotId)
  accepted : List (Fin 4) := []
  flit : Option Wave := none
  deriving DecidableEq, Repr

/-- A cached translation: context, 64 KiB page and leaf entry with its level (R180). -/
structure Tlb where
  ctx : Nat
  page : Nat
  level : Nat
  leaf : BitVec 64
  deriving DecidableEq, Repr

/-- A line of a tile's L1 share (R175): its number, which is its physical address divided by 64, and its 64 bytes. Bytes a store has put
into L1 and that have not been written back stand with the store, in `Tile.accesses`. -/
structure L1Line where
  line : Nat
  data : List Byte
  deriving DecidableEq, Repr

/-- One of the 1,024 tiles (R16). -/
structure Tile where
  /-- context whose launch holds the tile -/
  owner : Option Nat := none
  split : Bool := false
  slots : Vector Slot 16 := Vector.replicate 16 {}
  lastIssued : Nat := 15
  /-- the 64 KiB instruction store, by byte address -/
  istore : List Host.Cell := []
  vcs : Vector VChan 16 := Vector.replicate 16 {}
  v : Vector VReg 64 := Vector.replicate 64 {}
  a : Vector (Vector Cell 16) 16 := Vector.replicate 16 (Vector.replicate 16 {})
  m : Vector MReg 16 := Vector.replicate 16 {}
  z : Vector (Vector (Vector Cell 32) 32) 4 := Vector.replicate 4 (Vector.replicate 32 (Vector.replicate 32 {}))
  active : Plane := {}
  shadow : Plane := {}
  matQ : List MatCmd := []
  /-- a supplying half's results in the home half's staging: z register and rows (R159) -/
  pairIn : Option (Fin 4 × List Staged) := none
  /-- clk at which the half waiting for its pair gives up (R159) -/
  pairDeadline : Option Nat := none
  /-- paired commands of this half whose other half has already ended without it -/
  pairLost : Nat := 0
  /-- counters of a `cpym` follow-on, for the COUNT flit of its end (R155) -/
  matCounts : Vector (BitVec 32) 16 := Vector.replicate 16 0
  lfsr : BitVec 32 := 1
  /-- the lane stages: the number of the command that holds each (R119, R120), and the number the next command of the tile gets -/
  stages : Vector (Option Nat) 6 := Vector.replicate 6 none
  nextCmd : Nat := 0
  chain : ChainImage := {}
  shadowChain : Option ChainImage := none
  frontier : List Nat := []
  /-- chain-image changes that wait for the running stream to end (R142) -/
  chainNext : Option ChainImage := none
  stream : Option Stream := none
  /-- scratchpad bytes by offset, and the offsets / 4 whose presence bit is set (R196) -/
  sp : List Host.Cell := []
  present : List Nat := []
  /-- lines of plain device memory that the L1 share holds (R17, R175) -/
  l1 : List L1Line := []
  accesses : List Access := []
  nextAcc : Nat := 0
  utlb : List Tlb := []
  held : List Held := []
  ag : Vector AgNode 4 := Vector.replicate 4 {}
  mcst : Option Mcst := none
  /-- branch counters of the switch box, without `win`, which is read off the branch channels; and where the branches lead (R237) -/
  mcb : Vector Word 4 := Vector.replicate 4 0
  branches : Vector (Option (TileId × SlotId)) 4 := Vector.replicate 4 none
  /-- per branch: the clk since which it could not accept the flit that the replication point holds (R237) -/
  holds : Vector (Option Nat) 4 := Vector.replicate 4 none
  /-- per VC: the graph slot whose channel's flits stand there, where more than one loaded slot names it (R274) -/
  vcSlot : Vector (Option (Fin 4)) 16 := Vector.replicate 16 none
  phase : BitVec 48 := 0
  lead : BitVec 8 := 255
  /-- walks issued and not yet replied (R247) -/
  walksOut : Nat := 0
  /-- running sum of the tile's adder node (R286) -/
  statSum : Vector (BitVec 32) 16 := Vector.replicate 16 0
  /-- balance job delivered to the tile and not complete (R322) -/
  balance : Option Nat := none
  /-- a save has found the sequencer within a word, which still issues; the tile stops behind it (R73, R330) -/
  lastWord : Bool := false
  deriving DecidableEq, Repr

/-! ## Versions and walks -/

/-- A versioned word: held versions in ascending order, reclaim floor and never marks (R185). -/
structure VWord where
  versions : List (Nat × Word)
  floor : Nat := 0
  never : List Nat := []
  deriving DecidableEq, Repr

/-- A reserved version, held in the containment unit (R190), with the address it was reserved at. -/
structure Reservation where
  ctx : Nat
  va : Nat
  pa : Nat
  v : Nat
  deriving DecidableEq, Repr

/-- The condition register of a walk (R253). -/
inductive WCond where
  | lt | eq | gt | ne
  deriving DecidableEq, Repr

/-- What a walk is doing. -/
inductive WPhase where
  | queued
  /-- at a walker, its rule program still to be read (R252) -/
  | fetching
  | running
  /-- waits for the memory read of its current rule: address, words, destination register, `wk.nxt`, `wk.emit` -/
  | reading (va n : Nat) (wd : Nat) (nxt emit : Bool)
  /-- has its reply ready: status, record words, fault code, rule index -/
  | replying (status : Nat) (record : List Word) (fault : Nat) (rule : Nat)
  deriving DecidableEq, Repr

/-- A walk in flight (R246 to R252). -/
structure Walk where
  id : Nat
  iss : Issue
  policy : Nat
  fmt : BitVec 5
  limit : Nat
  progVa : Nat
  prog : List Word32
  key : Vector Word 4
  snap : Option Nat
  w : Vector Word 8
  cond : WCond
  rule : Nat
  /-- the rule that ran last (R256) -/
  last : Nat := 0
  steps : Nat
  /-- the walker that started it, and the one it is present at (R246, R248) -/
  owner : Option Nat := none
  walker : Nat := 0
  phase : WPhase
  /-- a read of its rule: where it lies once translated (physical address, versioned page), whether it holds an entry of the parked pool
  (R249), and the words that have arrived (R254) -/
  place : Option (Nat × Bool) := none
  parked : Bool := false
  got : List Word := []
  reply : Reply
  deriving DecidableEq, Repr

/-! ## Copies -/

/-- One run of rows of a copy: source, destination and row length (R230, R232). -/
structure CopyRow where
  src : Nat
  dst : Nat
  len : Nat
  deriving DecidableEq, Repr

/-- Where a copy puts its data. -/
inductive CopyDst where
  | mem
  | chan
  | mcst
  deriving DecidableEq, Repr

/-- A copy on a channel (R227). -/
structure Copy where
  id : Nat
  iss : Issue
  dst : CopyDst
  rows : List CopyRow
  /-- bytes or flits performed -/
  count : Nat
  reply : Reply
  /-- the follow-on matrix command of a `cpym` (R233) -/
  follow : Option Cmd128 := none
  /-- the data of an aperture store whose template has not been read yet (R231, R232) -/
  templ : Option Word := none
  started : Bool := false
  /-- its end-of-tile token has been placed; its reply has been sent -/
  ended : Bool := false
  replied : Bool := false
  blighted : Bool := false
  /-- code of the fault that ended the copy, for the BLIGHT token -/
  code : Nat := 0
  deriving DecidableEq, Repr

/-- A copy channel of a die: its delivery binding and its copies in issue order (R226). -/
structure CopyCh where
  bind : Option (TileId × SlotId) := none
  q : List Copy := []
  deriving DecidableEq, Repr

/-! ## Jobs, barriers, demands and contexts -/

/-- The state of a job. -/
inductive JobState where
  | waiting | issuing | running | done | cancelled
  deriving DecidableEq, Repr

/-- A region of a card (R315). -/
structure Region where
  base : Nat
  len : Nat
  deriving DecidableEq, Repr

/-- A condition of a card (R315). -/
structure Condition where
  va : Nat
  ver : Nat
  ge : Bool
  deriving DecidableEq, Repr

/-- A job card as read (R315). -/
structure Card where
  tenant : Nat
  prio : Nat
  bal : Bool
  isBed : Bool
  target : BitVec 16
  vc : SlotId
  entry : BitVec 16
  win : BitVec 12
  work : Nat
  trigger : Word
  ckind : Nat
  ctile : TileId
  cvc : SlotId
  caddr : Nat
  cver : Nat
  reads : List Region
  writes : List Region
  conds : List Condition
  deriving DecidableEq, Repr

/-- An accepted card (R316 to R323). -/
structure Job where
  num : Nat
  card : Card
  addr : Word
  state : JobState
  /-- numbers of the cards it still waits for -/
  edges : List Nat
  counter : Bool
  readyAt : Option Nat
  /-- target tiles whose trigger word has not been delivered -/
  toDeliver : List TileId
  /-- tasks it started that have not executed `tend` -/
  tasks : Nat
  /-- tile a balance job was dispatched to, whether its trigger has been delivered and whether it has started (R168) -/
  dispatched : Option TileId
  started : Bool
  computed : Nat
  /-- the submitting task and the number of its next access, whose earlier ones perform before a trigger is delivered (R335) -/
  sub : Option (TileId × SlotId × Nat × Nat) := none
  /-- whether its completion reply has been sent -/
  replied : Bool := false
  deriving DecidableEq, Repr

/-- The arrivals of one tile at a barrier (R328, R329): how many it has made, the VC its newest one named, and the task and the number of
its next access, whose earlier ones perform before the arrival counts. -/
structure Arrival where
  tile : TileId
  count : Nat
  vc : SlotId
  slot : SlotId
  epoch : Nat
  upto : Nat
  deriving DecidableEq, Repr

/-- A barrier of a context (R327, R328): generations completed, and the arrivals of its tiles since the launch. -/
structure Barrier where
  bed : BitVec 16
  id : Nat
  gen : Nat
  arrivals : List Arrival
  deriving DecidableEq, Repr

/-- One consumer's feed of a producer (R297): its port, whether it reads the partner arc, the ticks it has demanded and not yet
received, and those of them the interval in service is sending. -/
structure Feed where
  dest : PortId
  part : Bool
  /-- words per tick of the consumer's own input; 0 for a sink that no input reads -/
  w : Nat := 1
  want : List (Nat × Nat) := []
  now : List (Nat × Nat) := []
  /-- a source's feed: data tokens sent in its present segment, and the last tick sent in it -/
  sent : Nat := 0
  upto : Option Nat := none
  deriving DecidableEq, Repr

/-- A cutting being written (R299): its tick, the lanes' values so far, the state words written. -/
structure Cutting where
  tick : Nat
  lanes : List (Nat × BitVec 32)
  written : Nat
  /-- clk at which its wait for a version slot ends -/
  deadline : Option Nat := none
  deriving DecidableEq, Repr

/-- A demand port's state (R290 to R293, R297, R300, R301, R304 to R306). -/
structure DPort where
  port : PortId
  held : List (Nat × Nat) := []
  serving : Option (Nat × Nat) := none
  /-- start and end of each demanded input's range in service, and the start of the first -/
  starts : List (Option Nat) := [none, none, none]
  ends : List (Option Nat) := [none, none, none]
  start : Nat := 0
  /-- the interval in service demands nothing of input A (R293) -/
  bare : Bool := false
  /-- retention floors of an operator's inputs; a channel's is the first of its sink -/
  floors : List Nat := [0, 0, 0]
  reg : Option (TileId × SlotId) := none
  /-- state address and cadence set by `dcad`, and those of the interval in service -/
  stateVa : Option Nat := none
  cadence : Nat := 0
  nowVa : Option Nat := none
  nowCad : Nat := 0
  cut : Option Nat := none
  /-- the lanes' values of cutting c (R300) -/
  init : Option (List (BitVec 32)) := none
  cuts : List Cutting := []
  faulted : Bool := false
  /-- its interval in service waits for an operator that has faulted (R393) -/
  stuck : Bool := false
  /-- words still to post to software -/
  posts : List Word := []
  feeds : List Feed := []
  /-- a source: the tick its present segment began with, the data tokens since then (without SOT, those of the present tick), and the
  intervals it has posted and not yet delivered -/
  segAt : Option Nat := none
  segIdx : Nat := 0
  owed : List (Nat × Nat) := []
  /-- a sink: SOT and EOT flits that have arrived and are not yet accounted for -/
  landed : List Flit := []
  /-- a sink: the SOT of its present segment, the last tick it has covered, the lowest tick it has forwarded, words of a tick not yet whole -/
  sot : Option Nat := none
  last : Option Nat := none
  low : Option Nat := none
  words : Nat := 0
  deriving DecidableEq, Repr

/-- A flit of the demand plane, or a cancel flit (R26, R308), on its way to a port. -/
structure DemandFlit where
  id : Nat
  port : PortId
  feed : PortId
  part : Bool := false
  w : Nat := 1
  t0 : Nat
  t1 : Nat
  cancel : Bool
  deriving DecidableEq, Repr

/-- A `dmd` reply still owed (R305): its sink's graph slot and channel, its interval, the ticks not yet delivered or cancelled, whether any
has been delivered. -/
structure DmdReply where
  slot : Nat
  chan : Nat
  t0 : Nat
  t1 : Nat
  need : List (Nat × Nat)
  got : Bool := false
  tile : TileId
  vc : SlotId
  job : Nat
  deriving DecidableEq, Repr

/-- A channel of a loaded graph slot: descriptor, depth, landing indexes and whether its producer has ended its segment. -/
structure Chan where
  desc : BitVec 64
  depth : Nat
  index : Nat := 0
  /-- what a stream buffer has landed, in order: none for a data flit, or a control flit (R266) -/
  seq : List (Option Flit) := []
  ended : Bool := true
  /-- flits a graft node holds until earlier writes have performed (R275) -/
  graftQ : List Flit := []
  frozen : Bool := false
  /-- control flits its landing has dropped since the last EOT that landed (R267, R286) -/
  drops : BitVec 32 := 0
  /-- a depth that waits until the channel is drained (R282) -/
  newDepth : Option Nat := none
  /-- its queue while the VC serves the channel of another slot (R274) -/
  parked : VChan := {}
  deriving DecidableEq, Repr

/-- A loaded graph slot (R274): image address, rectangle, section table entries and channels. -/
structure Graph where
  image : Nat
  bed : BitVec 16
  statrec : Nat
  sections : List (Nat × TileId × Nat × Nat × Nat)
  chans : List Chan
  deriving DecidableEq, Repr

/-- The shadow state of a region (R280). -/
inductive ShadowState where
  | empty | loading | loaded | failed
  deriving DecidableEq, Repr

/-- A graph reply owed by `gsh`, `grot`, `gstp` or `gsw`. -/
structure GReply where
  tile : TileId
  vc : Option SlotId
  job : Nat := 0
  deriving DecidableEq, Repr

/-- Stopping or switching of the live graph (R284): the graph slot a `gsw` starts next, its issuer and reply; `force` marks a blighted
graph, which stops once nothing of it moves any further (R351, R399). -/
structure Stopping where
  next : Option Nat
  iss : Option Issue := none
  reply : GReply
  force : Bool := false
  deriving DecidableEq, Repr

/-- A start whose active words are being fetched (R283). -/
structure Starting where
  slot : Nat
  iss : Issue
  reply : Option GReply
  deriving DecidableEq, Repr

/-- A record queued for a context's ring, and the accesses, by tile and number, that perform or are discarded before it is written (R338,
R362). -/
structure QueuedRecord where
  bits : BitVec 512
  after : List (TileId × Nat) := []
  deriving DecidableEq, Repr

/-- An entry of a context's barrier mailbox (R330): an arrival, or a completion word. -/
structure BarLog where
  arrival : Bool
  bed : BitVec 16
  id : Nat
  tile : TileId
  vc : SlotId
  gen : Nat
  deriving DecidableEq, Repr

/-- A region of a launch as `gsh` and `grot` know it (R280, R281, R285): its shadow state, the slot its words come from, who is owed the
load's reply; its rotation number, whether it rotates, whether a fault has frozen it half rotated, and the rotation's reply. -/
structure GraphRegion where
  bed : BitVec 16
  shadow : ShadowState := .empty
  src : Nat := 0
  reply : GReply := { tile := 0, vc := none }
  issuer : Option Issue := none
  rotNum : BitVec 16 := 0
  rotating : Bool := false
  frozen : Bool := false
  rotReply : GReply := { tile := 0, vc := none }
  deriving DecidableEq, Repr

/-- A context (R337). -/
structure Context where
  num : Nat
  tenant : Nat
  root : Nat
  saveArea : Nat
  ring : Nat
  debug : Bool
  saveLimit : Nat
  wdCeiling : Nat
  live : Bool := true
  /-- bed word and split of the launch (`lrect`) -/
  launch : Option (BitVec 16 × Bool) := none
  pairto : Word := 65536
  vto : Word := 1048576
  cptab : Word := 0
  cpcnt : Word := 0
  wdgl : Nat := 0
  wdgc : Nat := 0
  /-- records not yet written, newest record written, newest consumed value read (R338) -/
  records : List QueuedRecord := []
  produced : Nat := 0
  consumed : Nat := 0
  selecting : Bool := true
  jobs : List Job := []
  lastJob : Nat := 0
  /-- cards submitted and not yet answered: submitting tile, slot, rd and card address -/
  submits : List (TileId × SlotId × XReg × Card × Word) := []
  barriers : List Barrier := []
  barLog : List BarLog := []
  gslots : Vector (Option Graph) 4 := Vector.replicate 4 none
  liveSlot : Option Nat := none
  /-- job whose task made the graph live, 0 for none (R399) -/
  graphJob : Nat := 0
  regions : List GraphRegion := []
  stopping : Option Stopping := none
  starting : Option Starting := none
  statK : Nat := 0
  ports : List DPort := []
  dmds : List DmdReply := []
  /-- a save in progress: the clk at which its limit expires (R354, R356) -/
  saving : Option Nat := none
  /-- status of a save that a kill has ended, until `ctxs` or CTX_SAVE reports it (R356) -/
  saveResult : Option Nat := none
  /-- saved image, while the context is not resident -/
  resident : Bool := true
  deriving DecidableEq, Repr

/-! ## Dies, host and package -/

/-- A tenant's quota and use (R317). -/
structure Quota where
  tenant : Nat
  slots : Nat
  counters : Nat
  deriving DecidableEq, Repr

/-- The power states of R380. -/
inductive Power where
  | p0 | p1 | p2 | p3 | s1
  deriving DecidableEq, Repr

/-- A compute die (R8, R11). -/
structure Die where
  ch : Vector CopyCh 64 := Vector.replicate 64 {}
  dtlb : List Tlb := []
  /-- tenant last served at each priority level (R320) -/
  served : Vector Nat 4 := Vector.replicate 4 511
  power : Power := .p0
  margin : Bool := false
  changing : Bool := false
  /-- steps the thermal throttle has taken the die down (R382) -/
  throttled : Nat := 0
  deriving DecidableEq, Repr

/-- The management core of a die (R8, R337): its registers, the address of the word of its firmware that it stands at, words it holds behind
one whose answer it awaits (R353), and the records it has been notified of, by context and sequence number, newest first (R338). -/
structure Core where
  x : Vector Word 32 := Vector.replicate 32 0
  p : Vector Bool 8 := Vector.replicate 8 false
  pc : Word := 0
  words : List Word32 := []
  notified : List (Nat × Nat) := []
  deriving DecidableEq, Repr

/-- The life-cycle states of R373. -/
inductive LifeCycle where
  | blank | provisioned | operational | decommissioned
  deriving DecidableEq, Repr

/-- A mailbox response (R368). -/
structure Response where
  func : Func
  status : Nat
  r : List Word
  deriving DecidableEq, Repr

/-- A mailbox command that has been accepted and not answered (R368, R372); `begun` once its effect is under way, `owes` the contexts and
jobs whose blights belong to it. -/
structure Mail where
  instr : Instr
  func : Func
  req : Req
  begun : Bool := false
  owes : List (Nat × Nat) := []
  deriving DecidableEq, Repr

/-- A doorbell binding (R375). -/
structure Doorbell where
  func : Func
  idx : Nat
  ctx : Nat
  desc : Nat
  deriving DecidableEq, Repr

/-- A peer window (R379): its number, ports, first device physical address, and the peer's address it maps to. -/
structure PeerWin where
  idx : Nat
  ports : BitVec 12
  base : Nat
  peer : Nat
  deriving DecidableEq, Repr

/-- A notify word waiting in a node's buffer (R333). -/
structure Notify where
  node : Nat
  tile : TileId
  vc : SlotId
  word : Word
  deriving DecidableEq, Repr

/-- An engine fault found and not yet reported (R343, R399). -/
structure EngineFault where
  id : Nat
  iss : Issue
  code : FaultCode
  addr : Word
  aux : Word
  /-- true when the rule reports the fault late to the task rather than blighting its job -/
  toTask : Bool
  deriving DecidableEq, Repr

/-- What the host link has answered to the host (R364, R365, R376).
Assumption 135 (DESIGN CHOICE). -/
inductive LinkReply where
  | read (bytes : List Byte)
  /-- a read that found an uncorrectable error, returned with CXL poison (R364) -/
  | poison
  | writeDone
  | snoopMiss
  | spdm (bytes : List Byte)
  deriving DecidableEq, Repr

/-- A saved context image: the opaque body of R355. -/
structure SavedImage where
  addr : Nat
  ctx : Context
  tiles : List (TileId × Tile)
  copies : List (Nat × Nat × CopyCh)
  reservations : List Reservation
  demand : List DemandFlit
  valid : Bool
  deriving DecidableEq, Repr

/-- Telemetry counts the spec names (R19, R364, R375, R382). -/
structure Telemetry where
  /-- single-bit errors corrected in passing -/
  corrected : Nat := 0
  hdmVerDrop : Nat := 0
  qdrop : Nat := 0
  throttle : Nat := 0
  /-- the tenants of the contexts whose queues dropped a doorbell write, newest first (R370) -/
  qdropBy : List Nat := []
  deriving DecidableEq, Repr

/-- What a happening concerns: the tile, slot, die, unit (a stage, boundary, channel, node or branch), lane, context, the number of
an access, walk, copy, job, fault, graph channel or demand flit, the demand port, and the mailbox's function and request (R367, R368). -/
structure Focus where
  tile : TileId := 0
  slot : SlotId := 0
  walk : Nat := 0
  die : DieId := 0
  unit : Nat := 0
  lane : SlotId := 0
  ctx : Nat := 0
  id : Nat := 0
  port : PortId := .sink 0 0 0
  func : Func := .sideband
  req : Req := ⟨0, 0, 0, 0, 0, 0, 0, 0, 0⟩
  deriving DecidableEq, Repr

/-- Who moves or what strikes from outside: a happening, a walker with the rule of the walk whose turn it is (R246), the sequencer of a tile, or the management core of a die
with a scalar word of its firmware, in system mode (R337). -/
inductive Move where
  | happen (i : Instr) (f : Focus)
  | rule (walker : Nat)
  | issue (t : TileId)
  /-- a happening, or the word of a sequencer, whose read of memory finds an uncorrectable error (R19) -/
  | happenErr (i : Instr) (f : Focus)
  | issueErr (t : TileId)
  /-- a line leaves a tile's L1 share for want of room (R175) -/
  | evict (t : TileId) (line : Nat)
  /-- a read of memory meets a single-bit error, which is corrected in passing (R19) -/
  | corrected
  | sys (d : DieId) (w : Word32)
  /-- the same, and the word's read of memory finds an uncorrectable error (R19) -/
  | sysErr (d : DieId) (w : Word32)
  /-- a management core goes on with the words it holds -/
  | core (d : DieId)
  deriving DecidableEq, Repr

end Sys2Proof.Machine
namespace Sys2Proof.Machine
open Sys2Proof

/-- The machine's state.
Assumption 132 (DESIGN CHOICE). -/
structure State where
  tiles : Vector Tile 1024
  dies : Vector Die 8
  contexts : List Context
  /-- HBM, by device physical byte address (R21) -/
  mem : List Host.Cell
  /-- versioned words that have been written, by physical address; and the ranges that the tables of live contexts map versioned: the address
  of the leaf entry, the first physical address and the bytes (R185) -/
  vwords : List (Nat × VWord)
  verPages : List (Nat × Nat × Nat)
  reservations : List Reservation
  walks : List Walk
  nextWalk : Nat
  /-- each walker's TLB (R249) and the walk it ran last (R246) -/
  walkTlb : Vector (List Tlb) 128
  walkLast : Vector Nat 128
  engineFaults : List EngineFault
  nextFault : Nat
  nextCopy : Nat
  demand : List DemandFlit
  nextDemand : Nat
  notifies : List Notify
  quotas : List Quota
  saved : List SavedImage
  /-- bytes stored to host memory, newest first (R175) -/
  hostOut : List Host.Cell
  /-- bytes a copy sent to a peer window, newest first (R379) -/
  peerOut : List Host.Cell
  owner : Option Nat
  life : LifeCycle
  keys : Vector (List Byte) 8
  keySets : Vector Nat 8
  /-- the CXL IDE keys the last SPDM key exchange set (R376) -/
  ideKeys : List Byte
  measurements : List (List Byte)
  verified : List (Nat × List Byte)
  doorbells : List Doorbell
  peers : List PeerWin
  isMS : Bool
  wiping : Bool
  powered : Bool
  linkLanes : Nat
  linkRate : Nat
  mailQ : List Mail
  responses : List Response
  linkReplies : List LinkReply
  telemetry : Telemetry
  /-- the management cores, and the mode: true while the core of the die in focus executes, in system mode (R337) -/
  cores : Vector Core 8
  sysMode : Bool
  /-- the present step's read of memory finds an uncorrectable error (R19, R176): an input, for one step.
  Assumption 134 (DESIGN CHOICE). -/
  eccError : Bool
  /-- clk of R3, counted by `step` -/
  clk : Nat
  /-- what the present step's word, rule or happening acts on -/
  focus : Focus
  /-- the model's own: the tile whose sequencer issues when the agenda names no one, and whether an owed happening goes first -/
  turn : TileId
  owedFirst : Bool
  /-- the model's own counter of free values drawn so far -/
  draws : Nat
  /-- the model's own list of who moves next, supplied from outside -/
  agenda : List Move
  /-- the model's own list of what the device still owes -/
  pending : List Move
  deriving DecidableEq, Repr

/-- The machine right after reset (R374): every memory, register and table zero, no context, no owner, tags 0x00, counts 0,
p0 true at each task start, the LFSR, phase, lead and CSR start values given when a context is created. The package is an LZ8-M
with its host link at sixteen lanes of 128 GT/s, in the life-cycle state BLANK (assumption 1, DESIGN CHOICE).
Assumption 2 (DEDUCED). -/
def State.reset : State where
  tiles := Vector.replicate 1024 {}
  dies := Vector.replicate 8 {}
  contexts := []
  mem := []
  vwords := []
  verPages := []
  reservations := []
  walks := []
  nextWalk := 0
  walkTlb := Vector.replicate 128 []
  walkLast := Vector.replicate 128 0
  engineFaults := []
  nextFault := 0
  nextCopy := 0
  demand := []
  nextDemand := 0
  notifies := []
  quotas := []
  saved := []
  hostOut := []
  peerOut := []
  owner := none
  life := .blank
  keys := Vector.replicate 8 []
  keySets := Vector.replicate 8 0
  ideKeys := []
  measurements := []
  verified := []
  doorbells := []
  peers := []
  isMS := false
  wiping := false
  powered := true
  linkLanes := 16
  linkRate := 128
  mailQ := []
  responses := []
  linkReplies := []
  telemetry := {}
  cores := Vector.replicate 8 {}
  sysMode := false
  eccError := false
  clk := 0
  focus := {}
  turn := 0
  owedFirst := false
  draws := 0
  agenda := []
  pending := []

end Sys2Proof.Machine
end

