-- ==== Sys2Proof/Machine/Ops.lean ====
section
/-! DEFINITION. The named operations over memory, registers, tiles and contexts; taking a trap; blocking; the shared shapes of a
scalar word, a transfer and a happening. -/
namespace Sys2Proof.Machine
open Sys2Proof

/-- The outcome of one step. -/
abbrev Out := Host.Outcome State Fault Refusal

/-- Why a word does not take its effect: it traps precisely, with the record's address and aux (R339), or its slot blocks (R68). -/
inductive Stop where
  | trap (code : FaultCode) (addr aux : Word)
  | block (w : Wait)
  deriving DecidableEq, Repr

/-- A trap whose rule names no address and no aux. -/
abbrev trapWith (c : FaultCode) : Stop := .trap c 0 0

/-! ## Bytes -/

/-- The value of little-endian bytes (R2). -/
def leNat : List Byte → Nat
  | [] => 0
  | b :: bs => b.toNat + 256 * leNat bs

/-- The n low bytes of a value, little-endian. -/
def leBytes : Nat → Nat → List Byte
  | 0, _ => []
  | n + 1, v => BitVec.ofNat 8 v :: leBytes n (v / 256)

/-- The byte at an address; an unlisted address reads 0 (R374: a reset zeroes every memory).
Assumption 15 (DEDUCED). -/
def Memory.get : List Host.Cell → Nat → Byte
  | [], _ => 0
  | (a, b) :: m, x => if a = x then b else Memory.get m x

/-- Write one byte, keeping the canonical form: addresses strictly rising, no entry 0. -/
def Memory.set : List Host.Cell → Nat → Byte → List Host.Cell
  | [], x, v => if v = 0 then [] else [(x, v)]
  | (a, b) :: m, x, v =>
    if x < a then (if v = 0 then (a, b) :: m else (x, v) :: (a, b) :: m)
    else if x = a then (if v = 0 then m else (x, v) :: m)
    else (a, b) :: Memory.set m x v

/-- n bytes from an address. -/
def Memory.read (m : List Host.Cell) (a n : Nat) : List Byte := (List.range n).map fun i => Memory.get m (a + i)

/-- Write bytes from an address up. -/
def Memory.write : List Host.Cell → Nat → List Byte → List Host.Cell
  | m, _, [] => m
  | m, a, b :: bs => Memory.write (Memory.set m a b) (a + 1) bs

/-- Every entry lies at or above `lo`, addresses rise strictly and no entry is 0. -/
def Memory.wfFrom : Nat → List Host.Cell → Bool
  | _, [] => true
  | lo, (a, b) :: m => decide (lo ≤ a) && b != 0 && Memory.wfFrom (a + 1) m

/-- The canonical form of a memory. -/
def Memory.wf (m : List Host.Cell) : Bool := Memory.wfFrom 0 m

/-- Replace the value of a key, or add it at the end. -/
def assocSet {α : Type} : List (Nat × α) → Nat → α → List (Nat × α)
  | [], k, v => [(k, v)]
  | (a, b) :: m, k, v => if a = k then (k, v) :: m else (a, b) :: assocSet m k v

/-- The value of a key. -/
def assocGet {α : Type} : List (Nat × α) → Nat → Option α
  | [], _ => none
  | (a, b) :: m, k => if a = k then some b else assocGet m k

/-- 64-bit word of a natural number. -/
abbrev w64 (n : Nat) : Word := BitVec.ofNat 64 n

/-! ## Tiles, slots and registers -/

/-- A tile. -/
def State.tile (s : State) (t : TileId) : Tile := s.tiles[t]
/-- Change a tile. -/
def State.modTile (s : State) (t : TileId) (f : Tile → Tile) : State := { s with tiles := s.tiles.set t (f (s.tile t)) }
/-- A slot of a tile. -/
def Tile.slot (T : Tile) (k : SlotId) : Slot := T.slots[k]
/-- Change a slot of a tile. -/
def Tile.modSlot (T : Tile) (k : SlotId) (f : Slot → Slot) : Tile := { T with slots := T.slots.set k (f (T.slot k)) }
/-- A slot. -/
def State.slot (s : State) (t : TileId) (k : SlotId) : Slot := (s.tile t).slot k
/-- Change a slot. -/
def State.modSlot (s : State) (t : TileId) (k : SlotId) (f : Slot → Slot) : State := s.modTile t (·.modSlot k f)
/-- The tile in focus. -/
def State.here (s : State) : Tile := s.tile s.focus.tile
/-- The slot in focus. -/
def State.cur (s : State) : Slot := s.slot s.focus.tile s.focus.slot
/-- Change the slot in focus. -/
def State.modCur (s : State) (f : Slot → Slot) : State := s.modSlot s.focus.tile s.focus.slot f
/-- Change a die. -/
def State.modDie (s : State) (d : DieId) (f : Die → Die) : State := { s with dies := s.dies.set d (f s.dies[d]) }

/-- The die that holds a tile (R10): 4·(row div 8) + (col div 16). -/
def dieOf (t : TileId) : DieId := ⟨4 * (t.val / 64 / 8) + t.val % 64 / 16, by omega⟩
/-- The column and row of a tile (R11). -/
def colOf (t : TileId) : Nat := t.val % 64
def rowOf (t : TileId) : Nat := t.val / 64

/-- A register number as an index. -/
def xIx (r : XReg) : Fin 32 := ⟨r.toNat, r.isLt⟩
def pIx (r : PReg) : Fin 8 := ⟨r.toNat, r.isLt⟩

/-- The management core in focus, and a change of it (R337). -/
def State.core (s : State) : Core := s.cores[s.focus.die]
def State.modCore (s : State) (f : Core → Core) : State := { s with cores := s.cores.set s.focus.die (f s.core) }

/-- The x register file in focus: the task's, or the management core's in system mode (R337). -/
def State.xs (s : State) : Vector Word 32 := if s.sysMode then s.core.x else s.cur.x
def State.ps (s : State) : Vector Bool 8 := if s.sysMode then s.core.p else s.cur.p

/-- An x register of a register file; x0 reads 0 (R51). -/
def readX (xs : Vector Word 32) (r : XReg) : Word := if r = 0 then 0 else xs[xIx r]
/-- A predicate of a file; p0 reads true (R51). -/
def readP (ps : Vector Bool 8) (r : PReg) : Bool := if r = 0 then true else ps[pIx r]

/-- Read an x register. -/
def State.getX (s : State) (r : XReg) : Word := readX s.xs r
/-- Read a predicate. -/
def State.getP (s : State) (r : PReg) : Bool := readP s.ps r

/-- Write an x register of a slot; a write to x0 is discarded (R51). -/
def Slot.setX (k : Slot) (r : XReg) (v : Word) : Slot := if r = 0 then k else { k with x := k.x.set (xIx r) v }
def Slot.setP (k : Slot) (r : PReg) (v : Bool) : Slot := if r = 0 then k else { k with p := k.p.set (pIx r) v }

/-- Write an x register; a write to x0 is discarded. -/
def State.setX (s : State) (r : XReg) (v : Word) : State :=
  if s.sysMode then (if r = 0 then s else s.modCore fun c => { c with x := c.x.set (xIx r) v }) else s.modCur (·.setX r v)
/-- Write a predicate; a write to p0 is discarded. -/
def State.setP (s : State) (r : PReg) (v : Bool) : State :=
  if s.sysMode then (if r = 0 then s else s.modCore fun c => { c with p := c.p.set (pIx r) v }) else s.modCur (·.setP r v)

/-! ## Contexts -/

/-- A context by its number. -/
def State.ctx? (s : State) (n : Nat) : Option Context := s.contexts.find? (·.num == n)
/-- Change a context. -/
def State.modCtx (s : State) (n : Nat) (f : Context → Context) : State :=
  { s with contexts := s.contexts.map fun c => if c.num = n then f c else c }
/-- The context that holds a tile. -/
def State.tileCtx (s : State) (t : TileId) : Option Context := (s.tile t).owner.bind s.ctx?
/-- The number of the context in focus; 1024, no context, where the tile has none. -/
def State.ctxNum (s : State) : Nat := (s.here.owner).getD 1024

/-- The issue data of the word in focus (R72). -/
def State.issue (s : State) : Issue :=
  { ctx := s.ctxNum, tile := s.focus.tile, slot := s.focus.slot, pc := s.cur.pc, job := s.cur.job, epoch := s.cur.epoch,
    x := s.cur.x, wave := if s.cur.cls.isOpen then s.cur.cls.wave else 0xFF, no := s.here.nextCmd, prev := s.cur.last }

/-- Whether the task that issued something still runs: its slot is in the same run and is neither FREE nor IDLE. -/
def State.alive (s : State) (i : Issue) : Bool :=
  let k := s.slot i.tile i.slot
  !i.auto && k.epoch == i.epoch && k.status != .free && k.status != .idle

/-! ## What the device owes, and free values -/

/-- Add a happening the device owes. -/
def State.post (s : State) (i : Instr) (f : Focus) : State := { s with pending := s.pending ++ [.happen i f] }
/-- Add a happening unless it is owed already. -/
def State.postOnce (s : State) (i : Instr) (f : Focus) : State :=
  if s.pending.contains (.happen i f) then s else s.post i f
/-- Take a happening off the list. -/
def State.unpost (s : State) (i : Instr) (f : Focus) : State := { s with pending := s.pending.erase (.happen i f) }

/-- A happening: where it is enabled it takes its effect, and is no longer owed; elsewhere nothing happens.
Assumption 125 (DEDUCED). -/
def happening (i : Instr) (eff : State → Option State) (s : State) : Out :=
  match eff (s.unpost i s.focus) with
  | some t => .next t
  | none => .next s

/-- Draw a free value (assumption 4, DESIGN CHOICE). -/
def State.draw (s : State) : Word × State := (Config.freeWord s.draws, { s with draws := s.draws + 1 })

/-! ## Fault records (R339) -/

/-- The `cls` register as `csr r` and the records show it (R58). -/
def Clause.bits (c : Clause) : Nat :=
  c.hdr.toNat + c.remaining.toNat * 2 ^ 16 + c.wave.toNat * 2 ^ 20 + (if c.isOpen then 2 ^ 28 else 0)

/-- A record of kind 00, 10 or 11 without its sequence number, which the write adds. -/
def faultRecord (code kind flags tile slot olog pc rpc addr cls job aux ctx tenant : Nat) : BitVec 512 :=
  BitVec.ofNat 512 (code + kind * 2 ^ 16 + flags * 2 ^ 24 + tile * 2 ^ 32 + slot * 2 ^ 48 + olog * 2 ^ 56 + pc * 2 ^ 64 +
    rpc * 2 ^ 80 + addr * 2 ^ 128 + cls * 2 ^ 192 + job * 2 ^ 256 + aux * 2 ^ 320 + ctx * 2 ^ 384 + tenant * 2 ^ 394)

/-- Queue a record for the context's ring (R338), behind the accesses that have still to perform or to be discarded (R362). -/
def State.queueRecord (s : State) (ctx : Nat) (r : BitVec 512) (after : List (TileId × Nat) := []) : State :=
  (s.modCtx ctx fun c => { c with records := c.records ++ [{ bits := r, after }] }).post .faultRecordWrite { ctx := ctx }

/-- The tenant of a context. -/
def State.tenantOf (s : State) (ctx : Nat) : Nat := ((s.ctx? ctx).map (·.tenant)).getD 0

/-- The accesses of a run of a task that have not all performed, but for its `vamo`s, which are an engine's (R362). -/
def Tile.taskAccesses (T : Tile) (k : SlotId) (epoch : Nat) : List (TileId × Nat) :=
  (T.accesses.filter fun a => !a.iss.auto && a.iss.slot == k && a.iss.epoch == epoch &&
    (match a.kind with | .vamo .. => false | _ => true)).map fun a => (a.iss.tile, a.id)

/-- Stop a slot with a fault record (R339, R342): the one operation by which a precise or a late fault is taken. The slot becomes
FAULTED, its `cls` and registers stay as they stand, the record goes to the context's ring, and the slot resumes at `rpc`. -/
def State.stopSlot (s : State) (t : TileId) (k : SlotId) (kind : Nat) (fi : FaultInfo) (addr aux : Word) (olog : Option Nat)
    (fenced : Bool) : State :=
  let sl := s.slot t k
  let ctx := ((s.tile t).owner).getD 1024
  let flags := (if fi.late then 1 else 0) + (if fenced then 2 else 0) + (if sl.cls.isOpen then 4 else 0)
  (s.modSlot t k fun q => { q with status := .faulted, wait := .none, fault := some fi, fenced := q.fenced || fenced }).queueRecord ctx
    (faultRecord fi.code.val kind flags t.val k.val (olog.getD 0xFF) fi.pc.toNat fi.rpc.toNat addr.toNat sl.cls.bits sl.job
      aux.toNat ctx (s.tenantOf ctx)) ((s.tile t).taskAccesses k sl.epoch)

/-- Take a precise trap at the next word of a slot (R67, R342): `len` is the word's length, `fall` marks a fall-through fault of R30. -/
def State.trapSlot (s : State) (t : TileId) (k : SlotId) (code : FaultCode) (addr aux : Word) (len : Nat) (fall : Bool) : State :=
  let sl := s.slot t k
  s.stopSlot t k 0
    { code, pc := sl.pc, rpc := if sl.cls.isOpen then sl.cls.hdr else if code = .brk then sl.pc + 4 else sl.pc, late := false, inClause := sl.cls.isOpen, len,
      access := none, fallThrough := fall } addr aux none false

/-- Take a precise trap at the word in focus. In system mode no task stops. -/
def State.takeTrap (s : State) (code : FaultCode) (addr aux : Word) (len : Nat) (fall : Bool) : State :=
  if s.sysMode then s else s.trapSlot s.focus.tile s.focus.slot code addr aux len fall

/-- Change a channel of a loaded graph slot of the context that holds a tile. -/
def State.modChan (s : State) (ctx : Nat) (g : Fin 4) (j : Nat) (f : Chan → Chan) : State :=
  s.modCtx ctx fun c => { c with gslots := c.gslots.set g (c.gslots[g].map fun G => { G with chans := G.chans.modify j f }) }

/-- A slot takes its place in the line for an address-generator node (R238). -/
def Tile.joinLine (T : Tile) (n : Fin 4) (k : SlotId) : Tile :=
  let e := (T.slot k).epoch
  if T.ag[n].line.any (fun (j, d, _) => j == k && d == e) then T
  else { T with ag := T.ag.set n { T.ag[n] with line := T.ag[n].line.filter (fun (j, _, _) => j != k) ++ [(k, e, T.nextCmd)] }, nextCmd := T.nextCmd + 1 }

/-- Block the slot in focus (R68); it holds its word and changes no register. The happening that lets it go on is owed. -/
def State.blockSlot (s : State) (w : Wait) : State :=
  if s.sysMode then s
  else
    let f : Focus := { tile := s.focus.tile, slot := s.focus.slot }
    let s := s.modCur fun k => { k with status := .blocked, wait := w, since := s.clk }
    match w with
    | .version .. => s.postOnce .ldvComplete f
    | .fence .. => s.postOnce .fenceComplete f
    | .scheduler => s
    | .fullPort => s.postOnce .portAccept f
    | .drain g j d => (s.modChan s.ctxNum ⟨g % 4, Nat.mod_lt _ (by decide)⟩ j fun ch => { ch with newDepth := some d }).postOnce .slotUnblock f
    | .agNode n => (s.modTile f.tile fun T => T.joinLine n f.slot).postOnce .slotUnblock f
    | _ => s.postOnce .slotUnblock f

/-- Stop a word: trap or block. -/
def State.stop (s : State) (len : Nat) : Stop → State
  | .trap c a x => s.takeTrap c a x len false
  | .block w => s.blockSlot w

/-! ## Words -/

/-- Move past a word of `len` bytes (R30); a turn of 64 words ends (R70). -/
def State.advance (s : State) (len : Nat) : State :=
  if s.sysMode then s.modCore fun c => { c with pc := c.pc + BitVec.ofNat 64 len }
  else s.modTile s.focus.tile fun T =>
    { T.modSlot s.focus.slot (fun k =>
        { k with
          pc := k.pc + BitVec.ofNat 16 len
          run := if 64 ≤ k.run + len / 4 then 0 else k.run + len / 4
          status := if 64 ≤ k.run + len / 4 ∧ k.status = .running then .ready else k.status }) with
      lastIssued := s.focus.slot.val }

/-- Whether falling through a word of `len` bytes leaves the instruction store (R30). -/
def State.fallsOut (s : State) (len : Nat) : Bool := !s.sysMode && decide (0xFFFC < s.cur.pc.toNat + len)

/-- Whether a `nop` at the present pc is padding of the open clause (R55): it stands between the header and the next 16-byte
boundary. -/
def Slot.inPadding (k : Slot) : Bool :=
  decide (k.cls.hdr.toNat < k.pc.toNat) && decide (k.pc.toNat < (k.cls.hdr.toNat + 4 + 15) / 16 * 16)

/-- Whether a scalar word may not stand here: a clause is open, and the word is neither its padding nor its own header (R55, R58). -/
def State.clauseBars (s : State) (padding header : Bool) : Bool :=
  !s.sysMode && s.cur.cls.isOpen && !(padding && s.cur.inPadding) && !(header && s.cur.pc == s.cur.cls.hdr)

/-- Registers an earlier word of the task has still to write (R72). -/
def State.pendingRegs (s : State) (rs : List XReg) (ps : List PReg) : Option Stop :=
  if s.sysMode then none
  else
    let xs := (rs.map BitVec.toNat).filter fun r => r != 0 && s.cur.pendX.contains r
    let qs := (ps.map BitVec.toNat).filter fun r => r != 0 && s.cur.pendP.contains r
    if xs.isEmpty && qs.isEmpty then none else some (.block (.pendingReg xs qs))

/-- The result of a word's body: the new state, moved past the word; or the stop. -/
def finishWord (s : State) (len : Nat) : Except Stop State → Out
  | .ok t => .next (t.advance len)
  | .error e => .next (s.stop len e)

/-- A scalar word that does not transfer (R30, R35, R55, R69, R72): the clause rule, the fall-through check, the guard, the
interlock on the registers it names, then what it does. -/
def runGuarded (g : PReg) (xs : List XReg) (ps : List PReg) (act : State → Out) (s : State) : Out :=
  if s.clauseBars false false then .next (s.takeTrap .illegalOp 0 0 4 false)
  else if s.fallsOut 4 then .next (s.takeTrap .protect (w64 (s.cur.pc.toNat + 4)) 0 4 true)
  else
    match s.pendingRegs [] [g] with
    | some e => .next (s.stop 4 e)
    | none =>
      if s.getP g then
        match s.pendingRegs xs ps with
        | some e => .next (s.stop 4 e)
        | none => act s
      else .next (s.advance 4)

/-- A scalar word with a body, moved past once the body has its effect.
Assumption 12 (DESIGN CHOICE). -/
def runWord (g : PReg) (xs : List XReg) (ps : List PReg) (body : State → Except Stop State) (s : State) : Out :=
  runGuarded g xs ps (fun s => finishWord s 4 (body s)) s

/-- A scalar word whose result is a new x register value (R74): every source is read before rd is written. -/
def runX (g : PReg) (d : XReg) (srcs : List XReg) (f : State → Word) (s : State) : Out :=
  runWord g (d :: srcs) [] (fun s => .ok (s.setX d (f s))) s

/-! ## The instruction store and transfers -/

/-- The bytes at a pc. -/
def Tile.fetch (T : Tile) (pc : BitVec 16) (n : Nat) : List Byte := Memory.read T.istore pc.toNat n
/-- The 16-byte unit k of the store. -/
def Tile.unit (T : Tile) (k : Nat) : Cmd128 := unitAt (Memory.read T.istore (16 * k) 16) 0
/-- Whether unit k is the follow-on of a `cpym` in the unit before it (R31, R233). -/
def Tile.isFollow (T : Tile) : Nat → Bool
  | 0 => false
  | k + 1 => (T.unit k).extractLsb' 122 6 == 0x3F#6 && isCpym (T.unit k) && !T.isFollow k
/-- Whether a word is a command's tail word, or lies in a follow-on (R31). -/
def Tile.isTail (T : Tile) (a : Nat) : Bool :=
  T.isFollow (a / 16) || (a % 16 != 0 && (T.unit (a / 16)).extractLsb' 122 6 == 0x3F#6)

/-- The checks of a transfer's target (R30, R31), the target taken as a signed value. -/
def State.checkTarget (s : State) (t : Int) : Except Stop (BitVec 16) :=
  if t < 0 ∨ 0xFFFC < t then .error (.trap .protect (BitVec.ofInt 64 t) 0)
  else if s.here.isTail t.toNat then .error (.trap .illegalOp (BitVec.ofInt 64 t) 0)
  else .ok (BitVec.ofInt 16 t)

/-- Set the pc in focus and end the word. -/
def State.jump (s : State) (pc : BitVec 16) : State := (s.advance 4).modCur fun k => { k with pc := pc }

/-- The management core goes on at an address of its firmware (R337).
Assumption 12 (DESIGN CHOICE). -/
def State.sysJump (s : State) (pc : Word) : State := s.modCore fun c => { c with pc }

/-- The end of a transfer word: a target to check and jump to, or none to fall through (R84). -/
def finishTransfer (s : State) (t : State) : Option Int → Out
  | none =>
    if s.fallsOut 4 then .next (s.takeTrap .protect (w64 (s.cur.pc.toNat + 4)) 0 4 true) else .next (t.advance 4)
  | some a =>
    match s.checkTarget a with
    | .ok pc => .next (t.jump pc)
    | .error e => .next (s.stop 4 e)

/-- A branch (R84, R85): it carries no guard. `taken` and the registers it reads are the instruction's. -/
def runBranch (xs : List XReg) (ps : List PReg) (taken : State → Bool) (off : Int) (s : State) : Out :=
  if s.sysMode then .next (s.sysJump (if taken s then s.core.pc + BitVec.ofInt 64 (4 * off) else s.core.pc + 4))
  else if s.clauseBars false false then .next (s.takeTrap .illegalOp 0 0 4 false)
  else
    match s.pendingRegs xs ps with
    | some e => .next (s.stop 4 e)
    | none => finishTransfer s s (if taken s then some (s.cur.pc.toNat + 4 * off) else none)

/-! ## Launches and beds (R314) -/

/-- Origin tile, width and height of a bed word: [9:0] origin, [12:10] log2 width, [15:13] log2 height. -/
def bedOrigin (b : BitVec 16) : Nat := (b.extractLsb' 0 10).toNat
def bedWidth (b : BitVec 16) : Nat := 2 ^ (b.extractLsb' 10 3).toNat
def bedHeight (b : BitVec 16) : Nat := 2 ^ (b.extractLsb' 13 3).toNat
/-- Whether a tile lies in a bed. -/
def inBed (b : BitVec 16) (t : Nat) : Bool :=
  let c0 := bedOrigin b % 64
  let r0 := bedOrigin b / 64
  decide (c0 ≤ t % 64) && decide (t % 64 < c0 + bedWidth b) && decide (r0 ≤ t / 64) && decide (t / 64 < r0 + bedHeight b)
/-- The tiles of a bed in ascending tile number. -/
def bedTiles (b : BitVec 16) : List TileId := (List.finRange 1024).filter fun t => inBed b t.val

/-- Two beds share a tile. -/
def bedsMeet (a b : BitVec 16) : Bool := (bedTiles a).any fun t => inBed b t.val

/-- A region of a context; one that no command has named is empty (R280). -/
def Context.region (c : Context) (r : BitVec 16) : GraphRegion := (c.regions.find? (·.bed == r)).getD { bed := r }
/-- Keep a region. -/
def Context.setRegion (c : Context) (e : GraphRegion) : Context := { c with regions := c.regions.filter (·.bed != e.bed) ++ [e] }
/-- The region with shadow words that a tile lies in. -/
def Context.regionAt (c : Context) (t : TileId) : Option GraphRegion := c.regions.find? fun e => e.shadow != .empty && inBed e.bed t.val
/-- Whether a region is being loaded, or rotated. -/
def Context.loading (c : Context) : Bool := c.regions.any (·.shadow == .loading)
def Context.rotating (c : Context) : Bool := c.regions.any (·.rotating)

/-- Whether a tile belongs to a context's launch. -/
def Context.holds (c : Context) (t : Nat) : Bool := match c.launch with | some (b, _) => inBed b t | none => false

/-- The home die of a context: the die that holds the origin of its launch (R312), which its number names (R337).
Assumption 148 (DEDUCED). -/
def Context.home (c : Context) : DieId :=
  match c.launch with
  | some (b, _) => dieOf ⟨bedOrigin b % 1024, by omega⟩
  | none => ⟨c.num / 128 % 8, by omega⟩
/-- The home die of a context by its number. -/
def State.homeDie (s : State) (n : Nat) : DieId := match s.ctx? n with | some c => c.home | none => ⟨n / 128 % 8, by omega⟩

/-! ## Addresses and translation (R174 to R180) -/

/-- What an access asks of a page (R179). -/
structure Acc where
  read : Bool := false
  write : Bool := false
  engine : Bool := false
  versioned : Bool := false
  /-- `cfl`, `cinv`: translation only (R197) -/
  noPerm : Bool := false
  /-- a copy's, which alone may name a peer window (R379) -/
  copy : Bool := false
  deriving DecidableEq, Repr

/-- A bit of a page-table entry. -/
def eBit (e : BitVec 64) (n : Nat) : Bool := e.getLsbD n

/-- The entry's index at a level (R177). -/
def tableIndex (va : Nat) : Nat → Nat
  | 3 => va / 2 ^ 43 % 512
  | 2 => va / 2 ^ 30 % 8192
  | 1 => va / 2 ^ 21 % 512
  | _ => va / 2 ^ 16 % 32

/-- Whether a valid entry is well formed at its level (R178, R179). -/
def entryOk (level : Nat) (e : BitVec 64) : Bool :=
  let scope := (e.extractLsb' 6 4).toNat
  e.extractLsb' 52 12 == 0 && e.extractLsb' 12 4 == 0 &&
  (if eBit e 5 then decide (2 ≤ scope ∧ scope ≤ 8) && !eBit e 10 else scope == 0) &&
  (if eBit e 1 then level != 0
   else level != 3 && (level != 1 || e.extractLsb' 16 5 == 0) && (level != 2 || e.extractLsb' 16 14 == 0))

/-- The walk from a table at `base` (R177): the leaf and its level. -/
def pageWalk (mem : List Host.Cell) (va : Nat) : Nat → Nat → Option (BitVec 64 × Nat)
  | level, base =>
    let e : BitVec 64 := w64 (leNat (Memory.read mem (base + 8 * tableIndex va level) 8))
    if !eBit e 0 || !entryOk level e then none
    else
      match level with
      | 0 => some (e, 0)
      | l + 1 => if eBit e 1 then pageWalk mem va l ((e.extractLsb' 16 36).toNat * 65536) else some (e, l + 1)
termination_by structural level => level

/-- The output address of a leaf (R178). -/
def leafOut (e : BitVec 64) (level va : Nat) : Nat :=
  let size := if level = 2 then 2 ^ 30 else if level = 1 then 2 ^ 21 else 2 ^ 16
  (e.extractLsb' 16 36).toNat * 65536 / size * size + va % size

/-- A cached translation. -/
def findTlb (l : List Tlb) (ctx page : Nat) : Option Tlb := l.find? fun e => e.ctx == ctx && e.page == page

/-- Whether the tile's micro-TLB answers for an address (R180). -/
def State.utlbHit (s : State) (ctx : Nat) (t : TileId) (va : Nat) : Bool := (findTlb (s.tile t).utlb ctx (va / 65536)).isSome

/-- The leaf for an address: from a first TLB, the TLB of a die, or a walk (R180, R249). -/
def State.leafVia (s : State) (near : List Tlb) (d : DieId) (ctx va : Nat) : Option (BitVec 64 × Nat) :=
  match findTlb near ctx (va / 65536) with
  | some e => some (e.leaf, e.level)
  | none =>
    match findTlb s.dies[d].dtlb ctx (va / 65536) with
    | some e => some (e.leaf, e.level)
    | none =>
      match s.ctx? ctx with
      | some c => pageWalk s.mem va 3 c.root
      | none => none

/-- The leaf for an address of a tile. -/
def State.leafOf (s : State) (ctx : Nat) (t : TileId) (va : Nat) : Option (BitVec 64 × Nat) :=
  s.leafVia (s.tile t).utlb (dieOf t) ctx va

/-- The permission checks of a leaf, in R179's order after the walk. -/
def leafPerm (e : BitVec 64) (a : Acc) : Bool :=
  a.noPerm || ((!a.read || eBit e 2) && (!a.write || eBit e 3) && (!a.engine || eBit e 4) &&
    (if eBit e 5 then a.versioned || !a.write else !a.versioned))

/-- Whether a device address lies in an open peer window (R21, R379). -/
def State.peerOpen (s : State) (a : Nat) : Bool :=
  s.isMS && s.peers.any fun w => decide (w.base ≤ a ∧ a < w.base + 2 ^ 36)

/-- The open window of a device address, and the peer's address there (R379). -/
def State.peerWin (s : State) (a : Nat) : Option PeerWin := s.peers.find? fun w => decide (w.base ≤ a ∧ a < w.base + 2 ^ 36)
def State.peerAddr (s : State) (a : Nat) : Nat := match s.peerWin a with | some w => w.peer + (a - w.base) | none => a

/-- Where a leaf leads (R179, last row). -/
def State.leafLoc (s : State) (e : BitVec 64) (level va : Nat) : Except FaultCode Loc :=
  let out := leafOut e level va
  if eBit e 10 then
    match Config.atsAnswer out s.draws with
    | some a => .ok (.host a)
    | none => .error .xlate
  else if out < Config.hbmBytes then .ok (.dev out (eBit e 5) (e.extractLsb' 6 4).toNat)
  else if s.peerOpen out then .ok (.peer out)
  else .error .xlate

/-- The range checks of R174 for a tile's access, and the translation of R179 where the range is translated. `cfl` and `cinv`, which check no
permission, pass over scratchpad (R197). Only a copy reaches a peer window (R379). -/
def State.locate (s : State) (ctx : Nat) (t : TileId) (va : Nat) (a : Acc) : Except FaultCode Loc :=
  if Config.vaEnd ≤ va then .error .xlate
  else if Config.ownSpBase ≤ va then
    let off := va - Config.ownSpBase
    if a.noPerm = false ∧ Config.spShare (s.tile t).split ≤ off then .error .protect
    else if a.versioned then .error .protect else .ok (.sp t off)
  else if Config.apertureEnd ≤ va then .error .xlate
  else if Config.apertureBase ≤ va then .ok (.aper (va - Config.apertureBase))
  else if Config.spEnd ≤ va then .error .xlate
  else if h : Config.spBase ≤ va ∧ va < Config.spEnd then
    let n : TileId := ⟨(va - Config.spBase) / Config.spStride, by
      simp only [Config.spBase, Config.spEnd, Config.spStride] at h ⊢; omega⟩
    let off := (va - Config.spBase) % Config.spStride
    if a.noPerm = false ∧ Config.spShare (s.tile n).split ≤ off then .error .protect
    else if a.noPerm = false ∧ (s.tile n).owner ≠ some ctx then .error .protect
    else if a.versioned then .error .protect
    else .ok (.sp n off)
  else
    match s.leafOf ctx t va with
    | none => .error .xlate
    | some (e, level) =>
      if !leafPerm e a then .error .protect
      else
        match s.leafLoc e level va with
        | .ok (.peer out) => if a.copy then .ok (.peer out) else .error .protect
        | r => r

/-- Whether an address is translated by the page tables (R174). -/
def translated (va : Nat) : Bool := decide (va < Config.spBase)

/-- Cut a range at 64 KiB boundaries. -/
def spans (va : Nat) : Nat → Nat → List (Nat × Nat)
  | 0, _ => []
  | fuel + 1, len =>
    if len = 0 then []
    else
      let n := min len (65536 - va % 65536)
      (va, n) :: spans (va + n) fuel (len - n)

/-- The pages of a range. -/
def pagesOf (va len : Nat) : List (Nat × Nat) := spans va (len / 65536 + 2) len

/-- Locate every page of a range: the locations with their lengths, or the fault with its address (R179). -/
def State.locateRange (s : State) (ctx : Nat) (t : TileId) (va len : Nat) (a : Acc) : Except (FaultCode × Nat) (List (Loc × Nat)) :=
  (pagesOf va len).mapM fun (v, n) =>
    match s.locate ctx t v a with
    | .ok l => .ok (l, n)
    | .error c => .error (c, v)

/-! ## Versioned words (R185) -/

/-- The word at a versioned physical address: until it is written it holds version 0 with memory's data. -/
def State.vword (s : State) (pa : Nat) : VWord :=
  (assocGet s.vwords pa).getD { versions := [(0, w64 (leNat (Memory.read s.mem pa 8)))] }
/-- Replace a versioned word. -/
def State.setVword (s : State) (pa : Nat) (w : VWord) : State := { s with vwords := assocSet s.vwords pa w }
/-- The newest version: the one with the highest number held. -/
def VWord.newest (w : VWord) : Nat × Word := w.versions.getLast?.getD (0, 0)

/-! ## Reading and writing located bytes -/

/-- One byte of a location. -/
def State.readByte (s : State) (l : Loc) (i : Nat) : Byte :=
  match l with
  | .dev pa true _ =>
    let a := pa + i
    let v := (s.vword (a / 8 * 8)).newest.2
    v.extractLsb' (8 * (a % 8)) 8
  | .dev pa false _ => Memory.get s.mem (pa + i)
  | .host a => Config.hostByte (a + i) s.draws
  | .peer a => Config.hostByte (s.peerAddr (a + i)) s.draws
  | .sp t off => Memory.get (s.tile t).sp (off + i)
  | .aper _ => 0

/-- The bytes of a located range. -/
def State.readLocs (s : State) (ls : List (Loc × Nat)) : List Byte :=
  ls.flatMap fun (l, n) => (List.range n).map (s.readByte l)

/-- Write bytes at a location. -/
def State.writeLoc (s : State) (l : Loc) (bs : List Byte) : State :=
  match l with
  | .dev pa _ _ => { s with mem := Memory.write s.mem pa bs }
  | .host a => { s with hostOut := (bs.zipIdx.map fun (b, i) => (a + i, b)).reverse ++ s.hostOut }
  | .peer a => { s with peerOut := (bs.zipIdx.map fun (b, i) => (s.peerAddr (a + i), b)).reverse ++ s.peerOut }
  | .sp t off => s.modTile t fun T => { T with sp := Memory.write T.sp off bs }
  | .aper _ => s

/-- Write bytes over a located range. -/
def State.writeLocs (s : State) : List (Loc × Nat) → List Byte → State
  | [], _ => s
  | (l, n) :: ls, bs => (s.writeLoc l (bs.take n)).writeLocs ls (bs.drop n)

/-! ## The L1 share of a tile (R17, R175, R197) -/

/-- The numbers of the 64-byte lines of a physical range. -/
def linesOf (a n : Nat) : List Nat := (List.range ((a + n + 63) / 64 - a / 64)).map (· + a / 64)
/-- The lines of plain device memory that a located range touches. -/
def plainLines (ls : List (Loc × Nat)) : List Nat := ls.flatMap fun (l, n) => match l with | .dev pa false _ => linesOf pa n | _ => []
/-- The lines of a range of a context's addresses that L1 may hold: those of plain device memory in cacheable pages (R175, R178). -/
def State.l1Lines (s : State) (ctx : Nat) (t : TileId) (pages : List (Nat × Nat)) (ls : List (Loc × Nat)) : List Nat :=
  (pages.zip ls).flatMap fun ((va, _), l) =>
    if (match s.leafOf ctx t va with | some (e, _) => !eBit e 11 | none => false) then plainLines [l] else []

/-- Bring lines into L1 as memory holds them; where the share is full the oldest lines give way.
Assumption 133 (DESIGN CHOICE). -/
def State.fillL1 (s : State) (t : TileId) (lines : List Nat) : State :=
  s.modTile t fun T => { T with
    l1 := lines.foldl (fun l n =>
      if l.any (·.line == n) then l
      else (if Config.l1Share T.split ≤ 64 * l.length then l.drop 1 else l) ++ [{ line := n, data := Memory.read s.mem (64 * n) 64 }]) T.l1 }
/-- Lines leave L1. -/
def State.dropL1 (s : State) (t : TileId) (lines : List Nat) : State :=
  s.modTile t fun T => { T with l1 := T.l1.filter fun x => !lines.contains x.line }
/-- Every line leaves L1: what an acquire does, so that no later load reads an older value than the acquire saw (R175, R202). -/
def State.acquireL1 (s : State) (t : TileId) : State := s.modTile t fun T => { T with l1 := [] }
/-- A byte that L1 holds. -/
def Tile.l1Byte (T : Tile) (a : Nat) : Option Byte := (T.l1.find? (·.line == a / 64)).bind fun x => x.data[a % 64]?
/-- Put a byte into the line that holds it, where L1 holds that line. -/
def Tile.putL1 (T : Tile) (a : Nat) (b : Byte) : Tile :=
  { T with l1 := T.l1.map fun x => if x.line = a / 64 then { x with data := x.data.set (a % 64) b } else x }

/-- The 4-byte presence words a scratchpad range touches (R196). -/
def presenceWords (off len : Nat) : List Nat := (List.range ((off + len + 3) / 4 - off / 4)).map (· + off / 4)
/-- Set presence bits; the list stays sorted without repeats. -/
def setPresent (l : List Nat) (ws : List Nat) : List Nat :=
  ws.foldl (fun l w => if l.contains w then l else (l.filter (· < w)) ++ [w] ++ (l.filter (w < ·))) l

/-! ## Virtual channels (R264, R265, R267) -/

/-- Fields of a channel descriptor (R273). -/
def chanSrct (d : BitVec 64) : Nat := (d.extractLsb' 54 10).toNat
def chanPort (d : BitVec 64) : Nat := (d.extractLsb' 50 4).toNat
def chanDstt (d : BitVec 64) : TileId := ⟨(d.extractLsb' 40 10).toNat, (d.extractLsb' 40 10).isLt⟩
def chanVc (d : BitVec 64) : SlotId := ⟨(d.extractLsb' 36 4).toNat, (d.extractLsb' 36 4).isLt⟩
def chanLanding (d : BitVec 64) : Nat := (d.extractLsb' 34 2).toNat
def chanBase (d : BitVec 64) : Nat := 64 * (d.extractLsb' 0 15).toNat

/-- The channel of a graph slot that ends at a VC: slot, index and channel. -/
def Context.chanAt (c : Context) (t : TileId) (vc : SlotId) (g : Fin 4) : Option (Fin 4 × Nat × Chan) :=
  match c.gslots[g] with
  | none => none
  | some G => (G.chans.zipIdx.find? fun (ch, _) => chanDstt ch.desc == t && chanVc ch.desc == vc).map fun (ch, j) => (g, j, ch)

/-- The channel that a VC serves: that of the slot whose flits stand there; else that of the live slot, or of the lowest loaded one (R274). -/
def State.vcChan (s : State) (t : TileId) (vc : SlotId) : Option (Fin 4 × Nat × Chan) :=
  match s.tileCtx t with
  | none => none
  | some c =>
    match (s.tile t).vcSlot[vc] with
    | some g => c.chanAt t vc g
    | none =>
      ((List.finRange 4).filter (fun g => c.liveSlot == some g.val) ++ List.finRange 4).findSome? (c.chanAt t vc)

/-- The depth of a VC: its channel's, or 2 where no loaded descriptor names it (R264). -/
def State.vcDepth (s : State) (t : TileId) (vc : SlotId) : Nat :=
  match s.vcChan t vc with
  | some (_, _, ch) => ch.depth
  | none => 2

/-- A VC of a tile. -/
def State.vchan (s : State) (t : TileId) (vc : SlotId) : VChan := (s.tile t).vcs[vc]
/-- Change a VC. -/
def State.modVc (s : State) (t : TileId) (vc : SlotId) (f : VChan → VChan) : State :=
  s.modTile t fun T => { T with vcs := T.vcs.set vc (f T.vcs[vc]) }

/-- Flits that take slots of a VC's channel: those in its queue, and those its graft node holds (R265, R275). -/
def State.vcUsed (s : State) (t : TileId) (vc : SlotId) : Nat :=
  (s.vchan t vc).q.length + (match s.vcChan t vc with | some (_, _, ch) => ch.graftQ.length | none => 0)
/-- Whether the channel of a VC holds a free slot and no flit waits for one (R265). -/
def State.vcFree (s : State) (t : TileId) (vc : SlotId) : Bool :=
  (s.vchan t vc).waiting.isEmpty && decide (s.vcUsed t vc < s.vcDepth t vc)

/-- The tile whose switch box a channel leaves; none for a copy channel, which no tile's box sends. -/
def chanBox (d : BitVec 64) : Option TileId := if chanPort d = 8 then none else some ⟨chanSrct d % 1024, Nat.mod_lt _ (by decide)⟩
/-- The multicast group of a channel. -/
def chanGroup (d : BitVec 64) : Nat := (d.extractLsb' 15 4).toNat

/-- Whether two channels of a graph leave one producer as one replication (R276). -/
def sameSource (a b : BitVec 64) : Bool := chanGroup a != 0 && chanGroup a == chanGroup b && chanPort a == chanPort b && chanSrct a == chanSrct b
/-- The branches of the replication a live channel belongs to, with the box they leave (R276): the channels of one producer and one group,
in the table's order. Boundary 6 replicates by itself. -/
def State.vcGroup (s : State) (t : TileId) (vc : SlotId) : List (Nat × Option TileId × TileId × SlotId) :=
  match s.tileCtx t, s.vcChan t vc with
  | some c, some (g, _, ch) =>
    if chanGroup ch.desc = 0 ∨ chanPort ch.desc = 0 ∨ c.liveSlot ≠ some g.val then []
    else
      let chans := match c.gslots[g] with | some G => G.chans | none => []
      ((chans.filter fun q => sameSource q.desc ch.desc).zipIdx).map
        fun (q, i) => (i, chanBox q.desc, chanDstt q.desc, chanVc q.desc)
  | _, _ => []

/-- Whether a producer may send a flit to a VC now; the point of a replication holds one flit until every branch has accepted it (R236). -/
def State.vcRoom (s : State) (t : TileId) (vc : SlotId) : Bool :=
  match s.vcGroup t vc with
  | [] => s.vcFree t vc
  | l => l.all fun (_, _, u, v) => (s.vchan u v).waiting.isEmpty

/-- Happenings of the slots bound to a VC that may start. -/
def State.offerStart (s : State) (t : TileId) (vc : SlotId) : State :=
  (List.finRange 16).foldl (fun s k =>
    if (s.slot t k).status != .free && (s.slot t k).vc == vc then s.postOnce .taskStart { tile := t, slot := k } else s) s

/-- Whether a flit's kind is assigned and a control flit's unused bits are 0 (R267). -/
def Flit.ok (f : Flit) : Bool :=
  match f.kind.toNat with
  | 0 | 6 => true
  | 1 => f.data.toNat / 2 ^ 48 == 0
  | 2 => f.data.toNat / 2 ^ 48 % 65536 == 0 && f.data.toNat / 2 ^ 96 == 0
  | 3 => f.data.toNat / 4 == 0
  | 4 => f.data.toNat / 65536 == 0
  | 5 => f.data.toNat / 65536 % 65536 == 0 && f.data.toNat / 2 ^ 64 == 0
  | _ => false

/-- Change a demand port, which begins with nothing held. -/
def Context.modPort (c : Context) (p : PortId) (f : DPort → DPort) : Context :=
  if c.ports.any (·.port == p) then { c with ports := c.ports.map fun q => if q.port = p then f q else q }
  else { c with ports := c.ports ++ [f { port := p }] }
def State.modPort (s : State) (ctx : Nat) (p : PortId) (f : DPort → DPort) : State := s.modCtx ctx (·.modPort p f)

/-- An SOT or EOT reaches the sink of a channel, which accounts for it (R305). -/
def State.sinkLanded (s : State) (t : TileId) (vc : SlotId) (f : Flit) : State :=
  match (s.tile t).owner, s.vcChan t vc with
  | some ctx, some (g, j, _) =>
    if f.kind = 1 ∨ f.kind = 2 then
      (s.modPort ctx (.sink ctx g j) fun p => { p with landed := p.landed ++ [f] }).post .sinkEotAccept { ctx, port := .sink ctx g j }
    else s
  | _, _ => s

/-- A 32-bit counter that stops at 0xFFFF_FFFF. -/
def satAdd32 (c : BitVec 32) (n : Nat) : BitVec 32 := BitVec.ofNat 32 (min (c.toNat + n) 0xFFFFFFFF)

/-- Add to counters, each of which stops at 0xFFFF_FFFF. -/
def addCounts (v : Vector (BitVec 32) 16) (n : Fin 16 → Nat) : Vector (BitVec 32) 16 := Vector.ofFn fun i : Fin 16 => satAdd32 v[i] (n i)

/-- Whether the tile's elements and adder node report (R286): the live graph's statistics word says so. -/
def Tile.reports (T : Tile) : Bool := match T.stream with | some { use := .graph _, img, .. } => img.stat.getLsbD 31 | _ => false

/-- An EOT lands on a channel: the COUNT flit of its landing goes to the tile's adder node, where the tile reports (R286). -/
def State.sendDrops (s : State) (t : TileId) (vc : SlotId) : State :=
  match (s.tile t).owner, s.vcChan t vc with
  | some ctx, some (g, j, ch) =>
    if ch.drops = 0 then s
    else
      (s.modChan ctx g j fun ch => { ch with drops := 0 }).modTile t fun T => { T with
        statSum := if T.reports then T.statSum.set 15 (satAdd32 T.statSum[15] ch.drops.toNat) else T.statSum }
  | _, _ => s

/-- A flit reaches a VC that has room: a malformed one is dropped and counted (R267); its sink accounts for it; an EOT a finished command
is still owed is consumed; a data flit may wake the task bound there; a stream buffer lands it. -/
def State.landFlit (s : State) (t : TileId) (vc : SlotId) (f : Flit) : State :=
  if !f.ok then
    match (s.tile t).owner, s.vcChan t vc with
    | some ctx, some (g, j, _) => s.modChan ctx g j fun ch => { ch with drops := satAdd32 ch.drops 1 }
    | _, _ => s
  else
    let s := s.sinkLanded t vc f
    let s := if f.kind = 2 then s.sendDrops t vc else s
    match (s.vchan t vc).eat with
    | some any =>
      let s := s.modVc t vc fun c => { c with eat := none }
      if f.kind = 2 ∧ (any || f.tileEnd) then s else put s
    | none => put s
where
  put (s : State) : State :=
    let s := s.modVc t vc fun c => { c with q := c.q ++ [f] }
    let s := if f.kind = 0 then s.offerStart t vc else s
    match s.vcChan t vc with
    | some (_, _, ch) => if chanLanding ch.desc = 1 then s.postOnce .streamBufferLanding { tile := t, unit := vc.val } else s
    | none => s

/-! ## Branches of a switch box (R236, R237) -/

/-- Flits a branch of a tile's switch box has accepted and its consumer has not yet taken (R237).
Assumption 52 (DEDUCED). -/
def State.branchWin (s : State) (t : TileId) (k : Fin 4) : Nat :=
  match (s.tile t).branches[k] with
  | none => 0
  | some (u, vc) => (((s.vchan u vc).q ++ (match s.vcChan u vc with | some (_, _, ch) => ch.graftQ | none => [])).filter fun f => f.branch == some (t, k)).length
/-- Clk a branch has been unable to accept the flit that the point holds now. -/
def State.branchHeld (s : State) (t : TileId) (k : Fin 4) : Nat := match (s.tile t).holds[k] with | some c => s.clk - c | none => 0
/-- The register `mcb` of a branch (R237): stall in [31:0], win in [39:32], the greatest win in [47:40]. -/
def State.mcbWord (s : State) (t : TileId) (k : Fin 4) : Word :=
  let w := (s.tile t).mcb[k].toNat
  w64 (w / 2 ^ 40 * 2 ^ 40 + min 255 (s.branchWin t k) * 2 ^ 32 + min 0xFFFFFFFF (w % 2 ^ 32 + s.branchHeld t k))
/-- A branch leads to a VC. -/
def State.leadBranch (s : State) (t : TileId) (k : Fin 4) (u : TileId) (vc : SlotId) : State :=
  s.modTile t fun T => { T with branches := T.branches.set k (some (u, vc)) }
/-- A branch cannot accept the flit that the point holds. -/
def State.holdBranch (s : State) (t : TileId) (k : Fin 4) : State :=
  s.modTile t fun T => { T with holds := T.holds.set k (some (T.holds[k].getD s.clk)) }
/-- A branch has accepted a flit. -/
def State.acceptBranch (s : State) (t : TileId) (k : Fin 4) : State :=
  let w := (s.tile t).mcb[k].toNat
  let hwin := max (w / 2 ^ 40) (min 255 (s.branchWin t k))
  let stall := min 0xFFFFFFFF (w % 2 ^ 32 + s.branchHeld t k)
  s.modTile t fun T => { T with mcb := T.mcb.set k (w64 (hwin * 2 ^ 40 + stall)), holds := T.holds.set k none }

/-- A flit enters the channel of a VC: a graft node holds it until the writes before it have performed (R275), any other lets it land. -/
def State.admitFlit (s : State) (t : TileId) (vc : SlotId) (f : Flit) : State :=
  match (s.tile t).owner, s.vcChan t vc with
  | some ctx, some (g, j, ch) =>
    if ch.desc.getLsbD 19 then
      (s.modChan ctx g j fun ch => { ch with graftQ := ch.graftQ ++ [f] }).postOnce .graftForward { ctx, unit := g.val, id := j }
    else s.landFlit t vc f
  | _, _ => s.landFlit t vc f
/-- The same, and the branch that brought it has accepted it (R237). -/
def State.takeFlit (s : State) (t : TileId) (vc : SlotId) (f : Flit) : State :=
  let s := s.admitFlit t vc f
  match f.branch with | some (u, k) => s.acceptBranch u k | none => s

/-- A channel that holds no flit and whose producer's segment has ended (R282). -/
def State.chanIdle (s : State) (ch : Chan) : Bool :=
  let v := s.vchan (chanDstt ch.desc) (chanVc ch.desc)
  ch.ended && ch.graftQ.isEmpty && v.q.isEmpty && v.waiting.isEmpty
/-- A depth that waits for a drained channel applies before its producer's next SOT (R282). -/
def State.settleDepth (s : State) (ctx : Nat) (g : Fin 4) (j : Nat) (ch : Chan) : State :=
  match ch.newDepth with
  | some d => if s.chanIdle ch then s.modChan ctx g j fun ch => { ch with depth := d, newDepth := none } else s
  | none => s

/-- A flit leaves its producer: where the channel has no room it waits (R265). On a loaded channel the producer's segment is open until its
EOT (R282). -/
def State.sendOne (s : State) (t : TileId) (vc : SlotId) (f : Flit) : State :=
  let s := match (s.tile t).owner, s.vcChan t vc with
    | some ctx, some (g, j, ch) => (if f.kind = 1 then s.settleDepth ctx g j ch else s).modChan ctx g j fun ch => { ch with ended := f.kind == 2 }
    | _, _ => s
  if s.vcFree t vc then s.takeFlit t vc f
  else
    let s := (s.modVc t vc fun c => { c with waiting := c.waiting ++ [f] }).postOnce .flitSend { tile := t, unit := vc.val }
    match f.branch with | some (u, k) => s.holdBranch u k | none => s
/-- Offer a flit to one branch of a replication (R236, R276). -/
def State.sendOn (s : State) (o : Nat × Option TileId × TileId × SlotId) (f : Flit) : State :=
  let (i, box, u, v) := o
  match box with
  | some b => if h : i < 4 then (s.leadBranch b ⟨i, h⟩ u v).sendOne u v { f with branch := some (b, ⟨i, h⟩) } else s.sendOne u v f
  | none => s.sendOne u v f
/-- Send a flit to a VC; a replication offers it to every branch (R276). -/
def State.sendVc (s : State) (t : TileId) (vc : SlotId) (f : Flit) : State :=
  match s.vcGroup t vc with
  | [] => s.sendOne t vc f
  | l => l.foldl (fun s o => s.sendOn o f) s

/-- Send a 64-bit word to a VC: a data flit holding it in bits [63:0] (R267). -/
def State.sendWord (s : State) (t : TileId) (vc : SlotId) (w : Word) : State := s.sendVc t vc { kind := 0, data := w.setWidth 512 }

/-- Send a scheduler's trigger word, with the job it starts and its card. -/
def State.sendTrigger (s : State) (t : TileId) (vc : SlotId) (w : Word) (job : Nat) (card : Word) : State :=
  s.sendVc t vc { kind := 0, data := w.setWidth 512, job, card }

/-- Control flits. -/
def sotFlit (tick : Nat) : Flit := { kind := 1, data := BitVec.ofNat 512 (tick % 2 ^ 48) }
def eotFlit (tick count : Nat) : Flit := { kind := 2, data := BitVec.ofNat 512 (tick % 2 ^ 48 + count % 2 ^ 32 * 2 ^ 64) }
def blightFlit (code job : Nat) : Flit := { kind := 5, data := BitVec.ofNat 512 (code % 65536 + job % 2 ^ 32 * 2 ^ 32) }

/-! ## Tick intervals (R292, R297, R308) -/

/-- Join an interval to disjoint ones, absorbing those it overlaps or abuts; they stay in ascending order. -/
def joinTicks (l : List (Nat × Nat)) (a b : Nat) : List (Nat × Nat) :=
  let near := l.filter fun (c, d) => decide (c ≤ b + 1) && decide (a ≤ d + 1)
  let far := l.filter fun (c, d) => !(decide (c ≤ b + 1) && decide (a ≤ d + 1))
  let x := near.foldl (fun (a, b) (c, d) => (min a c, max b d)) (a, b)
  far.filter (fun (c, _) => decide (c < x.1)) ++ [x] ++ far.filter (fun (c, _) => decide (x.1 < c))
/-- The coalescer of R292: eight intervals at most. -/
def coalesce (l : List (Nat × Nat)) (a b : Nat) : Option (List (Nat × Nat)) :=
  let l' := joinTicks l a b
  if l'.length ≤ 8 then some l' else none
/-- Remove ticks. -/
def dropTicks (l : List (Nat × Nat)) (a b : Nat) : List (Nat × Nat) :=
  l.flatMap fun (c, d) =>
    if d < a ∨ b < c then [(c, d)]
    else (if c < a then [(c, a - 1)] else []) ++ (if b < d then [(b + 1, d)] else [])
/-- The ticks of a set that lie in an interval. -/
def meetTicks (l : List (Nat × Nat)) (a b : Nat) : List (Nat × Nat) :=
  l.filterMap fun (c, d) => if d < a ∨ b < c then none else some (max a c, min b d)
/-- Whether a set holds a tick. -/
def hasTick (l : List (Nat × Nat)) (m : Nat) : Bool := l.any fun (c, d) => decide (c ≤ m ∧ m ≤ d)
/-- Whether a set covers an interval; the sets are disjoint and do not abut. -/
def coversTicks (l : List (Nat × Nat)) (a b : Nat) : Bool := l.any fun (c, d) => decide (c ≤ a ∧ b ≤ d)

/-! ## Demand ports, and what a source's feeds receive (R290, R297, R304) -/

/-- A demand port of a context. -/
def Context.port (c : Context) (p : PortId) : DPort := (c.ports.find? (·.port == p)).getD { port := p }
/-- A demand port. -/
def State.port (s : State) (ctx : Nat) (p : PortId) : DPort := ((s.ctx? ctx).map (·.port p)).getD { port := p }
/-- The graph slot of a port. -/
def portSlot : PortId → Nat | .sink _ g _ | .oper _ g _ _ | .source _ g _ | .soft _ g _ _ _ => g

/-- The tick of the next data token of a segment without SOT: the first that the source has posted and not delivered, else the lowest that
a feed wants. -/
def DPort.dueTick (P : DPort) : Option Nat :=
  (P.owed.head?.map (·.1)).or ((P.feeds.flatMap fun q => q.want.map (·.1)).min?)
/-- The tick of a source's next data token, counted with a consumer's words per tick, and whether the token is its last (R297). -/
def DPort.tokTick (P : DPort) (w : Nat) : Option Nat × Bool :=
  ((match P.segAt with | some a => some (a + P.segIdx / w) | none => P.dueTick), (P.segIdx + 1) % w == 0)
/-- What a source's feed receives of a flit (R297): a data flit of a tick in its set, which leaves the set with its last; an SOT and an EOT
that bound the ticks it is sent, with its own count, or the segment's where it was sent all its tokens (R242); nothing of a segment that holds
none. A segment without SOT has only an EOT. -/
def DPort.pass (P : DPort) (q : Feed) (f : Flit) : Feed × List Flit :=
  match f.kind.toNat with
  | 0 =>
    match P.tokTick (max 1 q.w) with
    | (some u, last) =>
      if hasTick q.want u then
        ({ q with sent := q.sent + 1, upto := some u, want := if last then dropTicks q.want u u else q.want },
          (if P.segAt.isSome && q.upto.isNone then [sotFlit u] else []) ++ [f])
      else (q, [])
    | (none, _) => (q, [])
  | 1 => ({ q with sent := 0, upto := none }, [])
  | 2 =>
    let next := { q with sent := 0, upto := none }
    match P.segAt with
    | none => (next, if q.sent = 0 then [] else [{ f with data := (eotFlit 0 q.sent).data }])
    | some a =>
      -- ticks of the segment that no data token belongs to
      let bare := meetTicks q.want (a + P.segIdx / max 1 q.w) (f.data.toNat % 2 ^ 48)
      match (bare.getLast?.map (·.2)).or q.upto with
      | none => (next, [])
      | some b => ({ next with want := bare.foldl (fun l (c, d) => dropTicks l c d) q.want },
          (if q.upto.isNone then [sotFlit ((bare.head?.map (·.1)).getD b)] else []) ++
          [eotFlit b (if q.sent = P.segIdx then f.data.toNat / 2 ^ 64 % 2 ^ 32 else q.sent)])
  | 5 => ({ q with sent := 0, upto := none }, [f])
  | _ => (q, [f])
/-- A source after one of its flits. -/
def DPort.advance (P : DPort) (f : Flit) : DPort :=
  match f.kind.toNat, P.segAt with
  | 0, some _ => { P with segIdx := P.segIdx + 1 }
  | 0, none =>
    match P.dueTick with
    | none => P
    | some u =>
      let w := ((P.feeds.find? fun q => hasTick q.want u).map (max 1 ·.w)).getD 1
      if w ≤ P.segIdx + 1 then { P with segIdx := 0, owed := dropTicks P.owed u u } else { P with segIdx := P.segIdx + 1 }
  | 1, _ => { P with segAt := some (f.data.toNat % 2 ^ 48), segIdx := 0 }
  | 2, some a => { P with segAt := none, segIdx := 0, owed := dropTicks P.owed a (f.data.toNat % 2 ^ 48) }
  | 5, _ => { P with segAt := none, segIdx := 0 }
  | _, _ => P
/-- The channel under whose number the source of a channel has its port: a replication has one port (R297). -/
def sourceOf (chans : List Chan) (j : Nat) : Nat :=
  match chans[j]? with
  | some ch => (chans.findIdx? fun q => sameSource q.desc ch.desc).getD j
  | none => j
/-- A flit of a segment leaves an address-generator node, the matrix drain or a copy channel: on a channel of the live graph each feed
receives what it has demanded (R297, R304). Words of tasks belong to no segment and are sent as they are.
Assumption 182 (DESIGN CHOICE). -/
def State.sendSeg (s : State) (t : TileId) (vc : SlotId) (f : Flit) : State :=
  match s.tileCtx t, s.vcChan t vc with
  | some c, some (g, j, ch) =>
    if c.liveSlot ≠ some g.val ∨ chanPort ch.desc = 0 ∨ chanPort ch.desc = 6 then s.sendVc t vc f
    else
      let p : PortId := .source c.num g (sourceOf (match c.gslots[g] with | some G => G.chans | none => []) j)
      let P := c.port p
      let outs := match s.vcGroup t vc with | [] => [(4, none, t, vc)] | l => l
      let dest := fun (o : Nat × Option TileId × TileId × SlotId) => match s.vcChan o.2.2.1 o.2.2.2 with | some (h, k, _) => PortId.sink c.num h k | none => p
      let got := outs.flatMap fun o =>
        match P.feeds.find? fun q => q.dest == dest o with
        | some q => (P.pass q f).2.map fun f => (o, f)
        | none => if f.kind.toNat < 3 then [] else [(o, f)]
      let s := s.modPort c.num p fun _ => { P.advance f with feeds := P.feeds.map fun q => (P.pass q f).1 }
      got.foldl (fun s (o, f) => s.sendOn o f) s
  | _, _ => s.sendVc t vc f

/-- What stands at the head of a VC read as 32-bit tokens, lane 0 first (R397). -/
inductive HeadTok where
  | empty
  | data (v : BitVec 32)
  | ctl (kind : BitVec 3) (payload : Wave)
  deriving DecidableEq, Repr

/-- The token at the head of a VC. -/
def VChan.head (c : VChan) : HeadTok :=
  match c.q with
  | [] => .empty
  | f :: _ => if f.kind = 0 then .data (f.data.extractLsb' (32 * c.pos) 32) else .ctl f.kind f.data
/-- Take the head flit. -/
def VChan.dropFlit (c : VChan) : VChan := { c with q := c.q.drop 1, pos := 0 }
/-- Take the head token. -/
def VChan.dropTok (c : VChan) : VChan :=
  match c.q with
  | [] => c
  | f :: _ => if f.kind = 0 ∧ c.pos < 15 then { c with pos := c.pos + 1 } else c.dropFlit
/-- A command that has taken its last flit consumes the EOT that directly follows (R227, R388). -/
def VChan.eatEnd (c : VChan) (any : Bool) : VChan :=
  match c.q with
  | [] => { c with eat := some any }
  | f :: _ => if f.kind = 2 ∧ (any || f.tileEnd) then c.dropFlit else c

/-- A command that takes no flit consumes the end-of-tile token that stands at the head as it begins (R388). -/
def VChan.eatHead (c : VChan) : VChan :=
  match c.q with
  | [] => c
  | f :: _ => if f.kind = 2 ∧ f.tileEnd then c.dropFlit else c

/-- FLIT_SEND (R265): a flit whose producer waits enters its channel once a slot is free. -/
def execFlitSend (s : State) : Out :=
  happening .flitSend (fun s =>
    let t := s.focus.tile
    if h : s.focus.unit < 16 then
      let vc : SlotId := ⟨s.focus.unit, h⟩
      match (s.vchan t vc).waiting with
      | [] => none
      | f :: rest =>
        if s.vcUsed t vc < s.vcDepth t vc then
          let s := (s.modVc t vc fun c => { c with waiting := rest }).takeFlit t vc f
          some (if rest.isEmpty then s else s.postOnce .flitSend s.focus)
        else none
    else none) s

/-- Report an engine fault to its task or its job (R343, R399). -/
def State.engineFails (s : State) (i : Issue) (code : FaultCode) (addr aux : Word) (toTask : Bool) : State :=
  State.post { s with
    engineFaults := s.engineFaults ++ [{ id := s.nextFault, iss := i, code, addr, aux, toTask }]
    nextFault := s.nextFault + 1 } .engineFault { id := s.nextFault }

/-- Record a late fault for a task (R182). -/
def State.addLate (s : State) (t : TileId) (k : SlotId) (l : Late) : State :=
  (s.modSlot t k fun q => { q with late := q.late ++ [l] }).post .lateFault { tile := t, slot := k }

end Sys2Proof.Machine
end

