-- ==== Sys2Proof/Machine/Flags.lean ====
section
/-! DEFINITION. The statistics summary of a task, `stat` and `cnt0` to `cnt15` (R117, R145, R155, R258, R286, R346), and the flags a
command sets in it. -/
namespace Sys2Proof.Machine
open Sys2Proof

/-- The counters by index. -/
abbrev cSat : Fin 16 := 0
abbrev cInexact : Fin 16 := 1
abbrev cUpround : Fin 16 := 2
abbrev cFallowIn : Fin 16 := 3
abbrev cNanIn : Fin 16 := 4
abbrev cNanLost : Fin 16 := 5
abbrev cAbsCmp : Fin 16 := 6
abbrev cRefine : Fin 16 := 7
/-- Timing-margin replays (R144; assumption 45, DESIGN CHOICE). -/
abbrev cReplay : Fin 16 := 8
abbrev cAccSat : Fin 16 := 9
abbrev cMatSkip : Fin 16 := 10
abbrev cSymOvf : Fin 16 := 11
abbrev cWalkMiss : Fin 16 := 12
abbrev cWalkFallow : Fin 16 := 13
abbrev cOrphan : Fin 16 := 14
abbrev cTokDrop : Fin 16 := 15

/-- Raise counter i by n and set its raised bit (R346); raising by 0 changes nothing. -/
def Slot.bump (k : Slot) (i : Fin 16) (n : Nat) : Slot :=
  if n = 0 then k else { k with cnt := k.cnt.set i (satAdd32 k.cnt[i] n), stat := k.stat ||| (1 <<< i.val) }

/-- Raise a counter for the issuer of a command: in its task's summary while that task runs; a `cpym` follow-on keeps it for the COUNT flit
of its end (R155); the counts of an ended task are dropped (R137). -/
def State.bump (s : State) (iss : Issue) (i : Fin 16) (n : Nat) : State :=
  if n = 0 then s
  else if iss.follow then
    s.modTile iss.tile fun T => { T with matCounts := T.matCounts.set i (satAdd32 T.matCounts[i] n) }
  else if s.alive iss then s.modSlot iss.tile iss.slot (·.bump i n) else s

/-- Raise the counters a list of results names, each once. -/
def State.bumpAll (s : State) (iss : Issue) (l : List Nat) : State :=
  (List.finRange 16).foldl (fun s i => s.bump iss i (l.count i.val)) s

/-- Set a summary bit of `stat` above the raised bits: 16 unchained, 17 discard, 18 fenced (R346). -/
def State.setStat (s : State) (iss : Issue) (bit : Nat) : State :=
  if s.alive iss then s.modSlot iss.tile iss.slot fun k => { k with stat := k.stat ||| (1 <<< bit) } else s

end Sys2Proof.Machine
end

