-- ==== Sys2Proof/Machine/Num.lean ====
section
/-! DEFINITION. Number formats (R92 to R95, R102), exact values, rounding (R98 to R101), conversion (R103, R108) and the functions
of R130. A present value is exact, m·2^e with a sign; `sticky` says that the true value lies strictly between m·2^e and (m+1)·2^e. -/
namespace Sys2Proof.Machine
open Sys2Proof

/-- An element's value. -/
inductive Val where
  | fallow
  | nan
  | inf (neg : Bool)
  | fin (neg : Bool) (m : Nat) (e : Int)
  deriving DecidableEq, Repr

/-- Element bits of a tag (R42); 8 for a q6 element in a register (R95). -/
def tagWidth (t : BitVec 5) : Nat :=
  match t.toNat with
  | 2 | 3 | 9 | 13 => 16
  | 4 | 5 | 7 | 8 | 12 => 8
  | 6 => 4
  | 11 | 15 => 64
  | _ => 32

/-- Elements of a register (R95). -/
def tagCount (t : BitVec 5) : Nat := 512 / tagWidth t

/-- Signed integer formats (R93). -/
def tagSigned (t : BitVec 5) : Bool := decide (8 ≤ t.toNat ∧ t.toNat ≤ 11)
/-- Unsigned integer formats and crd. -/
def tagUnsigned (t : BitVec 5) : Bool := decide (12 ≤ t.toNat ∧ t.toNat ≤ 16)

/-- The fallow code of a format (R92, R93, R102); 0 for bits, which has none. -/
def fallowCode (t : BitVec 5) : Nat :=
  match t.toNat with
  | 1 | 14 | 16 => 0xFFFFFFFF
  | 2 | 3 | 13 => 0xFFFF
  | 4 | 5 | 12 => 0xFF
  | 6 => 8
  | 7 => 0x20
  | 8 => 0x80
  | 9 => 0x8000
  | 10 => 0x80000000
  | 11 => 0x8000000000000000
  | 15 => 0xFFFFFFFFFFFFFFFF
  | _ => 0

/-- A floating-point format (R92): fraction bits, exponent of the least subnormal, largest finite code, sign bit, code of +∞ or 0 for
none, canonical NaN or 0 for none. -/
structure FloatFmt where
  frac : Nat
  qmin : Int
  maxCode : Nat
  sign : Nat
  inf : Nat
  nan : Nat

/-- The floating-point formats. -/
def floatFmt (t : BitVec 5) : Option FloatFmt :=
  match t.toNat with
  | 1 => some ⟨23, -149, 0x7F7FFFFF, 0x80000000, 0x7F800000, 0x7FC00000⟩
  | 2 => some ⟨7, -133, 0x7F7F, 0x8000, 0x7F80, 0x7FC0⟩
  | 3 => some ⟨10, -24, 0x7BFF, 0x8000, 0x7C00, 0x7E00⟩
  | 4 => some ⟨3, -9, 0x7E, 0x80, 0, 0x7F⟩
  | 5 => some ⟨2, -16, 0x7B, 0x80, 0x7C, 0x7E⟩
  | 7 => some ⟨2, -4, 0x1F, 0x20, 0, 0⟩
  | _ => none

/-- The value of a finite magnitude code. -/
def FloatFmt.mag (f : FloatFmt) (c : Nat) : Nat × Int :=
  if c < 2 ^ f.frac then (c, f.qmin) else (c % 2 ^ f.frac + 2 ^ f.frac, f.qmin + (c / 2 ^ f.frac : Nat) - 1)

/-- Magnitudes of a Q4 type in eighths (R102). -/
def q4Mags (ty : Nat) : List Nat :=
  match ty with
  | 0 => [0, 8, 16, 24, 32, 40, 48, 56]
  | 1 => [0, 4, 8, 12, 16, 24, 32, 48]
  | 2 => [0, 1, 2, 4, 8, 16, 32, 64]
  | _ => [0, 8, 16, 24, 32, 48, 64, 96]
/-- floor(log2 Mmax) of a Q4 type (R102). -/
def q4K (ty : Nat) : Nat := if ty < 2 then 2 else 3

/-- The value of a Q4 code under a scale byte (R102). -/
def q4Val (code side : Nat) : Val :=
  if code = 8 ∨ side % 64 = 63 then .fallow
  else .fin (decide (8 ≤ code)) ((q4Mags (side / 64)).getD (code % 8) 0) ((side % 64 : Nat) - 32 - 3)

/-- The value of an element's bits in a format other than Q4 and bits. -/
def decodeVal (t : BitVec 5) (c : Nat) : Val :=
  let c := if t = 7 then c % 64 else c
  if c = fallowCode t then .fallow
  else
    match floatFmt t with
    | some f =>
      let neg := decide (f.sign ≤ c)
      let m := c % f.sign
      if m ≤ f.maxCode then let (k, e) := f.mag m; .fin neg k e
      else if f.inf ≠ 0 ∧ m = f.inf then .inf neg
      else .nan
    | none =>
      if tagSigned t then
        let h := 2 ^ (tagWidth t - 1)
        if c < h then .fin false c 0 else .fin true (2 * h - c) 0
      else .fin false c 0

/-- Whether an element is present (R6, R93). -/
def presentBits (t : BitVec 5) (c : Nat) : Bool := t == 0x11 || (if t = 7 then c % 64 else c) != fallowCode t

/-! ## Rounding (R98 to R100) -/

/-- Whether the neighbour farther from zero is taken: `rem` of 2^sh above the nearer neighbour, `odd` its lowest code bit. -/
def roundsUp (mode : Nat) (neg odd : Bool) (rem sh : Nat) (sticky : Bool) (draw : Nat) : Bool :=
  match mode with
  | 0 => decide (2 ^ sh < 2 * rem) || (2 * rem == 2 ^ sh && (sticky || odd))
  | 1 => false
  | 2 => neg
  | 3 => !neg
  | 4 => decide (2 ^ sh ≤ 2 * rem)
  | _ => decide (draw < rem * 256 / 2 ^ sh)

/-- Round a magnitude to a multiple k of 2^q: k, whether inexact, whether rounded away from zero. -/
def roundMag (mode : Nat) (neg : Bool) (m : Nat) (e : Int) (sticky : Bool) (q : Int) (draw : Nat) : Nat × Bool × Bool :=
  if q ≤ e then (m * 2 ^ (e - q).toNat, sticky, false)
  else
    let sh := (q - e).toNat
    let k := m / 2 ^ sh
    let rem := m % 2 ^ sh
    if rem = 0 ∧ sticky = false then (k, false, false)
    else
      let up := roundsUp mode neg (k % 2 == 1) rem sh sticky draw
      (if up then k + 1 else k, true, up)

/-- A rounded element: its code, and the counters it raises (R117). -/
structure Rounded where
  code : Nat
  counts : List Nat := []
  deriving DecidableEq, Repr

/-- INEXACT and UPROUND of a result. -/
def inexactCounts (inexact up : Bool) : List Nat := if inexact then (if up then [1, 2] else [1]) else []

/-- Round a finite value to a floating-point format (R99, R108); `sat` is `cvt.sat`. -/
def roundFloat (t : BitVec 5) (f : FloatFmt) (mode : Nat) (sat neg : Bool) (m : Nat) (e : Int) (sticky : Bool) (draw : Nat) :
    Rounded :=
  let top : Int := e + (Nat.log2 m : Nat)
  let q : Int := if m = 0 then f.qmin else max f.qmin (top - (f.frac : Nat))
  let (k, inexact, up) := roundMag mode neg m e sticky q draw
  let code := (q - f.qmin).toNat * 2 ^ f.frac + k
  let s := if neg then f.sign else 0
  if code ≤ f.maxCode then
    ⟨if t = 7 ∧ code = 0 then 0 else code + s, inexactCounts inexact up⟩
  else
    let toMax := sat || f.inf == 0 && f.nan == 0 || (f.inf != 0 && (mode == 1 || (mode == 2 && !neg) || (mode == 3 && neg)))
    let bigger := !sat && f.inf != 0 && !toMax
    if toMax then ⟨f.maxCode + s, [0, 1]⟩
    else if bigger then ⟨f.inf + s, [0, 1, 2]⟩
    else ⟨f.nan, [0, 1]⟩

/-- Round a finite value to an integer format, saturating in the format's present range (R99, R108, R126). -/
def roundInt (t : BitVec 5) (mode : Nat) (neg : Bool) (m : Nat) (e : Int) (sticky : Bool) (draw : Nat) : Rounded :=
  let (k, inexact, up) := roundMag mode neg m e sticky 0 draw
  let w := tagWidth t
  if tagSigned t then
    let mx := 2 ^ (w - 1) - 1
    if k ≤ mx then ⟨if neg && k != 0 then 2 ^ w - k else k, inexactCounts inexact up⟩
    else ⟨if neg then 2 ^ w - mx else mx, [0, 1]⟩
  else
    let mx := 2 ^ w - 2
    if neg && k != 0 then ⟨0, [0, 1]⟩
    else if k ≤ mx then ⟨k, inexactCounts inexact up⟩
    else ⟨mx, [0, 1]⟩

/-- Neighbours on a Q4 grid: the largest index whose magnitude, in eighths of the scale, is at most m·2^x. -/
def q4Index (mags : List Nat) (m : Nat) (x : Int) : Nat :=
  (mags.filter fun g => if 0 ≤ x then decide (g ≤ m * 2 ^ x.toNat) else decide (g * 2 ^ (-x).toNat ≤ m)).length - 1

/-- Code a finite value on a block's grid (R103 step 3). -/
def roundQ4 (ty scale mode : Nat) (neg : Bool) (m : Nat) (e : Int) (draw : Nat) : Rounded :=
  let mags := q4Mags ty
  let x : Int := e + 3 - ((scale : Int) - 32)
  -- value in eighths of the scale is n / d
  let n := if 0 ≤ x then m * 2 ^ x.toNat else m
  let d := if 0 ≤ x then 1 else 2 ^ (-x).toNat
  let s := if neg then 8 else 0
  if mags.getD 7 0 * d < n then ⟨7 + s, [0, 1]⟩
  else
    let i := q4Index mags m x
    let lo := mags.getD i 0
    if n = lo * d then ⟨if i = 0 then 0 else i + s, []⟩
    else
      let gap := (mags.getD (i + 1) 0 - lo) * d
      let rem := n - lo * d
      let up :=
        match mode with
        | 0 => decide (gap < 2 * rem) || (2 * rem == gap && i % 2 == 1)
        | 1 => false
        | 2 => neg
        | 3 => !neg
        | 4 => decide (gap ≤ 2 * rem)
        | _ => decide (draw < rem * 256 / gap)
      let k := if up then i + 1 else i
      ⟨if k = 0 then 0 else k + s, inexactCounts true up⟩

/-- The saturated code of an infinity in a format without one, or under `cvt.sat` (R108). -/
def satInf (t : BitVec 5) (neg : Bool) : Nat :=
  match floatFmt t with
  | some f => f.maxCode + (if neg then f.sign else 0)
  | none =>
    let w := tagWidth t
    if tagSigned t then (if neg then 2 ^ (w - 1) + 1 else 2 ^ (w - 1) - 1) else if neg then 0 else 2 ^ w - 2

/-- Round any value to a format other than Q4 and bits: `conv` of R108. `mode`, `sat` and the draw of `sto` are the command's. -/
def roundVal (t : BitVec 5) (mode : Nat) (sat : Bool) (draw : Nat) (sticky : Bool := false) : Val → Rounded
  | .fallow => ⟨fallowCode t, []⟩
  | .nan =>
    match floatFmt t with
    | some f => if f.nan = 0 then ⟨fallowCode t, [5]⟩ else ⟨f.nan, []⟩
    | none => ⟨fallowCode t, [5]⟩
  | .inf neg =>
    match floatFmt t with
    | some f =>
      if f.inf ≠ 0 ∧ sat = false then ⟨f.inf + (if neg then f.sign else 0), []⟩
      else if f.nan ≠ 0 ∧ sat = false then ⟨f.nan, [0, 1]⟩
      else ⟨satInf t neg, [0, 1]⟩
    | none => ⟨satInf t neg, [0, 1]⟩
  | .fin neg m e =>
    match floatFmt t with
    | some f => roundFloat t f mode sat neg m e sticky draw
    | none => roundInt t mode neg m e sticky draw

/-- Code a value of a Q4 block with type and scale (R103 step 3, R108). -/
def roundValQ4 (ty scale mode draw : Nat) : Val → Rounded
  | .fallow => ⟨8, []⟩
  | .nan => ⟨8, [5]⟩
  | .inf neg => ⟨if neg then 15 else 7, [0, 1]⟩
  | .fin neg m e => roundQ4 ty scale mode neg m e draw

/-! ## Exact arithmetic (R126, R127) -/

/-- The signed integer of a finite value at exponent q ≤ e. -/
def scaled (neg : Bool) (m : Nat) (e q : Int) : Int :=
  let k : Int := (m * 2 ^ (e - q).toNat : Nat)
  if neg then -k else k

/-- Exact sum, with the signs of zero of R127 under a mode. -/
def exactAdd (mode : Nat) : Val → Val → Val
  | .fallow, _ | _, .fallow => .fallow
  | .nan, _ | _, .nan => .nan
  | .inf a, .inf b => if a = b then .inf a else .nan
  | .inf a, _ => .inf a
  | _, .inf b => .inf b
  | .fin a m e, .fin b n f =>
    let q := min e f
    let v := scaled a m e q + scaled b n f q
    if v = 0 then .fin (if m = 0 ∧ n = 0 ∧ a = b then a else mode == 2) 0 q else .fin (decide (v < 0)) v.natAbs q

/-- Sign inverted. -/
def negVal : Val → Val
  | .inf a => .inf (!a)
  | .fin a m e => .fin (!a) m e
  | v => v

/-- Exact product. -/
def exactMul : Val → Val → Val
  | .fallow, _ | _, .fallow => .fallow
  | .nan, _ | _, .nan => .nan
  | .inf a, .inf b => .inf (a != b)
  | .inf a, .fin b n _ => if n = 0 then .nan else .inf (a != b)
  | .fin a m _, .inf b => if m = 0 then .nan else .inf (a != b)
  | .fin a m e, .fin b n f => .fin (a != b) (m * n) (e + f)

/-- Order of two present values that are no NaN; −0 lies below +0 when `zeros` (R127). -/
def ltVal (zeros : Bool) : Val → Val → Bool
  | .inf a, .inf b => a && !b
  | .inf a, .fin .. => a
  | .fin .., .inf b => !b
  | .fin a m e, .fin b n f =>
    let q := min e f
    let v := scaled a m e q
    let w := scaled b n f q
    decide (v < w) || (zeros && v == 0 && w == 0 && a && !b)
  | _, _ => false
/-- Equality of two present values that are no NaN; the zeros are equal. -/
def eqVal (a b : Val) : Bool :=
  match a, b with
  | .nan, _ | _, .nan | .fallow, _ | _, .fallow => false
  | a, b => !ltVal false a b && !ltVal false b a

/-- The lesser value (R127): NaN wins, −0 lies below +0. -/
def minVal (a b : Val) : Val := if a = .nan ∨ b = .nan then .nan else if ltVal true b a then b else a
/-- The greater value (R127). -/
def maxVal (a b : Val) : Val := if a = .nan ∨ b = .nan then .nan else if ltVal true a b then b else a
/-- The absolute value. -/
def absVal : Val → Val
  | .inf _ => .inf false
  | .fin _ m e => .fin false m e
  | v => v

/-- A quotient m/d at 2^e as a value with a sticky bit, 96 bits finer. -/
def quotient (neg : Bool) (m : Nat) (e : Int) (d : Nat) : Val × Bool :=
  (.fin neg (m * 2 ^ 96 / d) (e - 96), m * 2 ^ 96 % d != 0)

/-! ## The LFSR (R101) -/

/-- One step of the Galois LFSR. -/
def lfsrStep (s : BitVec 32) : BitVec 32 := if s.getLsbD 0 then (s >>> 1) ^^^ 0x80200003#32 else s >>> 1
/-- n steps. -/
def lfsrSteps : Nat → BitVec 32 → BitVec 32
  | 0, s => s
  | n + 1, s => lfsrSteps n (lfsrStep s)
/-- A draw: eight steps, then s[7:0]. -/
def lfsrDraw (s : BitVec 32) : Nat × BitVec 32 := let s := lfsrSteps 8 s; (s.toNat % 256, s)

/-! ## The functions of R130

Irrational results are computed in fixed point with 704 bits below the point (assumption 7, DEDUCED): `P`. -/

/-- Bits below the point. -/
abbrev fixP : Nat := 704
/-- floor(π·2^704). -/
def piFix : Nat := 0x3243F6A8885A308D313198A2E03707344A4093822299F31D0082EFA98EC4E6C89452821E638D01377BE5466CF34E90C6CC0AC29B7C97C50DD3F84D5B5B54709179216D5D98979FB1BD1310BA698DFB5AC2FFD72DBD01ADFB7
/-- floor(ln 2·2^704). -/
def ln2Fix : Nat := 0xB17217F7D1CF79ABC9E3B39803F2F6AF40F343267298B62D8A0D175B8BAAFA2BE7B876206DEBAC98559552FB4AFA1B10ED2EAE35C138214427573B291169B8253E96CA16224AE8C51ACBDA11317C387EB9EA9BC3B136603B

/-- Integer square root, bit by bit from bit n. -/
def isqrtFrom (v : Nat) : Nat → Nat → Nat
  | 0, r => r
  | n + 1, r => let t := r + 2 ^ n; isqrtFrom v n (if t * t ≤ v then t else r)
/-- floor(√v). -/
def isqrt (v : Nat) : Nat := isqrtFrom v (Nat.log2 v / 2 + 1) 0

/-- Σ x^k/k! in fixed point, from term t of index k. -/
def expSeries (x : Nat) : Nat → Nat → Nat → Nat → Nat
  | 0, _, _, acc => acc
  | n + 1, k, t, acc => if t = 0 then acc else expSeries x n (k + 1) (t * x / 2 ^ fixP / (k + 1)) (acc + t)
/-- e^x for 0 ≤ x < 1, both in fixed point. -/
def expFix (x : Nat) : Nat := expSeries x 200 0 (2 ^ fixP) 0

/-- Σ z^(2k+1)/(2k+1): the area hyperbolic tangent in fixed point. -/
def atanhSeries (z2 : Nat) : Nat → Nat → Nat → Nat → Nat
  | 0, _, _, acc => acc
  | n + 1, k, t, acc => if t = 0 then acc else atanhSeries z2 n (k + 2) (t * z2 / 2 ^ fixP) (acc + t / k)
/-- ln(m/2^s) for 1 ≤ m/2^s < 2, in fixed point. -/
def lnFix (m s : Nat) : Nat :=
  let z := (m - 2 ^ s) * 2 ^ fixP / (m + 2 ^ s)
  2 * atanhSeries (z * z / 2 ^ fixP) 300 1 z 0

/-- Σ (−1)^k x^(2k+1)/(2k+1)! in fixed point, as positive and negative sums. -/
def sinSeries (x2 : Nat) : Nat → Nat → Nat → Bool → Nat → Nat → Nat
  | 0, _, _, _, p, n => p - n
  | f + 1, k, t, plus, p, n =>
    if t = 0 then p - n
    else sinSeries x2 f (k + 2) (t * x2 / 2 ^ fixP / ((k + 1) * (k + 2))) (!plus) (if plus then p + t else p) (if plus then n else n + t)
/-- sin x for 0 ≤ x < 2, in fixed point. -/
def sinFix (x : Nat) : Nat := sinSeries (x * x / 2 ^ fixP) 200 1 x true 0 0

/-- m·2^e in fixed point, cut. -/
def toFix (m : Nat) (e : Int) : Nat := if 0 ≤ e + fixP then m * 2 ^ (e + fixP).toNat else m / 2 ^ (-(e + fixP)).toNat

/-- 2^x for x = ±f/2^704: mantissa in fixed point and exponent. -/
def exp2Fix (neg : Bool) (f : Nat) : Nat × Int :=
  let i := f / 2 ^ fixP
  let r := f % 2 ^ fixP
  if neg && r != 0 then (expFix ((2 ^ fixP - r) * ln2Fix / 2 ^ fixP), -((i : Int) + 1))
  else (expFix (r * ln2Fix / 2 ^ fixP), if neg then -(i : Int) else i)

/-- e^(−x) for x in fixed point, cut to fixed point. -/
def expNeg (x : Nat) : Nat :=
  let (m, e) := exp2Fix true (x * 2 ^ fixP / ln2Fix)
  m / 2 ^ (-e).toNat

/-- The special functions in opcode order. -/
inductive Special where
  | rcp | rsq | sqrt | exp2 | log2 | tanh | sgm | sin
  deriving DecidableEq, Repr

/-- 2^x (R130): exact when x is an integer; a magnitude above 8,192 over- or underflows every format. -/
def exp2Val (neg : Bool) (m : Nat) (e : Int) : Val × Bool :=
  if decide (0 ≤ e) || m % 2 ^ (-e).toNat == 0 then
    let i : Nat := if 0 ≤ e then (if 13 < e then 8192 else m * 2 ^ e.toNat) else m / 2 ^ (-e).toNat
    (.fin false 1 (if neg then -(min i 8192 : Nat) else (min i 8192 : Nat)), false)
  else if 13 < e + (Nat.log2 m : Nat) then (.fin false 1 (if neg then -8192 else 8192), false)
  else
    let (v, x) := exp2Fix neg (toFix m e)
    (.fin false v (x - fixP), true)

/-- log2 x for x > 0: exact when x is a power of two. -/
def log2Val (m : Nat) (e : Int) : Val × Bool :=
  let s := Nat.log2 m
  let i : Int := e + (s : Nat)
  if m = 2 ^ s then (.fin (decide (i < 0)) i.natAbs 0, false)
  else
    let f := lnFix m s * 2 ^ fixP / ln2Fix
    if 0 ≤ i then (.fin false (i.toNat * 2 ^ fixP + f) (-fixP), true)
    else (.fin true ((-i).toNat * 2 ^ fixP - f - 1) (-fixP), true)

/-- tanh of a magnitude that is not 0: (1 − E)/(1 + E) with E = e^(−2x). -/
def tanhMag (m : Nat) (e : Int) : Nat :=
  if 9 < e + (Nat.log2 m : Nat) then 2 ^ fixP - 1
  else
    let x := expNeg (2 * toFix m e)
    let v := (2 ^ fixP - x) * 2 ^ fixP / (2 ^ fixP + x)
    min v (2 ^ fixP - 1)

/-- sin of a fraction of a turn, given as a fixed-point number below 1/4, not 0. -/
def sinQuarter (f : Nat) : Nat := sinFix (2 * f * piFix / 2 ^ fixP)

/-- sin(2πx) of a magnitude: sign and value (R130). Multiples of a quarter turn are exact. -/
def sinMag (m : Nat) (e : Int) : Bool × Nat × Bool :=
  if 0 ≤ e then (false, 0, false)
  else
    let d := 2 ^ (-e).toNat
    let r := m % d
    -- quarter and remainder of 4·r/d
    let qd := 4 * r / d
    let rem := 4 * r % d
    let half := decide (2 ≤ qd)
    if rem = 0 then (half && qd != 2, if qd % 2 = 1 then 2 ^ fixP else 0, false)
    else
      let a := if qd % 2 = 0 then rem else d - rem
      (half, min (sinQuarter (a * 2 ^ fixP / (4 * d))) (2 ^ fixP - 1), true)

/-- A special function's exact value, with a sticky bit where it is irrational or not dyadic (R130). The sine is +0 where it vanishes.
Assumption 153 (DESIGN CHOICE). -/
def specialVal (f : Special) (v : Val) : Val × Bool :=
  match f, v with
  | _, .fallow => (.fallow, false)
  | _, .nan => (.nan, false)
  | .rcp, .inf n => (.fin n 0 0, false)
  | .rcp, .fin n m e => if m = 0 then (.inf n, false) else (.fin n (2 ^ 200 / m) (-e - 200), 2 ^ 200 % m != 0)
  | .rsq, .inf n => if n then (.nan, false) else (.fin false 0 0, false)
  | .rsq, .fin n m e =>
    if m = 0 then (.inf n, false)
    else if n then (.nan, false)
    else
      let m' := if e % 2 = 0 then m else 2 * m
      let e' := if e % 2 = 0 then e else e - 1
      let r := isqrt (2 ^ 400 / m')
      (.fin false r (-(e' / 2) - 200), r * r * m' != 2 ^ 400)
  | .sqrt, .inf n => if n then (.nan, false) else (.inf false, false)
  | .sqrt, .fin n m e =>
    if m = 0 then (.fin n 0 0, false)
    else if n then (.nan, false)
    else
      let m' := (if e % 2 = 0 then m else 2 * m) * 2 ^ 200
      let e' := if e % 2 = 0 then e else e - 1
      let r := isqrt m'
      (.fin false r (e' / 2 - 100), r * r != m')
  | .exp2, .inf n => (if n then .fin false 0 0 else .inf false, false)
  | .exp2, .fin n m e => exp2Val n m e
  | .log2, .inf n => (if n then .nan else .inf false, false)
  | .log2, .fin n m e => if m = 0 then (.inf true, false) else if n then (.nan, false) else log2Val m e
  | .tanh, .inf n => (.fin n 1 0, false)
  | .tanh, .fin n m e => if m = 0 then (.fin n 0 0, false) else (.fin n (tanhMag m e) (-fixP), true)
  | .sgm, .inf n => (.fin false (if n then 0 else 1) 0, false)
  | .sgm, .fin n m e =>
    if m = 0 then (.fin false 1 (-1), false)
    else
      let x := if 10 < e + (Nat.log2 m : Nat) then 0 else expNeg (toFix m e)
      let v := if n then x * 2 ^ fixP / (2 ^ fixP + x) else min (2 ^ fixP * 2 ^ fixP / (2 ^ fixP + x)) (2 ^ fixP - 1)
      (.fin false v (-fixP), true)
  | .sin, .inf _ => (.nan, false)
  | .sin, .fin n m e =>
    let (neg, v, st) := sinMag m e
    (.fin (if v = 0 then false else n != neg) v (-fixP), st)

end Sys2Proof.Machine
end

