-- ==== Sys2Proof/Machine/Operands.lean ====
section
/-! DEFINITION. The operand forms of a command (R43 to R48): registers, immediates, channels, blocks with their window check, source
tags, wave words; elements of a register; issuing a command, alone or in a clause (R39, R41, R56, R57). -/
namespace Sys2Proof.Machine
open Sys2Proof

/-! ## Slots -/

/-- The v register number of a slot. -/
def slotV (s : BitVec 16) : Nat := (s.extractLsb' 0 6).toNat
/-- The x register a slot names. -/
def slotX (s : BitVec 16) : XReg := s.extractLsb' 0 5
/-- The number in a special slot of sub-kind m, z, a or VC. -/
def slotN (s : BitVec 16) : SlotId := ⟨(s.extractLsb' 0 4).toNat, (s.extractLsb' 0 4).isLt⟩
/-- The copy channel a slot names. -/
def slotCc (s : BitVec 16) : Fin 64 := ⟨(s.extractLsb' 0 6).toNat, (s.extractLsb' 0 6).isLt⟩
def slotZ (s : BitVec 16) : Fin 4 := ⟨(s.extractLsb' 0 2).toNat, (s.extractLsb' 0 2).isLt⟩
def isV (s : BitVec 16) : Bool := slotKind s == 0
def isX (s : BitVec 16) : Bool := slotKind s == 1
def isImm (s : BitVec 16) : Bool := slotKind s == 2
/-- A die copy channel (sub-kind 011 with [10] = 1). -/
def isCc (s : BitVec 16) : Bool := slotKind s == 3 && slotSub s == 3 && s.extractLsb' 10 1 == 1
/-- A tile virtual channel. -/
def isVc (s : BitVec 16) : Bool := slotKind s == 3 && slotSub s == 3 && s.extractLsb' 10 1 == 0
/-- An immediate read unsigned. -/
def immN (s : BitVec 16) : Nat := (slotVal s).toNat
/-- An immediate read as two's complement. -/
def immI (s : BitVec 16) : Int := (slotVal s).toInt
/-- An x register as the escape word read it (R72). -/
def Issue.getX (i : Issue) (r : XReg) : Word := readX i.x r
/-- An operand that is an x register or an unsigned immediate; 0x0000 gives `dflt`. -/
def Issue.xOrImm (i : Issue) (s : BitVec 16) (dflt : Nat) : Nat :=
  if s = 0 then dflt else if isX s then (i.getX (slotX s)).toNat else immN s

/-- Whether an instruction's entry declares a wave pair (R193). -/
def hasWave : Instr → Bool
  | .vld _ | .vst _ | .tld _ | .tst _ | .sbld _ | .sbst _ => true
  | _ => false

/-- The x registers and predicates that slots name (R46, R47). -/
def slotRegs (ss : List (BitVec 16)) : List XReg × List PReg :=
  ((ss.filter isX).map slotX, (ss.filter fun s => slotKind s == 3 && slotSub s == 4).map fun s => s.extractLsb' 0 3)
/-- The x registers and predicates a command's slots name (R72); the two slots of a wave pair name none (R48). -/
def cmdRegs (i : Instr) (c : Cmd) : List XReg × List PReg :=
  slotRegs ([c.s1, c.s2, c.s3] ++ if hasWave i then [] else [c.s4, c.s5])

/-! ## Guards (R39) -/

/-- The guard of a command. -/
def cmdGuard (c : Cmd) (s : State) : Bool :=
  match c.comb.toNat with
  | 0 => s.getP c.ga
  | 1 => s.getP c.ga && s.getP c.gb
  | 2 => s.getP c.ga || s.getP c.gb
  | _ => s.getP c.ga && !s.getP c.gb

/-! ## Blocks and tags (R43, R44) -/

/-- Height and width of a command's extent. -/
def cmdH (c : Cmd) : Nat := c.eh.toNat + 1
def cmdW (c : Cmd) : Nat := c.ew.toNat + 1

/-- The registers of a block in R44 order. -/
def blockRegs (c : Cmd) (b : Nat) : List Nat :=
  (List.range (cmdH c)).flatMap fun y => (List.range (cmdW c)).map fun x => 8 * (b / 8 + y) + (b % 8 + x)

/-- Whether a block lies in the grid and in the window (R44, R52). -/
def blockOk (win : BitVec 12) (c : Cmd) (b : Nat) : Bool :=
  let r0 := (win.extractLsb' 0 3).toNat
  let c0 := (win.extractLsb' 3 3).toNat
  decide (b / 8 + cmdH c ≤ 8) && decide (b % 8 + cmdW c ≤ 8) && decide (r0 ≤ b / 8) && decide (c0 ≤ b % 8) &&
  decide (b / 8 + cmdH c ≤ r0 + (win.extractLsb' 6 3).toNat + 1) && decide (b % 8 + cmdW c ≤ c0 + (win.extractLsb' 9 3).toNat + 1)

/-- The extent check of every v slot of a command (R67). -/
def checkBlocks (c : Cmd) (slots : List (BitVec 16)) (iss : Issue) (s : State) : Except Stop Unit :=
  if (slots.filter isV).all fun v => blockOk (s.slot iss.tile iss.slot).win c (slotV v) then .ok ()
  else .error (trapWith .extentRange)

/-- A v register of the tile. -/
def Tile.vreg (T : Tile) (n : Nat) : VReg := T.v[n % 64]
/-- Write a v register. -/
def Tile.setV (T : Tile) (n : Nat) (v : VReg) : Tile := { T with v := T.v.set (n % 64) v }
/-- Write registers of a block in order (R45). -/
def Tile.setVs (T : Tile) : List Nat → List VReg → Tile
  | n :: ns, v :: vs => (T.setV n v).setVs ns vs
  | _, _ => T

/-- The registers of a block. -/
def State.block (s : State) (iss : Issue) (c : Cmd) (slot : BitVec 16) : List VReg :=
  (blockRegs c (slotV slot)).map (s.tile iss.tile).vreg

/-- The source tag check of R43: the command's format, from its tag field or its first source. -/
def checkTags (c : Cmd) (srcs : List VReg) : Except Stop (BitVec 5) :=
  let fmt := if c.tag = 0 then (srcs.head?.map (·.tag)).getD 0 else c.tag
  if fmt ≠ 0 ∧ (srcs.all fun v => v.tag == fmt) = true then .ok fmt else .error (trapWith .formatMismatch)

/-- Refuse with a fault unless a condition holds. -/
def need (b : Bool) (c : FaultCode) : Except Stop Unit := if b then .ok () else .error (trapWith c)
/-- The same, with the record's address. -/
def needAt (b : Bool) (c : FaultCode) (a : Nat) : Except Stop Unit := if b then .ok () else .error (.trap c (w64 a) 0)

/-! ## Elements (R95) -/

/-- The w-bit fields of 512 bits, ascending. -/
def fields (w : Nat) (d : Wave) : List Nat := (List.range (512 / w)).map fun i => d.toNat / 2 ^ (w * i) % 2 ^ w
/-- 512 bits from w-bit fields, ascending. -/
def packFields (w : Nat) (l : List Nat) : Wave := BitVec.ofNat 512 (l.foldr (fun x acc => x % 2 ^ w + 2 ^ w * acc) 0)
/-- The elements of a register under a format. -/
def elems (t : BitVec 5) (v : VReg) : List Nat := fields (tagWidth t) v.data
/-- Side byte k of a register (R102). -/
def sideByte (v : VReg) (k : Nat) : Nat := (v.side >>> (8 * k)).toNat % 256
/-- The values of a register's elements under a format; a bits element is its pattern. -/
def vals (t : BitVec 5) (v : VReg) : List Val :=
  if t = 6 then ((elems t v).zipIdx).map fun (c, i) => q4Val c (sideByte v (i / 32))
  else if t = 0x11 then (elems t v).map fun c => .fin false c 0
  else (elems t v).map (decodeVal t)
/-- A register of elements under a format. -/
def mkReg (t : BitVec 5) (l : List Nat) : VReg := { data := packFields (tagWidth t) l, side := 0, tag := t }
/-- Replace fields i, i+1, … of a list. -/
def overlay : List Nat → Nat → List Nat → List Nat
  | l, _, [] => l
  | l, i, x :: xs => overlay (l.set i x) (i + 1) xs

/-! ## Random draws (R101) -/

/-- Draws for n elements where the mode is `sto`; otherwise none is taken. -/
def drawsFor (mode : Nat) (s : BitVec 32) : Nat → List Nat × BitVec 32
  | 0 => ([], s)
  | n + 1 =>
    if mode = 5 then
      let (d, s) := lfsrDraw s
      let (ds, s) := drawsFor mode s n
      (d :: ds, s)
    else
      let (ds, s) := drawsFor mode s n
      (0 :: ds, s)

/-- Take n draws from the tile's LFSR. -/
def State.takeDraws (s : State) (t : TileId) (mode n : Nat) : List Nat × State :=
  let (ds, l) := drawsFor mode (s.tile t).lfsr n
  (ds, if mode = 5 then s.modTile t fun T => { T with lfsr := l } else s)

/-! ## Wave words (R48) -/

/-- The wave word of slots 4 and 5. -/
def waveWord (c : Cmd) : BitVec 28 := c.s4.extractLsb' 0 14 ++ c.s5.extractLsb' 0 14
/-- The wave fields of a class 0x5 command; inside a clause own is the clause's wave number. -/
def waveInfo (c : Cmd) (iss : Issue) : Option WaveInfo :=
  if c.s4 = 0 ∧ c.s5 = 0 then none
  else
    let w := waveWord c
    let own := (w.extractLsb' 20 8).toNat
    let pred := (w.extractLsb' 12 8).toNat
    let succ := (w.extractLsb' 4 8).toNat
    some {
      own := if iss.wave = 0xFF then own else iss.wave.toNat
      pred := if pred = 0xFF ∨ w.getLsbD 3 then none else some pred
      succ := if succ = 0xFF ∨ w.getLsbD 2 then none else some succ
      isBegin := w.getLsbD 1
      isEnd := w.getLsbD 0 }

/-- Inside a clause the own field of a wave word must be 0xFF (R48). -/
def clauseWaveOk (i : Instr) (c : Cmd) (isOpen : Bool) : Bool :=
  !isOpen || !hasWave i || (c.s4 == 0 && c.s5 == 0) || (waveWord c).extractLsb' 20 8 == 0xFF#8

/-! ## Issuing a command -/

/-- Classes 0x0 and 0x1, whose commands a chained command may fuse behind (R120). -/
def isLaneCmd (i : Instr) : Bool := match cmdOpcode i with | some (cls, _, _) => cls == 0#4 || cls == 1#4 | none => false

/-- Note a command as the last of its task, under its number on the tile (R120). -/
def Slot.noteCmd (k : Slot) (i : Instr) (c : Cmd) (no : Nat) : Slot :=
  { k with last := some { isLane := isLaneCmd i, no, dst := c.s1, eh := c.eh, ew := c.ew } }

/-! ## Registers still to be written (R53, R150) -/

/-- The v registers a queued matrix command will write. -/
def matDest : Instr → List Nat
  | .mdr c | .mintScan c => blockRegs c (slotV c.s1)
  | _ => []

/-- The v registers that an access, a queued drain or scan, or a running `vrun` has still to write. -/
def Tile.busyV (T : Tile) : List Nat :=
  (T.matQ.flatMap fun q => matDest q.instr) ++
  (T.accesses.flatMap fun a => match a.kind with | .vload vds _ => vds | _ => []) ++
  (match T.stream with | some { use := .vrun _ _ dst _ _ _ _, .. } => dst | _ => [])

/-- The m registers that an access has still to write. -/
def Tile.busyM (T : Tile) : List Nat := T.accesses.flatMap fun a => match a.kind with | .mload md _ => [md] | _ => []

/-- The v slots of a command. -/
def vSlots : Instr → List (BitVec 16)
  | .vadd c | .vsub c | .vmul c | .vmin c | .vmax c | .vand c | .vor c | .vxor c | .vshl c | .vshr c | .vsra c | .vcmp c
  | .vperm c => [c.s1, c.s2, c.s3]
  | .vfma c | .vfms c | .vclamp c | .vsel c => [c.s1, c.s2, c.s3, c.s4]
  | .vabs c | .vneg c | .vnot c | .vmov c | .vbcast c | .vshf c | .vscan c => [c.s1, c.s2]
  | .vrcp c | .vrsq c | .vsqrt c | .vexp2 c | .vlog2 c | .vtanh c | .vsgm c | .vsin c => [c.s1, c.s2]
  | .vred c | .vacc c => [c.s2]
  | .vdrn c => [c.s1]
  | .vrun c => [c.s1, c.s2]
  | .cvt c | .cvtSat c | .qblk c | .dqblk c | .pack6 c | .unpk6 c => [c.s1, c.s2]
  | .falFill c | .tagSet c => [c.s1]
  | .falTest c => [c.s2]
  | .mst c => [c.s2]
  | .mnm c => [c.s2, c.s3]
  | .mintScan c | .mdr c => [c.s1]
  | .vld c | .vst c | .sbld c | .sbst c => [c.s1]
  | .vamo c => if c.s3 = 0 then [c.s2] else [c.s2, c.s3]
  | .gath c => [c.s3]
  | .scat c => [c.s2, c.s3]
  | .walk c => [c.s3]
  | _ => []
/-- The m slots of a command. -/
def mSlots : Instr → List (BitVec 16)
  | .mls c => if slotSub c.s1 = 0 then [c.s1] else []
  | .tld c | .tst c => [c.s1]
  | _ => []

/-- The v registers a command names. -/
def namedV (i : Instr) (c : Cmd) : List Nat :=
  let c := match i with | .walk _ => { c with eh := 0, ew := 0 } | _ => c
  ((vSlots i).filter isV).flatMap fun v => blockRegs c (slotV v)
/-- The m registers a command names. -/
def namedM (i : Instr) : List Nat := (mSlots i).map fun m => (slotN m).val
/-- What a command that names such a register waits for. -/
def busyStop (i : Instr) (c : Cmd) (t : TileId) (s : State) : Option Stop :=
  let vs := (namedV i c).filter (s.tile t).busyV.contains
  let ms := (namedM i).filter (s.tile t).busyM.contains
  if vs.isEmpty && ms.isEmpty then none else some (.block (.busyRegs vs ms))

/-! ## Commands held for a clause (R53, R56, R57) -/

/-- The port of a command: its class; classes 0x0 to 0x2 have the one port of the lane array.
Assumption 142 (DEDUCED). -/
def portOf (i : Instr) : Nat := match cmdOpcode i with | some (cls, _, _) => if cls.toNat ≤ 2 then 0 else cls.toNat | none => 0

/-- Whether memory commands of the task in focus have left their clause and not yet entered their port: its later memory words wait for them,
so that its ordinary accesses stay in program order (R57, R209). -/
def State.memWaits (s : State) : Bool :=
  s.here.held.any fun h => h.released && h.iss.slot == s.focus.slot && h.iss.epoch == s.cur.epoch && (portOf h.instr == 5 || portOf h.instr == 6)

/-- Commands of a port in the tile's clause staging. -/
def Tile.staged (T : Tile) (p : Nat) : Nat := (T.held.filter fun h => portOf h.instr == p).length

/-- The format of a command from its tag field or its first v source. -/
def Tile.fmtOf (T : Tile) (c : Cmd) (srcs : List (BitVec 16)) : BitVec 5 :=
  if c.tag = 0 then ((srcs.filter isV).head?.map fun w => (T.vreg (slotV w)).tag).getD 0 else c.tag

/-- The tag a command writes into the registers of its slot 1 (R43); none where it writes no v register there. -/
def Tile.outTag (T : Tile) : Instr → Option (Cmd × BitVec 5)
  | .vadd c | .vsub c | .vmul c | .vmin c | .vmax c | .vand c | .vor c | .vxor c | .vshl c | .vshr c | .vsra c | .vsel c =>
    some (c, T.fmtOf c [c.s2, c.s3])
  | .vfma c | .vfms c | .vclamp c => some (c, T.fmtOf c [c.s2, c.s3, c.s4])
  | .vabs c | .vneg c | .vnot c | .vmov c | .vbcast c | .vshf c | .vperm c | .vscan c => some (c, T.fmtOf c [c.s2])
  | .vrcp c | .vrsq c | .vsqrt c | .vexp2 c | .vlog2 c | .vtanh c | .vsgm c | .vsin c => some (c, T.fmtOf c [c.s2])
  | .vcmp c | .pack6 c => some (c, 0x11)
  | .qblk c => some (c, 6)
  | .unpk6 c => some (c, 7)
  | .vdrn c | .cvt c | .cvtSat c | .dqblk c | .falFill c | .tagSet c | .mdr c | .mintScan c | .vld c | .sbld c => some (c, c.tag)
  | .vrun c => if isV c.s1 then some (c, if c.tag = 0 ∧ !isV c.s2 then 0x11 else T.fmtOf c [c.s2]) else none
  | _ => none

/-- Give registers a tag. -/
def Tile.tagV (T : Tile) (ns : List Nat) (t : BitVec 5) : Tile := ns.foldl (fun T n => T.setV n { T.vreg n with tag := t }) T
def Tile.tagM (T : Tile) (n : SlotId) (t : BitVec 5) : Tile := { T with m := T.m.set n { T.m[n] with tag := t } }

/-- The tags a command leaves. -/
def Tile.afterCmd (T : Tile) (i : Instr) : Tile :=
  match i with
  | .tld c => T.tagM (slotN c.s1) c.tag
  | _ => match T.outTag i with | some (c, t) => T.tagV (blockRegs c (slotV c.s1)) t | none => T

/-- The tile with the tags its registers have once the accesses and commands in flight and the commands held for a clause have taken their
effects: what a command delivered into an open clause meets (R43, R45, R56). The data stand as they are.
Assumption 143 (DESIGN CHOICE). -/
def Tile.foreseen (T : Tile) : Tile :=
  let T := T.accesses.foldl (fun T a => match a.kind with
    | .vload vds t => T.tagV vds t
    | .mload n t => T.tagM ⟨n % 16, Nat.mod_lt _ (by decide)⟩ t
    | _ => T) T
  let T := T.matQ.foldl (fun T q => match q.instr with | .mdr _ | .mintScan _ => T.afterCmd q.instr | _ => T) T
  let T := match T.stream with | some { use := .vrun _ _ dst _ _ _ t, .. } => T.tagV dst t | _ => T
  T.held.foldl (fun T h => T.afterCmd h.instr) T
def State.foreseen (s : State) : State := s.modTile s.focus.tile Tile.foreseen

/-- The v registers a command writes. -/
def writtenV (i : Instr) : List Nat := match Tile.outTag {} i with | some (c, _) => blockRegs c (slotV c.s1) | none => []
/-- Whether what is in flight on the tile, or held for a clause, has still to write one of some v registers: a check that reads their data is
then made as its command enters its queue (R45, R56).
Assumption 143 (DESIGN CHOICE). -/
def Tile.owesV (T : Tile) (ns : List Nat) : Bool :=
  ns.any fun n => T.busyV.contains n || T.held.any fun h => (writtenV h.instr).contains n
/-- The a register a command names. -/
def namedA : Instr → List Nat
  | .vred c | .vacc c => [(slotN c.s1).val]
  | .vdrn c => [(slotN c.s2).val]
  | _ => []
/-- Whether a command draws from the tile's LFSR as it takes its effect (R101). -/
def drawsRandom : Instr → Bool
  | .cvt c | .cvtSat c | .qblk c | .dqblk c => c.s4.extractLsb' 0 3 == 5
  | .mdr c | .vdrn c => c.s5.extractLsb' 0 3 == 5 && c.s5.extractLsb' 5 3 != 2
  | i => isLaneCmd i && (match cmdOpcode i with | some (_, _, c) => c.s5.extractLsb' 0 3 == 5 | none => false)

/-- Two commands touch the same v, a or m register, the matrix array, or the LFSR: they take effect in the order they issued (R45, R53). -/
def commandsMeet (i j : Instr) : Bool :=
  match cmdOpcode i, cmdOpcode j with
  | some (p, _, c), some (q, _, d) =>
    (writtenV i).any (namedV j d).contains || (writtenV j).any (namedV i c).contains || (namedM i).any (namedM j).contains ||
    (namedA i).any (namedA j).contains || (p == 4 && q == 4) || (drawsRandom i && drawsRandom j)
  | _, _ => false

/-- Whether a held command must enter its queue before a later one: they share a port or touch the same registers, or both access memory.
Assumption 144 (DESIGN CHOICE). -/
def Held.bars (h : Held) (i : Instr) : Bool :=
  let mem := fun i => portOf i == 5 || portOf i == 6
  portOf h.instr == portOf i || (mem h.instr && mem i) || commandsMeet h.instr i

/-- What keeps a command of no open clause from its port: a command of a released clause that must enter its queue before it, or any held one
that touches the same registers (R53, R57).
Assumption 145 (DEDUCED). -/
def Held.stops (h : Held) (i : Instr) : Bool := (h.released && h.bars i) || commandsMeet h.instr i

/-- Whether the port of the next command of the slot in focus takes it (R56, R57): its staging while the clause is open; otherwise once no
held command stops it, and the matrix queue has room (R149). -/
def State.portRoom (s : State) (i : Instr) : Bool :=
  if s.cur.cls.isOpen then decide (s.here.staged (portOf i) < 15)
  else !(s.here.held.any (·.stops i)) && (portOf i != 4 || decide (s.here.matQ.length < 4))

/-- The x register and the predicate that a command writes when it takes its effect (R116), which are pending while a clause holds it.
Assumption 146 (DEDUCED). -/
def lateRegs : Instr → List Nat × List Nat
  | .falTest c => ([(slotX c.s1).toNat].filter (· != 0), if c.s3 = 0 then [] else [(c.s3.extractLsb' 0 3).toNat].filter (· != 0))
  | _ => ([], [])

/-- Count one command of the open clause (R56, R88); at 0 the clause releases and its held commands may enter their queues. -/
def State.countClause (s : State) : State :=
  let k := s.cur
  if !k.cls.isOpen then s
  else
    let n := k.cls.remaining - 1
    let s := s.modCur fun k => { k with cls := { k.cls with remaining := n, isOpen := n != 0 } }
    if n = 0 then
      let s := s.modTile s.focus.tile fun T =>
        { T with held := T.held.map fun h => if h.iss.slot = s.focus.slot then { h with released := true } else h }
      if s.here.held.isEmpty then s else s.postOnce .clauseCommandEnqueue { tile := s.focus.tile }
    else s

/-- End a command word: note it for the chain bit, move past it, and give up issue when its yield bit is set (R41, R70). -/
def State.endCommand (s : State) (i : Instr) (c : Cmd) (len : Nat) : State :=
  let s := (s.modTile s.focus.tile fun T =>
    { T.modSlot s.focus.slot (·.noteCmd i c T.nextCmd) with nextCmd := T.nextCmd + 1 }).advance len
  if c.yield = 1 then s.modCur fun k => { k with status := .ready, run := 0 } else s

/-- Bytes of a command word: 32 for a `cpym` with its follow-on (R30). -/
def cmdLen (i : Instr) : Nat := match i with | .cpym .. => 32 | _ => 16

/-- Deliver a command into the staging of an open clause (R56): it is held, and the registers it writes later are pending. -/
def State.deliverCmd (s : State) (i : Instr) (c : Cmd) (len : Nat) : State :=
  let s := s.modTile s.focus.tile fun T =>
    { T.modSlot s.focus.slot fun k => { k with pendX := k.pendX ++ (lateRegs i).1, pendP := k.pendP ++ (lateRegs i).2 } with
      held := T.held ++ [{ instr := i, iss := s.issue, released := false, mtag := match i with | .mls c => T.foreseen.m[slotN c.s1].tag | _ => 0 }] }
  s.countClause.endCommand i c len

/-- Issue a command (R38, R39, R56, R67, R72). `extra` are registers its entry reads beside its slots; `chk` its extent, tag and own
checks, which end with what it waits for; `eff` its effect at its port; `part` what it has done where `eff` traps. In an open clause the
command is checked against the tags it will meet (assumption 143, DESIGN CHOICE) and delivered into staging, and takes its effect after
the release; outside one it waits for the held commands that it must not pass (R57).
Assumption 50 (DESIGN CHOICE). -/
def issueCommand (i : Instr) (c : Cmd) (extra : List XReg) (chk : Issue → State → Except Stop Unit)
    (eff : Issue → State → Except Stop State) (s : State) (part : Issue → State → State := fun _ s => s) : Out :=
  let len := cmdLen i
  if s.sysMode then .next s
  else if !clauseWaveOk i c s.cur.cls.isOpen then .next (s.takeTrap .illegalField 0 0 len false)
  else if s.fallsOut len then .next (s.takeTrap .protect (w64 (s.cur.pc.toNat + len)) 0 len true)
  else
    match s.pendingRegs (extra ++ (cmdRegs i c).1) (c.ga :: c.gb :: (cmdRegs i c).2) with
    | some e => .next (s.stop len e)
    | none =>
      if !cmdGuard c s then .next (s.countClause.endCommand i c len)
      else if s.cur.cls.isOpen then
        match chk s.issue s.foreseen with
        | .error (.trap code addr aux) => .next (s.stop len (.trap code addr aux))
        | _ => if s.here.staged (portOf i) < 15 then .next (s.deliverCmd i c len) else .next (s.blockSlot .fullPort)
      else if s.here.held.any (·.stops i) then .next (s.blockSlot .fullPort)
      else
        match busyStop i c s.focus.tile s with
        | some e => .next (s.stop len e)
        | none =>
          match chk s.issue s with
          | .error e => .next (s.stop len e)
          | .ok () =>
            match eff s.issue s with
            | .ok t => .next (t.endCommand i c len)
            | .error (.trap code addr aux) => .next ((part s.issue s).stop len (.trap code addr aux))
            | .error e => .next (s.stop len e)

end Sys2Proof.Machine
end

