-- ==== Sys2Proof/Machine/Conv.lean ====
section
/-! DEFINITION. The conversion class 0x3 (R105 to R117). -/
namespace Sys2Proof.Machine
open Sys2Proof

/-- Conversion control fields (R106): source tag, Q4 type, mode. -/
def convSrc (c : Cmd) : BitVec 5 := c.s4.extractLsb' 5 5
def convType (c : Cmd) : Nat := (c.s4.extractLsb' 3 2).toNat
def convMode (c : Cmd) : Nat := (c.s4.extractLsb' 0 3).toNat

/-- Counters a source element raises (R117). -/
def srcCounts : Val → List Nat
  | .fallow => [3]
  | .nan => [4]
  | _ => []

/-- Cut a list into chunks of the given lengths. -/
def chunks {α : Type} : List Nat → List α → List (List α)
  | [], _ => []
  | n :: ns, l => l.take n :: chunks ns (l.drop n)

/-- Convert elements with their draws: codes and the counters raised. -/
def convElems (f : Nat → Val → Rounded) (vs : List Val) (ds : List Nat) : List Nat × List Nat :=
  let rs := (vs.zip ds).map fun (v, d) => (f d v, v)
  (rs.map (·.1.code), rs.flatMap fun (r, v) => r.counts ++ srcCounts v)

/-- Write result registers and raise their counters. -/
def State.putRegs (s : State) (iss : Issue) (ns : List Nat) (vs : List VReg) (counts : List Nat) : State :=
  (s.modTile iss.tile fun T => T.setVs ns vs).bumpAll iss counts

/-! ## cvt and cvt.sat (R107, R108) -/

/-- Elements converted of one register and the number of parts (R107). -/
def cvtCount (S D : BitVec 5) : Nat := 512 / max (tagWidth S) (tagWidth D)
def cvtParts (S D : BitVec 5) : Nat := max (tagWidth S) (tagWidth D) / min (tagWidth S) (tagWidth D)

/-- The scale exponent of a Q4 destination (R106). -/
def cvtE (c : Cmd) (iss : Issue) : Nat := iss.xOrImm c.s5 0

/-- One register of a `cvt` (R107): the part of the source, converted into the part of the destination.
Assumption 168 (DEDUCED). -/
def cvtReg (sat : Bool) (c : Cmd) (e : Nat) (d sreg : VReg) (ds : List Nat) : VReg × List Nat :=
  let S := sreg.tag
  let D := c.tag
  let n := cvtCount S D
  let part := immN c.s3
  let widen := decide (tagWidth S ≤ tagWidth D)
  let src := if widen then ((vals S sreg).drop (part * n)).take n else (vals S sreg).take n
  let f : Nat → Val → Rounded :=
    if D = 6 then fun dr v => roundValQ4 (convType c) e (convMode c) dr v else fun dr v => roundVal D (convMode c) sat dr false v
  let (codes, counts) := convElems f src ds
  -- an element that e = 63 makes fallow is counted by nothing (R108); a NaN ends fallow by R103 and is counted as lost
  let counts := if D = 6 ∧ e = 63 then counts.filter (fun k => decide (3 ≤ k)) else counts
  let at0 := if widen then 0 else part * n
  let data := packFields (tagWidth D) (overlay (fields (tagWidth D) d.data) at0 codes)
  let side : BitVec 32 :=
    if D = 6 then
      BitVec.ofNat 32 ((List.range 4).foldl (fun acc k =>
        acc + 2 ^ (8 * k) * (if 32 * k < at0 + n ∧ at0 < 32 * (k + 1) then convType c * 64 + e else sideByte d k)) 0)
    else 0
  ({ data, side, tag := D }, counts)

/-- The checks of `cvt`: extent, source tags, part, e. -/
def chkCvt (c : Cmd) (iss : Issue) (s : State) : Except Stop Unit := do
  checkBlocks c [c.s1, c.s2] iss s
  let src := s.block iss c c.s2
  need (src.all fun v => v.tag != 0 && v.tag != 6 && v.tag != 0x11 && (convSrc c == 0 || v.tag == convSrc c)) .formatMismatch
  need (src.all fun v => decide (immN c.s3 < cvtParts v.tag c.tag)) .illegalField
  need (c.tag != 6 || decide (cvtE c iss ≤ 63)) .illegalField

/-- The effect of `cvt` and `cvt.sat`. -/
def effCvt (sat : Bool) (c : Cmd) (iss : Issue) (s : State) : Except Stop State :=
  let src := s.block iss c c.s2
  let old := s.block iss c c.s1
  let ns := src.map fun v => cvtCount v.tag c.tag
  let (ds, s) := s.takeDraws iss.tile (convMode c) ns.sum
  let rs := ((old.zip src).zip (chunks ns ds)).map fun ((d, v), dr) => cvtReg sat c (cvtE c iss) d v dr
  .ok (s.putRegs iss (blockRegs c (slotV c.s1)) (rs.map (·.1)) (rs.flatMap (·.2)))

/-- `cvt.D.S.mode vd, vs, part` (R107). -/
def execCvt (c : Cmd) (s : State) : Out := issueCommand (.cvt c) c [] (chkCvt c) (effCvt false c) s
/-- `cvt.sat` (R108). -/
def execCvtSat (c : Cmd) (s : State) : Out := issueCommand (.cvtSat c) c [] (chkCvt c) (effCvt true c) s

/-! ## qblk and dqblk (R103, R109, R111) -/

/-- The largest magnitude of the finite present elements, if any. -/
def amax (vs : List Val) : Option (Nat × Int) :=
  vs.foldl (fun acc v =>
    match v with
    | .fin _ m e => match acc with
      | none => some (m, e)
      | some (n, f) => if ltVal false (.fin false n f) (.fin false m e) then some (m, e) else acc
    | _ => acc) none

/-- The exponent of a quantised block (R103 step 2). -/
def blockE (ty : Nat) (vs : List Val) : Nat :=
  if vs.all (· == .fallow) then 63
  else
    match amax vs with
    | none => 0
    | some (m, e) => if m = 0 then 0 else (max 0 (min 62 (e + (Nat.log2 m : Nat) - (q4K ty : Nat) + 32))).toNat

/-- Quantise a block (R103): codes, scale byte, counters. -/
def quantBlock (ty mode : Nat) (vs : List Val) (ds : List Nat) : List Nat × Nat × List Nat :=
  let e := blockE ty vs
  if e = 63 then (vs.map fun _ => 8, ty * 64 + 63, vs.flatMap srcCounts)
  else
    let (codes, counts) := convElems (fun d v => roundValQ4 ty e mode d v) vs ds
    (codes, ty * 64 + e, counts)

/-- Replace side byte k. -/
def setSide (side : BitVec 32) (k b : Nat) : BitVec 32 :=
  (side &&& ~~~((0xFF : BitVec 32) <<< (8 * k))) ||| (BitVec.ofNat 32 b <<< (8 * k))

def chkQblk (c : Cmd) (iss : Issue) (s : State) : Except Stop Unit := do
  checkBlocks c [c.s1, c.s2] iss s
  need ((s.block iss c c.s2).all fun v => (v.tag == 2 || v.tag == 3) && (convSrc c == 0 || v.tag == convSrc c)) .formatMismatch

/-- The effect of `qblk`: each source register makes block `part` of its destination; the other blocks keep their bits. -/
def effQblk (c : Cmd) (iss : Issue) (s : State) : Except Stop State :=
  let src := s.block iss c c.s2
  let old := s.block iss c c.s1
  let part := immN c.s3
  let (ds, s) := s.takeDraws iss.tile (convMode c) (32 * src.length)
  let rs := ((old.zip src).zip (chunks (src.map fun _ => 32) ds)).map fun ((d, v), dr) =>
    let (codes, side, counts) := quantBlock (convType c) (convMode c) (vals v.tag v) dr
    (({ data := packFields 4 (overlay (fields 4 d.data) (32 * part) codes), side := setSide d.side part side, tag := 6 } : VReg), counts)
  .ok (s.putRegs iss (blockRegs c (slotV c.s1)) (rs.map (·.1)) (rs.flatMap (·.2)))

/-- `qblk.T.S.mode vd, vs, part` (R109). -/
def execQblk (c : Cmd) (s : State) : Out := issueCommand (.qblk c) c [] (chkQblk c) (effQblk c) s

def chkDqblk (c : Cmd) (iss : Issue) (s : State) : Except Stop Unit := do
  checkBlocks c [c.s1, c.s2] iss s
  need ((s.block iss c c.s2).all fun v => v.tag == 6) .formatMismatch

/-- The effect of `dqblk`: part selects a block, or 16 elements for f32. -/
def effDqblk (c : Cmd) (iss : Issue) (s : State) : Except Stop State :=
  let src := s.block iss c c.s2
  let n := tagCount c.tag
  let (ds, s) := s.takeDraws iss.tile (convMode c) (n * src.length)
  let rs := (src.zip (chunks (src.map fun _ => n) ds)).map fun (v, dr) =>
    let (codes, counts) := convElems (fun d v => roundVal c.tag (convMode c) false d false v) (((vals 6 v).drop (n * immN c.s3)).take n) dr
    (mkReg c.tag codes, counts)
  .ok (s.putRegs iss (blockRegs c (slotV c.s1)) (rs.map (·.1)) (rs.flatMap (·.2)))

/-- `dqblk.D.mode vd, vs, part` (R111). -/
def execDqblk (c : Cmd) (s : State) : Out := issueCommand (.dqblk c) c [] (chkDqblk c) (effDqblk c) s

/-! ## pack6 and unpk6 (R104, R112) -/

def chkTag (c : Cmd) (t : BitVec 5) (iss : Issue) (s : State) : Except Stop Unit := do
  checkBlocks c [c.s1, c.s2] iss s
  need ((s.block iss c c.s2).all fun v => v.tag == t) .formatMismatch

/-- Sixteen 24-bit groups of four q6 elements, in bytes 0 to 47; the rest is 0. -/
def packSix (v : VReg) : VReg :=
  { data := BitVec.ofNat 512 (((fields 8 v.data).map (· % 64)).foldr (fun x acc => x + 64 * acc) 0), side := 0, tag := 0x11 }
/-- The 64 elements of the groups, one per byte. -/
def unpackSix (v : VReg) : VReg :=
  { data := packFields 8 ((List.range 64).map fun i => v.data.toNat / 2 ^ (6 * i) % 64), side := 0, tag := 7 }

def effMapRegs (f : VReg → VReg) (c : Cmd) (iss : Issue) (s : State) : Except Stop State :=
  .ok (s.putRegs iss (blockRegs c (slotV c.s1)) ((s.block iss c c.s2).map f) [])

/-- `pack6 vd, vs`. -/
def execPack6 (c : Cmd) (s : State) : Out := issueCommand (.pack6 c) c [] (chkTag c 7) (effMapRegs packSix c) s
/-- `unpk6 vd, vs`. -/
def execUnpk6 (c : Cmd) (s : State) : Out := issueCommand (.unpk6 c) c [] (chkTag c 0x11) (effMapRegs unpackSix c) s

/-! ## fal.fill, fal.test, tag.set (R113 to R115) -/

def chkFalFill (c : Cmd) (iss : Issue) (s : State) : Except Stop Unit := do
  checkBlocks c [c.s1] iss s
  need ((s.block iss c c.s1).all fun v => v.tag == c.tag) .formatMismatch

/-- One register of `fal.fill`: ordinal r, the range [lo, hi]. -/
def fillReg (t : BitVec 5) (lo hi r : Nat) (v : VReg) : VReg :=
  let n := tagCount t
  let hit := fun i => decide (lo ≤ r * n + i) && decide (r * n + i ≤ hi)
  let data := packFields (tagWidth t) ((elems t v).zipIdx.map fun (x, i) => if hit i then fallowCode t else x)
  let side : BitVec 32 :=
    if t = 6 then
      (List.range 4).foldl (fun sd k =>
        if (List.range 32).all fun j => hit (32 * k + j) then setSide sd k (sideByte v k / 64 * 64 + 63) else sd) v.side
    else v.side
  { v with data, side }

def effFalFill (c : Cmd) (iss : Issue) (s : State) : Except Stop State :=
  let lo := iss.xOrImm c.s2 0
  let hi := iss.xOrImm c.s3 0
  .ok (s.putRegs iss (blockRegs c (slotV c.s1)) ((s.block iss c c.s1).zipIdx.map fun (v, r) => fillReg c.tag lo hi r v) [])

/-- `fal.fill.fmt vd, lo, hi`. -/
def execFalFill (c : Cmd) (s : State) : Out := issueCommand (.falFill c) c [] (chkFalFill c) (effFalFill c) s

/-- The number of present elements of a register. -/
def presentCount (t : BitVec 5) (v : VReg) : Nat := ((vals t v).filter (· != .fallow)).length

def chkFalTest (c : Cmd) (iss : Issue) (s : State) : Except Stop Unit := do
  checkBlocks c [c.s2] iss s
  let t ← checkTags c (s.block iss c c.s2)
  need (t != 0x11) .formatMismatch

/-- Write an x register of the issuing task. -/
def State.retX (s : State) (iss : Issue) (r : XReg) (v : Word) : State :=
  if s.alive iss then s.modSlot iss.tile iss.slot (·.setX r v) else s
/-- Write a predicate of the issuing task. -/
def State.retP (s : State) (iss : Issue) (r : PReg) (v : Bool) : State :=
  if s.alive iss then s.modSlot iss.tile iss.slot (·.setP r v) else s

def effFalTest (c : Cmd) (iss : Issue) (s : State) : Except Stop State :=
  let src := s.block iss c c.s2
  let t := if c.tag = 0 then (src.head?.map (·.tag)).getD 0 else c.tag
  let n := (src.map (presentCount t)).sum
  let s := s.retX iss (slotX c.s1) (w64 n)
  .ok (if c.s3 = 0 then s else s.retP iss (c.s3.extractLsb' 0 3) (decide (0 < n)))

/-- `fal.test.fmt xd, vs[, pN]`. -/
def execFalTest (c : Cmd) (s : State) : Out := issueCommand (.falTest c) c [] (chkFalTest c) (effFalTest c) s

def chkTagSet (c : Cmd) (iss : Issue) (s : State) : Except Stop Unit := checkBlocks c [c.s1] iss s
def effTagSet (c : Cmd) (iss : Issue) (s : State) : Except Stop State :=
  .ok (s.putRegs iss (blockRegs c (slotV c.s1)) ((s.block iss c c.s1).map fun v => { v with tag := c.tag }) [])

/-- `tag.set.fmt vd`. -/
def execTagSet (c : Cmd) (s : State) : Out := issueCommand (.tagSet c) c [] (chkTagSet c) (effTagSet c) s

end Sys2Proof.Machine
end

