-- ==== Sys2Proof/Machine/Lane.lean ====
section
/-! DEFINITION. The command-mode lane classes 0x0 and 0x1 (R118 to R135, R143, R146): stages and fusing, element-wise commands,
special functions, reductions, drains and scans. A command's result is written when it issues (R45, R53: no later command sees
anything else); its stage frees with LANE_STAGE_RESULT. -/
namespace Sys2Proof.Machine
open Sys2Proof

/-- Control fields of classes 0x0 and 0x1 (R123). -/
def ctlMode (c : Cmd) : Nat := (c.s5.extractLsb' 0 3).toNat
def ctlDecide (c : Cmd) : Bool := c.s5.getLsbD 3
def ctlFree (c : Cmd) : Bool := c.s5.getLsbD 4
def ctlSel (c : Cmd) : Nat := (c.s5.extractLsb' 5 3).toNat
def ctlClear (c : Cmd) : Bool := c.s5.getLsbD 8

/-! ## Stages (R119, R120) -/

/-- The stage of a chained command that fuses behind the command its task issued before it: that one is of class 0x0 or 0x1, still holds
its stage, wrote the block slot 2 names with the same extent, and a stage exists above it. -/
def fuses (c : Cmd) (iss : Issue) (s : State) : Option (Fin 6) :=
  match iss.prev with
  | some l =>
    if c.chain = 1 ∧ l.isLane ∧ c.s2 = l.dst ∧ c.eh = l.eh ∧ c.ew = l.ew then
      ((List.finRange 6).find? fun i => (s.tile iss.tile).stages[i] == some l.no).bind fun i =>
        if h : i.val + 1 < 6 then some ⟨i.val + 1, h⟩ else none
    else none
  | none => none

/-- The stage a command takes: behind its predecessor, the one it selects, or the lowest free one; it blocks while that is busy or
a `vrun` holds the array. -/
def pickStage (c : Cmd) (iss : Issue) (s : State) : Except Stop (Fin 6) :=
  let T := s.tile iss.tile
  if T.stream.isSome then .error (.block .engineBusy)
  else
    let want : Option (Fin 6) :=
      match fuses c iss s with
      | some st => some st
      | none =>
        if c.stall = 0 then (List.finRange 6).find? fun i => T.stages[i].isNone
        else if h : c.stall.toNat - 1 < 6 then some ⟨c.stall.toNat - 1, h⟩ else none
    match want with
    | some st => if T.stages[st].isSome then .error (.block .engineBusy) else .ok st
    | none => .error (.block .engineBusy)

/-- Elements of a die in timing-margin mode replay some of a command's tokens, how many is a free value up to all of them (R144).
Assumption 45 (DESIGN CHOICE). -/
def State.replays (s : State) (iss : Issue) (tokens : Nat) : State :=
  if s.dies[dieOf iss.tile].margin then
    let (f, s) := s.draw
    s.bump iss 8 (f.toNat % (tokens + 1))
  else s

/-- Hold a stage, and count a chained command that did not fuse (R41).
Assumption 21 (DEDUCED). -/
def takeStage (c : Cmd) (iss : Issue) (st : Fin 6) (s : State) : State :=
  let s := s.replays iss (16 * (blockRegs c 0).length)
  let fused := (fuses c iss s).isSome
  let s := if c.chain = 1 ∧ fused = false then s.setStat iss 16 else s
  (s.modTile iss.tile fun T => { T with stages := T.stages.set st (some iss.no) }).post .laneStageResult { tile := iss.tile, unit := st.val }

/-- LANE_STAGE_RESULT (R146): a stage frees. -/
def execLaneStageResult (s : State) : Out :=
  happening .laneStageResult (fun s =>
    if h : s.focus.unit < 6 then
      if s.here.stages[s.focus.unit].isSome then
        some (s.modTile s.focus.tile fun T => { T with stages := T.stages.set s.focus.unit none })
      else none
    else none) s

/-! ## Operands (R122, R124) -/

/-- Formats of groups A, B and C, and of the scan. -/
def inGroupA (t : BitVec 5) : Bool := tagFloat t || tagInt t
def inGroupB (t : BitVec 5) : Bool := tagInt t || t == 0x11
def inGroupC (t : BitVec 5) : Bool := t != 0 && t != 7 && t != 6
def inScan (t : BitVec 5) : Bool := inGroupA t && t != 0x10

/-- The format of a lane command from its tag field or its first v source. -/
def laneFmt (c : Cmd) (srcs : List (BitVec 16)) (iss : Issue) (s : State) : BitVec 5 :=
  if c.tag = 0 then (((srcs.filter isV).flatMap (s.block iss c)).head?.map (·.tag)).getD 0 else c.tag

/-- The checks of a lane command (R67): extent, tags, group, its own; then a stage. `blocks` are all its v slots, `srcs` those the tag
check reads. -/
def chkLane (c : Cmd) (blocks srcs : List (BitVec 16)) (group : BitVec 5 → Bool)
    (own : BitVec 5 → Issue → State → Except Stop Unit) (iss : Issue) (s : State) : Except Stop Unit := do
  checkBlocks c blocks iss s
  let t := laneFmt c srcs iss s
  need (t != 0 && (((srcs.filter isV).flatMap (s.block iss c)).all fun v => v.tag == t) && group t) .formatMismatch
  need (!tagInt t || ctlMode c == 0) .illegalField
  own t iss s
  let _ ← pickStage c iss s

/-- No further check. -/
def noMore : BitVec 5 → Issue → State → Except Stop Unit := fun _ _ _ => .ok ()

/-- The code an x register or an immediate supplies to every element, as a pattern (group B, x operands). -/
def scalarCode (t : BitVec 5) (iss : Issue) (slot : BitVec 16) : Nat :=
  if isX slot then (iss.getX (slotX slot)).toNat % 2 ^ tagWidth t else (sx (slotVal slot)).toNat % 2 ^ tagWidth t
where sx (v : BitVec 14) : Word := v.signExtend 64

/-- The value an x register or an immediate supplies in group A: an integer immediate enters as it stands, a float one is converted
under rne. -/
def scalarVal (t : BitVec 5) (iss : Issue) (slot : BitVec 16) : Val :=
  if isX slot then decodeVal t (scalarCode t iss slot)
  else
    let v : Val := .fin (decide (immI slot < 0)) (immI slot).natAbs 0
    if tagInt t then v else decodeVal t (roundVal t 0 false 0 false v).code

/-- The values of an operand, register by register. -/
def opVals (t : BitVec 5) (c : Cmd) (iss : Issue) (s : State) (slot : BitVec 16) : List (List Val) :=
  if isV slot then (s.block iss c slot).map (vals t)
  else (blockRegs c 0).map fun _ => List.replicate (tagCount t) (scalarVal t iss slot)

/-- The patterns of an operand, register by register. -/
def opCodes (t : BitVec 5) (c : Cmd) (iss : Issue) (s : State) (slot : BitVec 16) : List (List Nat) :=
  if isV slot then (s.block iss c slot).map (elems t)
  else (blockRegs c 0).map fun _ => List.replicate (tagCount t) (scalarCode t iss slot)

/-- Turn lists per operand into one list per element. -/
def zipAll {α : Type} : List (List α) → List (List α)
  | [] => []
  | [l] => l.map ([·])
  | l :: ls => (l.zip (zipAll ls)).map fun (x, xs) => x :: xs

/-- SAT of an integer result: a saturated one counts in SAT only (R126). -/
def laneCounts (t : BitVec 5) (l : List Nat) : List Nat := if tagInt t then l.filter (· == 0) else l

/-- What the source elements of a lane command raise (R117, R145): 3 for a fallow one, 4 for a NaN; bits carry neither.
Assumption 159 (DEDUCED). -/
def sourceMarks (t : BitVec 5) (regs : List VReg) : List Nat := regs.flatMap fun v => (vals t v).flatMap srcCounts
/-- The registers of a command's v sources. -/
def srcRegs (slots : List (BitVec 16)) (c : Cmd) (iss : Issue) (s : State) : List VReg := (slots.filter isV).flatMap (s.block iss c)

/-- One result register of a group A command: `f` on the values of each element, rounded once with its draw (R125 to R127), and what R127
counts of the results. -/
def laneReg (t : BitVec 5) (mode : Nat) (f : List Val → Val × Bool) (ops : List (List Val)) (ds : List Nat) : VReg × List Nat :=
  let rs := (ops.zip ds).map fun (vs, d) =>
    if vs.any (fun v => v == Val.fallow) then (⟨fallowCode t, []⟩ : Rounded)
    else let (v, st) := f vs; roundVal t mode false d st v
  (mkReg t (rs.map (·.code)), laneCounts t (rs.flatMap (·.counts)))

/-- The effect of a group A command over its block. -/
def effArith (f : Nat → List Val → Val × Bool) (slots : List (BitVec 16)) (refine : List Nat → Nat) (c : Cmd) (iss : Issue)
    (s : State) : Except Stop State := do
  let st ← pickStage c iss s
  let t := laneFmt c slots iss s
  let n := tagCount t
  let regs := zipAll (slots.map (opVals t c iss s))
  let codes := zipAll (slots.map fun sl => if isV sl then opCodes t c iss s sl else
    (blockRegs c 0).map fun _ => List.replicate n (roundVal t 0 false 0 false (scalarVal t iss sl)).code)
  let marks := sourceMarks t (srcRegs slots c iss s)
  let (ds, s) := s.takeDraws iss.tile (ctlMode c) (n * regs.length)
  let rs := (regs.zip (chunks (regs.map fun _ => n) ds)).map fun (ops, dr) => laneReg t (ctlMode c) (f (ctlMode c)) (zipAll ops) dr
  let hits := if ctlDecide c && !tagInt t then ((codes.flatMap zipAll).map refine).sum else 0
  .ok ((takeStage c iss st (s.putRegs iss (blockRegs c (slotV c.s1)) (rs.map (·.1)) (marks ++ rs.flatMap (·.2)))).bump iss cRefine hits)

/-- No coarse decision. -/
def noRefine : List Nat → Nat := fun _ => 0

/-- First, second and third operand. -/
def arg (l : List Val) (i : Nat) : Val := l.getD i .nan

/-! ## Element-wise commands (R125 to R129) -/

def fAdd (m : Nat) (l : List Val) : Val × Bool := (exactAdd m (arg l 0) (arg l 1), false)
def fSub (m : Nat) (l : List Val) : Val × Bool := (exactAdd m (arg l 0) (negVal (arg l 1)), false)
def fMul (_ : Nat) (l : List Val) : Val × Bool := (exactMul (arg l 0) (arg l 1), false)
def fFma (m : Nat) (l : List Val) : Val × Bool := (exactAdd m (exactMul (arg l 0) (arg l 1)) (arg l 2), false)
def fFms (m : Nat) (l : List Val) : Val × Bool := (exactAdd m (exactMul (arg l 0) (arg l 1)) (negVal (arg l 2)), false)
def fMin (_ : Nat) (l : List Val) : Val × Bool := (minVal (arg l 0) (arg l 1), false)
def fMax (_ : Nat) (l : List Val) : Val × Bool := (maxVal (arg l 0) (arg l 1), false)
def fAbs (_ : Nat) (l : List Val) : Val × Bool := (absVal (arg l 0), false)
def fNeg (_ : Nat) (l : List Val) : Val × Bool := (negVal (arg l 0), false)
/-- min(max(a, lo), hi); hi when lo > hi. -/
def fClamp (_ : Nat) (l : List Val) : Val × Bool := (minVal (maxVal (arg l 0) (arg l 1)) (arg l 2), false)

/-- The coarse key of a float code (R143): sign, exponent and top fraction bit. -/
def coarseKey (t : BitVec 5) (c : Nat) : Nat := match floatFmt t with | some f => c / 2 ^ (f.frac - 1) | none => c
/-- Whether a coarse decision between two present codes is refined. -/
def refines (t : BitVec 5) (a b : Nat) : Nat :=
  if presentBits t a && presentBits t b && coarseKey t a == coarseKey t b then 1 else 0
def refine2 (t : BitVec 5) (l : List Nat) : Nat := refines t (l.getD 0 0) (l.getD 1 0)
/-- A clamp compares with lo, then with hi.
Assumption 136 (DEDUCED). -/
def refineClamp (t : BitVec 5) (l : List Nat) : Nat :=
  let a := l.getD 0 0
  let lo := l.getD 1 0
  let hi := l.getD 2 0
  if presentBits t a && presentBits t lo && presentBits t hi then
    refines t a lo + refines t (roundVal t 0 false 0 false (maxVal (decodeVal t a) (decodeVal t lo))).code hi
  else 0

/-- A two-operand group A command. -/
def runArith2 (i : Instr) (f : Nat → List Val → Val × Bool) (c : Cmd) (s : State) : Out :=
  issueCommand i c [] (chkLane c [c.s1, c.s2, c.s3] [c.s2, c.s3] inGroupA noMore)
    (effArith f [c.s2, c.s3] (refine2 (laneFmt c [c.s2, c.s3] s.issue s)) c) s
/-- Effects by entry, shared with the release of a clause. -/
def eff2 (f : Nat → List Val → Val × Bool) (c : Cmd) (iss : Issue) (s : State) : Except Stop State :=
  effArith f [c.s2, c.s3] (refine2 (laneFmt c [c.s2, c.s3] iss s)) c iss s
def eff3 (f : Nat → List Val → Val × Bool) (c : Cmd) (iss : Issue) (s : State) : Except Stop State :=
  effArith f [c.s2, c.s3, c.s4] (refineClamp (laneFmt c [c.s2, c.s3, c.s4] iss s)) c iss s
def eff1 (f : Nat → List Val → Val × Bool) (c : Cmd) (iss : Issue) (s : State) : Except Stop State :=
  effArith f [c.s2] noRefine c iss s
def chk2 (c : Cmd) : Issue → State → Except Stop Unit := chkLane c [c.s1, c.s2, c.s3] [c.s2, c.s3] inGroupA noMore
def chk3 (c : Cmd) : Issue → State → Except Stop Unit := chkLane c [c.s1, c.s2, c.s3, c.s4] [c.s2, c.s3, c.s4] inGroupA noMore
def chk1 (c : Cmd) (group : BitVec 5 → Bool) : Issue → State → Except Stop Unit := chkLane c [c.s1, c.s2] [c.s2] group noMore

/-- `vadd.fmt vd, va, vb`. -/
def execVadd (c : Cmd) (s : State) : Out := issueCommand (.vadd c) c [] (chk2 c) (eff2 fAdd c) s
/-- `vsub`. -/
def execVsub (c : Cmd) (s : State) : Out := issueCommand (.vsub c) c [] (chk2 c) (eff2 fSub c) s
/-- `vmul`. -/
def execVmul (c : Cmd) (s : State) : Out := issueCommand (.vmul c) c [] (chk2 c) (eff2 fMul c) s
/-- `vfma vd, va, vb, vc`. -/
def execVfma (c : Cmd) (s : State) : Out := issueCommand (.vfma c) c [] (chk3 c) (eff3 fFma c) s
/-- `vfms`. -/
def execVfms (c : Cmd) (s : State) : Out := issueCommand (.vfms c) c [] (chk3 c) (eff3 fFms c) s
/-- `vmin`. -/
def execVmin (c : Cmd) (s : State) : Out := issueCommand (.vmin c) c [] (chk2 c) (eff2 fMin c) s
/-- `vmax`. -/
def execVmax (c : Cmd) (s : State) : Out := issueCommand (.vmax c) c [] (chk2 c) (eff2 fMax c) s
/-- `vabs vd, va`. -/
def execVabs (c : Cmd) (s : State) : Out := issueCommand (.vabs c) c [] (chk1 c inGroupA) (eff1 fAbs c) s
/-- Formats `vneg` takes: it refuses n and crd (R124). -/
def negGroup (t : BitVec 5) : Bool := inGroupA t && !tagUnsigned t
/-- `vneg vd, va`. -/
def execVneg (c : Cmd) (s : State) : Out := issueCommand (.vneg c) c [] (chk1 c negGroup) (eff1 fNeg c) s
/-- `vclamp vd, va, lo, hi`. -/
def execVclamp (c : Cmd) (s : State) : Out := issueCommand (.vclamp c) c [] (chk3 c) (eff3 fClamp c) s

/-- The effect of a group B command: `f` on the patterns (R125). -/
def effBits (f : Nat → Nat → Nat → Nat) (slots : List (BitVec 16)) (c : Cmd) (iss : Issue) (s : State) : Except Stop State := do
  let st ← pickStage c iss s
  let t := laneFmt c slots iss s
  let w := tagWidth t
  let regs := zipAll (slots.map (opCodes t c iss s))
  let rs := regs.map fun ops => mkReg t ((zipAll ops).map fun l =>
    if l.all (presentBits t) then f w (l.getD 0 0) (l.getD 1 0) % 2 ^ w else fallowCode t)
  .ok (takeStage c iss st (s.putRegs iss (blockRegs c (slotV c.s1)) rs (sourceMarks t (srcRegs slots c iss s))))

/-- Arithmetic right shift of a w-bit pattern. -/
def sraBits (w a n : Nat) : Nat := if a < 2 ^ (w - 1) then a / 2 ^ n else 2 ^ w - 1 - (2 ^ w - 1 - a) / 2 ^ n
/-- A shift amount: b[log2 w − 1 : 0]. -/
def bitsOp2 (c : Cmd) (f : Nat → Nat → Nat → Nat) : Issue → State → Except Stop State := effBits f [c.s2, c.s3] c
def chkBits2 (c : Cmd) : Issue → State → Except Stop Unit := chkLane c [c.s1, c.s2, c.s3] [c.s2, c.s3] inGroupB noMore
/-- An immediate shift lies from 0 to w − 1 (R122).
Assumption 138 (DEDUCED). -/
def shiftLimit (c : Cmd) (t : BitVec 5) (_ : Issue) (_ : State) : Except Stop Unit :=
  need (!isImm c.s3 || decide (immN c.s3 < tagWidth t)) .illegalField
def chkShift (c : Cmd) : Issue → State → Except Stop Unit := chkLane c [c.s1, c.s2, c.s3] [c.s2, c.s3] inGroupB (shiftLimit c)

def bAnd (_ a b : Nat) : Nat := a &&& b
def bOr (_ a b : Nat) : Nat := a ||| b
def bXor (_ a b : Nat) : Nat := a ^^^ b
def bNot (w a _ : Nat) : Nat := 2 ^ w - 1 - a
def bShl (w a b : Nat) : Nat := a * 2 ^ (b % w)
def bShr (w a b : Nat) : Nat := a / 2 ^ (b % w)
def bSra (w a b : Nat) : Nat := sraBits w a (b % w)

/-- `vand`, `vor`, `vxor`, `vnot`, `vshl`, `vshr`, `vsra`. -/
def execVand (c : Cmd) (s : State) : Out := issueCommand (.vand c) c [] (chkBits2 c) (bitsOp2 c bAnd) s
def execVor (c : Cmd) (s : State) : Out := issueCommand (.vor c) c [] (chkBits2 c) (bitsOp2 c bOr) s
def execVxor (c : Cmd) (s : State) : Out := issueCommand (.vxor c) c [] (chkBits2 c) (bitsOp2 c bXor) s
def execVnot (c : Cmd) (s : State) : Out := issueCommand (.vnot c) c [] (chk1 c inGroupB) (effBits bNot [c.s2] c) s
def execVshl (c : Cmd) (s : State) : Out := issueCommand (.vshl c) c [] (chkShift c) (bitsOp2 c bShl) s
def execVshr (c : Cmd) (s : State) : Out := issueCommand (.vshr c) c [] (chkShift c) (bitsOp2 c bShr) s
def execVsra (c : Cmd) (s : State) : Out := issueCommand (.vsra c) c [] (chkShift c) (bitsOp2 c bSra) s

/-- A condition of `vcmp` on present values (R128): with a NaN only `ne` is true. -/
def cmpVals (sel : Nat) (a b : Val) : Bool :=
  if a = .nan ∨ b = .nan then sel == 1
  else
    match sel with
    | 0 => eqVal a b
    | 1 => !eqVal a b
    | 2 => ltVal false a b
    | 3 => !ltVal false b a
    | 4 => ltVal false b a
    | _ => !ltVal false a b

/-- The effect of `vcmp`: a bits mask; a compare with a fallow operand is false and counts in ABS_CMP. -/
def effVcmp (c : Cmd) (iss : Issue) (s : State) : Except Stop State := do
  let st ← pickStage c iss s
  let t := laneFmt c [c.s2, c.s3] iss s
  let pairs := (opVals t c iss s c.s2).zip (opVals t c iss s c.s3)
  let outs := pairs.map fun (a, b) => (a.zip b).map fun (x, y) =>
    if x = Val.fallow ∨ y = Val.fallow then (false, 1) else (cmpVals (ctlSel c) x y, 0)
  let rs := outs.map fun l => ({ data := packFields 1 ((l.take 64).map fun (b, _) => if b then 1 else 0), side := 0, tag := 0x11 } : VReg)
  let absent := (outs.flatMap fun l => l.map (·.2)).sum
  let n := tagCount t
  let codesB := if isV c.s3 then opCodes t c iss s c.s3 else
    (blockRegs c 0).map fun _ => List.replicate n (roundVal t 0 false 0 false (scalarVal t iss c.s3)).code
  let hits := if ctlDecide c && !tagInt t then
    (((opCodes t c iss s c.s2).zip codesB).flatMap fun (a, b) => (a.zip b).map fun (x, y) => refines t x y).sum else 0
  let marks := sourceMarks t (srcRegs [c.s2, c.s3] c iss s)
  .ok (((takeStage c iss st (s.putRegs iss (blockRegs c (slotV c.s1)) rs marks)).bump iss cAbsCmp absent).bump iss cRefine hits)

/-- `vcmp.cond.fmt vd, va, vb`. -/
def execVcmp (c : Cmd) (s : State) : Out := issueCommand (.vcmp c) c [] (chk2 c) (effVcmp c) s

/-- Write result registers of a move and hold its stage. -/
def effMove (f : BitVec 5 → Issue → State → List VReg) (srcs : List (BitVec 16)) (c : Cmd) (iss : Issue) (s : State) :
    Except Stop State := do
  let st ← pickStage c iss s
  .ok (takeStage c iss st (s.putRegs iss (blockRegs c (slotV c.s1)) (f (laneFmt c srcs iss s) iss s) []))

/-- The mask of `vsel` carries bits (R124). -/
def chkVsel (c : Cmd) : Issue → State → Except Stop Unit :=
  chkLane c [c.s1, c.s2, c.s3, c.s4] [c.s2, c.s3] inGroupC fun _ iss s =>
    need ((s.block iss c c.s4).all fun v => v.tag == 0x11) .formatMismatch
def moveVsel (c : Cmd) (t : BitVec 5) (iss : Issue) (s : State) : List VReg :=
  (((s.block iss c c.s2).zip (s.block iss c c.s3)).zip (s.block iss c c.s4)).map fun ((a, b), m) =>
    mkReg t (((elems t a).zip (elems t b)).zipIdx.map fun ((x, y), i) => if m.data.getLsbD i then x else y)
/-- `vsel.fmt vd, va, vb, vm`. -/
def execVsel (c : Cmd) (s : State) : Out := issueCommand (.vsel c) c [] (chkVsel c) (effMove (moveVsel c) [c.s2, c.s3] c) s

/-- `vmov` takes q4 too. -/
def movGroup (t : BitVec 5) : Bool := inGroupC t || t == 6
/-- `vmov vd, va`: data, side word and tag. -/
def execVmov (c : Cmd) (s : State) : Out :=
  issueCommand (.vmov c) c [] (chk1 c movGroup) (effMove (fun _ iss s => s.block iss c c.s2) [c.s2] c) s

/-- `vbcast`: element j of a register, j below n; or the x pattern. -/
def chkVbcast (c : Cmd) : Issue → State → Except Stop Unit :=
  chkLane c [c.s1, c.s2] [c.s2] inGroupC fun t _ _ => need (isX c.s2 || decide (immN c.s3 < tagCount t)) .illegalField
def moveVbcast (c : Cmd) (t : BitVec 5) (iss : Issue) (s : State) : List VReg :=
  if isX c.s2 then (blockRegs c 0).map fun _ => mkReg t (List.replicate (tagCount t) (scalarCode t iss c.s2))
  else (s.block iss c c.s2).map fun v => mkReg t (List.replicate (tagCount t) ((elems t v).getD (immN c.s3) 0))
/-- `vbcast.fmt vd, va, j` and `vbcast.fmt vd, xs`. -/
def execVbcast (c : Cmd) (s : State) : Out := issueCommand (.vbcast c) c [] (chkVbcast c) (effMove (moveVbcast c) [c.s2] c) s

/-- The index register of `vperm` carries n8, n16 or n32 and holds at least n elements. -/
def chkVperm (c : Cmd) : Issue → State → Except Stop Unit :=
  chkLane c [c.s1, c.s2, c.s3] [c.s2] inGroupC fun t iss s =>
    need ((s.block iss c c.s3).all fun v => (v.tag == 12 || v.tag == 13 || v.tag == 14) && decide (tagCount t ≤ tagCount v.tag))
      .formatMismatch
def moveVperm (c : Cmd) (t : BitVec 5) (iss : Issue) (s : State) : List VReg :=
  ((s.block iss c c.s2).zip (s.block iss c c.s3)).map fun (a, ix) =>
    let es := elems t a
    mkReg t (((elems ix.tag ix).take (tagCount t)).map fun j =>
      if presentBits ix.tag j && decide (j < tagCount t) then es.getD j 0 else fallowCode t)
/-- `vperm vd, va, vidx`. -/
def execVperm (c : Cmd) (s : State) : Out := issueCommand (.vperm c) c [] (chkVperm c) (effMove (moveVperm c) [c.s2] c) s

/-- `vshf`: what lies beyond the register's ends is fallow, however far an x operand reaches.
Assumption 154 (DEDUCED). -/
def moveVshf (c : Cmd) (t : BitVec 5) (iss : Issue) (s : State) : List VReg :=
  let k : Int := if isX c.s3 then (iss.getX (slotX c.s3)).toInt else immI c.s3
  (s.block iss c c.s2).map fun v =>
    let es := elems t v
    mkReg t ((List.range (tagCount t)).map fun i =>
      let j : Int := Int.ofNat i + k
      if 0 ≤ j ∧ j < tagCount t then es.getD j.toNat 0 else fallowCode t)
/-- `vshf vd, va, k`. -/
def execVshf (c : Cmd) (s : State) : Out :=
  issueCommand (.vshf c) c [] (chk1 c inGroupC) (effMove (moveVshf c) [c.s2] c) s

/-! ## Special functions (R130) -/

def fSpecial (f : Special) (_ : Nat) (l : List Val) : Val × Bool := specialVal f (arg l 0)
/-- `vrcp`, `vrsq`, `vsqrt`, `vexp2`, `vlog2`, `vtanh`, `vsgm`, `vsin`. -/
def execVrcp (c : Cmd) (s : State) : Out := issueCommand (.vrcp c) c [] (chk1 c tagFloat) (eff1 (fSpecial .rcp) c) s
def execVrsq (c : Cmd) (s : State) : Out := issueCommand (.vrsq c) c [] (chk1 c tagFloat) (eff1 (fSpecial .rsq) c) s
def execVsqrt (c : Cmd) (s : State) : Out := issueCommand (.vsqrt c) c [] (chk1 c tagFloat) (eff1 (fSpecial .sqrt) c) s
def execVexp2 (c : Cmd) (s : State) : Out := issueCommand (.vexp2 c) c [] (chk1 c tagFloat) (eff1 (fSpecial .exp2) c) s
def execVlog2 (c : Cmd) (s : State) : Out := issueCommand (.vlog2 c) c [] (chk1 c tagFloat) (eff1 (fSpecial .log2) c) s
def execVtanh (c : Cmd) (s : State) : Out := issueCommand (.vtanh c) c [] (chk1 c tagFloat) (eff1 (fSpecial .tanh) c) s
def execVsgm (c : Cmd) (s : State) : Out := issueCommand (.vsgm c) c [] (chk1 c tagFloat) (eff1 (fSpecial .sgm) c) s
def execVsin (c : Cmd) (s : State) : Out := issueCommand (.vsin c) c [] (chk1 c tagFloat) (eff1 (fSpecial .sin) c) s

/-! ## Reductions (R131, R132, R135) -/

/-- comb: the operation rounded to f32 under rne, with the number of inexact combinations (R131). -/
def comb (op : Nat) (a b : Val × Nat) : Val × Nat :=
  let v := match op with | 0 => exactAdd 0 a.1 b.1 | 1 => minVal a.1 b.1 | _ => maxVal a.1 b.1
  let r := roundVal 1 0 false 0 false v
  (decodeVal 1 r.code, a.2 + b.2 + if r.counts.contains 1 then 1 else 0)

/-- The identity of a reduction (R131). -/
def combId (op : Nat) : Val × Nat := (match op with | 0 => .fin true 0 0 | 1 => .inf false | _ => .inf true, 0)

/-- Combine neighbours. -/
def pairUp (op : Nat) : List (Val × Nat) → List (Val × Nat)
  | a :: b :: l => comb op a b :: pairUp op l
  | l => l
/-- Levels of the tree. -/
def treeLevels (op : Nat) : Nat → List (Val × Nat) → Val × Nat
  | 0, l => l.headD (combId op)
  | n + 1, l => treeLevels op n (pairUp op l)
/-- The canonical tree of R131: the contributors, padded with identities to a power of two; value and inexact combinations. -/
def canonTree (op : Nat) (l : List Val) : Val × Nat :=
  let depth := if l.length ≤ 1 then 0 else Nat.log2 (l.length - 1) + 1
  let l' := l.map fun v => if v = .fallow then combId op else (v, 0)
  treeLevels op depth (l' ++ List.replicate (2 ^ depth - l.length) (combId op))

/-- Any binary tree (R135): two of the values left, named by a free value, are combined until one is left.
Assumption 23 (DESIGN CHOICE). -/
def freeTree (op : Nat) : Nat → Nat → List (Val × Nat) → Val × Nat
  | 0, _, l => l.headD (combId op)
  | n + 1, d, l =>
    let r := (Config.freeWord d).toNat
    match l.eraseIdx (r % l.length), l[r % l.length]? with
    | [], some a => a
    | l', some a =>
      let j := r / l.length % l'.length
      freeTree op n (d + 1) (comb op a (l'.getD j (combId op)) :: l'.eraseIdx j)
    | _, none => combId op

/-- Contributors as f32 values: every element converts exactly (R132). -/
def redTags : List Nat := [1, 2, 3, 4, 5, 8, 9, 12, 13]
def redGroup (t : BitVec 5) : Bool := redTags.contains t.toNat

/-- Result of reducing contributors, with a starting value where the lane has one; the present count, the inexact combinations. -/
def reduceVals (free : Bool) (op d : Nat) (old : Option Val) (l : List Val) : Val × Nat × Nat :=
  let present := l.filter (· != .fallow)
  let (v, n) :=
    if free then
      let all := (present ++ old.toList).map fun v => (v, 0)
      freeTree op all.length d all
    else
      let t := canonTree op l
      match old with
      | some o => comb op (o, 0) t
      | none => t
  (v, present.length, n)

/-- A cell after m present contributors with a new value (R97): the count stops at 0xFF_FFFF, and the first contribution that would carry it
past is counted.
Assumption 22 (DEDUCED). -/
def Cell.grow (cell : Cell) (v : Val) (m : Nat) : Cell × Nat :=
  let past := decide (0xFFFFFF < cell.count.toNat + m)
  ({ value := BitVec.ofNat 32 (roundVal 1 0 false 0 false v).code, count := BitVec.ofNat 24 (min (cell.count.toNat + m) 0xFFFFFF)
     past := cell.past || past }, if past && !cell.past then 1 else 0)

/-- A cell after contributors (R132): unchanged without a present one. Inexact combinations, and whether the count would have passed its
limit for the first time (R97). -/
def accumCell (free : Bool) (op d : Nat) (cell : Cell) (l : List Val) : Cell × Nat × Nat :=
  let old := if cell.count = 0 then none else some (decodeVal 1 cell.value.toNat)
  let (v, m, n) := reduceVals free op d old l
  if m = 0 then (cell, 0, 0) else let (c, k) := cell.grow v m; (c, n, k)

/-- The elements of a block lying in lane L, in the order of their index k = r·e + j. -/
def laneVals (t : BitVec 5) (regs : List VReg) (L : Nat) : List Val :=
  let e := 32 / tagWidth t
  regs.flatMap fun v => ((vals t v).drop (L * e)).take e

/-- The effect of `vacc`: each lane of ad accumulates its elements. -/
def effVacc (c : Cmd) (iss : Issue) (s : State) : Except Stop State := do
  let st ← pickStage c iss s
  let t := laneFmt c [c.s2] iss s
  let regs := s.block iss c c.s2
  let ad := slotN c.s1
  let old := (s.tile iss.tile).a[ad]
  let rs := (List.finRange 16).map fun L => accumCell (ctlFree c) (ctlSel c) (s.draws + 4096 * L.val) old[L] (laneVals t regs L.val)
  let new := Vector.ofFn fun L : Fin 16 => ((rs.map (·.1)).getD L.val {})
  let s := { (s.modTile iss.tile fun T => { T with a := T.a.set ad new }) with draws := s.draws + if ctlFree c then 65536 else 0 }
  let s := s.bumpAll iss (sourceMarks t regs)
  .ok (takeStage c iss st ((s.bump iss cInexact (rs.map (·.2.1)).sum).bump iss cAccSat (rs.map (·.2.2)).sum))

/-- The effect of `vred`: the whole block into lane 0; the other lanes become +0.0 with count 0. -/
def effVred (c : Cmd) (iss : Issue) (s : State) : Except Stop State := do
  let st ← pickStage c iss s
  let t := laneFmt c [c.s2] iss s
  let regs := s.block iss c c.s2
  let l := regs.flatMap (vals t)
  let (cell, n, sat) := accumCell (ctlFree c) (ctlSel c) s.draws {} l
  let ad := slotN c.s1
  let s := { (s.modTile iss.tile fun T => { T with a := T.a.set ad ((Vector.replicate 16 ({} : Cell)).set 0 cell) }) with
    draws := s.draws + if ctlFree c then 8192 else 0 }
  let s := s.bumpAll iss (sourceMarks t regs)
  .ok (takeStage c iss st ((s.bump iss cInexact n).bump iss cAccSat sat))

def chkReduce (c : Cmd) : Issue → State → Except Stop Unit := chkLane c [c.s2] [c.s2] redGroup noMore
/-- `vred.op.fmt ad, va`. -/
def execVred (c : Cmd) (s : State) : Out := issueCommand (.vred c) c [] (chkReduce c) (effVred c) s
/-- `vacc.op.fmt ad, va`. -/
def execVacc (c : Cmd) (s : State) : Out := issueCommand (.vacc c) c [] (chkReduce c) (effVacc c) s

/-! ## Drains and scans (R133, R134) -/

/-- The fill of a drain: an x pattern, or an immediate converted under the drain's mode with the saturation of R108; none: fallow.
Assumption 137 (DEDUCED). -/
def fillCode (t : BitVec 5) (mode d : Nat) (iss : Issue) (slot : BitVec 16) : Rounded :=
  if slot = 0 then ⟨fallowCode t, []⟩
  else if isX slot then ⟨(iss.getX (slotX slot)).toNat % 2 ^ tagWidth t, []⟩
  else roundVal t mode true d false (.fin (decide (immI slot < 0)) (immI slot).natAbs 0)

/-- One drained cell (R133): value, mean or count. -/
def drainCell (t : BitVec 5) (kind mode : Nat) (iss : Issue) (fill : BitVec 16) (cell : Cell) (d : Nat) : Rounded :=
  if kind = 2 then ⟨cell.count.toNat, []⟩
  else if cell.count = 0 then fillCode t mode d iss fill
  else
    let v := decodeVal 1 cell.value.toNat
    -- a stored value is a number even where its bits are the fallow code (R51)
    match kind, v with
    | 1, .fin n m e => let (q, st) := quotient n m e cell.count.toNat; roundVal t mode false d st q
    | _, v => roundVal t mode false d false v

/-- The effect of `vdrn`: lane L into element L; elements 16 to 31 of a 16-bit format are fallow. -/
def effVdrn (c : Cmd) (iss : Issue) (s : State) : Except Stop State := do
  let st ← pickStage c iss s
  let t := c.tag
  let ad := slotN c.s2
  let cells := (s.tile iss.tile).a[ad].toList
  let (ds, s) := s.takeDraws iss.tile (if ctlSel c = 2 then 0 else ctlMode c) 16
  let rs := (cells.zip ds).map fun (cell, d) => drainCell t (ctlSel c) (ctlMode c) iss c.s4 cell d
  let l := rs.map (·.code) ++ List.replicate (tagCount t - 16) (fallowCode t)
  let s := s.putRegs iss [slotV c.s1] [mkReg t l] (rs.flatMap (·.counts))
  let s := if ctlClear c then s.modTile iss.tile fun T => { T with a := T.a.set ad (Vector.replicate 16 {}) } else s
  .ok (takeStage c iss st s)

/-- `vdrn` reads no v register, so it has no tag check. -/
def chkVdrn (c : Cmd) (iss : Issue) (s : State) : Except Stop Unit := do
  checkBlocks c [c.s1] iss s
  let _ ← pickStage c iss s
/-- `vdrn.kind.fmt vd, ad[, fill]`. -/
def execVdrn (c : Cmd) (s : State) : Out := issueCommand (.vdrn c) c [] (chkVdrn c) (effVdrn c) s

/-- One step of a scan: the running value and the element written, with its counters. The first present element is taken as it stands.
Assumption 169 (DEDUCED). -/
def scanStep (t : BitVec 5) (op mode : Nat) (excl : Bool) (acc : Option Nat) (x d : Nat) : Option Nat × Nat × List Nat :=
  let cur := fun (a : Option Nat) => a.getD (fallowCode t)
  let (acc', counts) : Option Nat × List Nat :=
    if presentBits t x then
      match acc with
      | none => (some x, [])
      | some a =>
        let va := decodeVal t a
        let vx := decodeVal t x
        let v := match op with | 0 => exactAdd mode va vx | 1 => minVal va vx | _ => maxVal va vx
        let r := roundVal t mode false d false v
        (some r.code, laneCounts t r.counts)
    else (acc, [])
  (acc', if excl then cur acc else cur acc', counts)

/-- The sequential scan over elements with their draws. -/
def scanList (t : BitVec 5) (op mode : Nat) (excl : Bool) : Option Nat → List (Nat × Nat) → List Nat × List Nat
  | _, [] => ([], [])
  | acc, (x, d) :: l =>
    let (acc', out, cs) := scanStep t op mode excl acc x d
    let (os, cs') := scanList t op mode excl acc' l
    (out :: os, cs ++ cs')

/-- The effect of `vscan` over the block in R44 order. -/
def effVscan (c : Cmd) (iss : Issue) (s : State) : Except Stop State := do
  let st ← pickStage c iss s
  let t := laneFmt c [c.s2] iss s
  let regs := s.block iss c c.s2
  let xs := regs.flatMap (elems t)
  let marks := sourceMarks t regs
  let (ds, s) := s.takeDraws iss.tile (ctlMode c) xs.length
  let (os, cs) := scanList t (ctlSel c % 4) (ctlMode c) (decide (4 ≤ ctlSel c)) none (xs.zip ds)
  let rs := (chunks (regs.map fun _ => tagCount t) os).map (mkReg t)
  .ok (takeStage c iss st (s.putRegs iss (blockRegs c (slotV c.s1)) rs (marks ++ cs)))

/-- `vscan.op.fmt vd, va`. -/
def execVscan (c : Cmd) (s : State) : Out := issueCommand (.vscan c) c [] (chk1 c inScan) (effVscan c) s

end Sys2Proof.Machine
end

