-- ==== Sys2Proof/Machine/Matrix.lean ====
section
/-! DEFINITION. The matrix class 0x4 (R148 to R172): planes, accumulators, the command queue, dense, structured and sparse rows, the
intersection unit, drains, pairs. A queued command holds its operands as they stood at queue entry; the head of the queue goes on one
row, fiber, flit or token at a time. -/
namespace Sys2Proof.Machine
open Sys2Proof

/-! ## Values of the array -/

/-- Weight w[k][j] of a plane (R153). -/
def Plane.weight (p : Plane) (k j : Nat) : Val :=
  let cell (k : Nat) : Nat := (p.data.extractLsb' (16 * (32 * k + j)) 16).toNat
  if p.tag = 6 then q4Val (cell k % 16) (cell 0 / 256)
  else decodeVal p.tag (cell k % 2 ^ tagWidth p.tag)

/-- Whether an activation tag and a plane tag may be multiplied (R154). -/
def pairsWith (act plane : BitVec 5) : Bool :=
  ((act == 2 || act == 3 || act == 8 || act == 6) && plane == act) || ((act == 4 || act == 5) && (plane == 4 || plane == 5))

/-- Rows of 32 activations of a register (R154). -/
def regRows (t : BitVec 5) (v : VReg) : List (List Val) :=
  let l := vals t v
  (List.range (tagCount t / 32)).map fun q => (l.drop (32 * q)).take 32

/-- The row or rows of a channel's flit: for q4, 32 codes and their scale in byte 16 (R158). -/
def flitRows (t : BitVec 5) (d : Wave) : List (List Val) :=
  if t = 6 then [(List.range 32).map fun k => q4Val (d.extractLsb' (4 * k) 4).toNat (d.extractLsb' 128 8).toNat]
  else regRows t { data := d, side := 0, tag := t }

/-- Products, present products and skipped ones of a row (R155). -/
def products (l : List (Val × Val)) : List Val :=
  l.map fun (a, w) => if a = .fallow ∨ w = .fallow then .fallow else decodeVal 1 (roundVal 1 0 false 0 false (exactMul a w)).code

/-- T, m and the inexact combinations of one cell: the canonical tree over the products (R155). -/
def treeOf (prods : List Val) : (Val × Nat) × Nat := (canonTree 0 prods, (prods.filter (· != .fallow)).length)

/-- accum(cell, T, m) of R155: the cell, the inexact combination, and whether the count would have passed its limit for the first time. -/
def accum (cell : Cell) (T : Val) (m : Nat) : Cell × Nat × Nat :=
  if m = 0 then (cell, 0, 0)
  else
    let (v, n) := if cell.count = 0 then (T, 0) else comb 0 (decodeVal 1 cell.value.toNat, 0) (T, 0)
    let (c, k) := cell.grow v m
    (c, n, k)

/-- A cell of a z register. -/
def Tile.zCell (T : Tile) (z : Fin 4) (r c : Fin 32) : Cell := T.z[z][r][c]
/-- Replace a row of a z register. -/
def Tile.setZRow (T : Tile) (z : Fin 4) (r : Fin 32) (row : Vector Cell 32) : Tile := { T with z := T.z.set z (T.z[z].set r row) }

/-- Accumulate a row of (T, m) into z and count for the issuer. -/
def State.accumRow (s : State) (t : TileId) (iss : Issue) (z : Fin 4) (r : Fin 32) (row : List (Val × Nat)) : State :=
  let old := (s.tile t).z[z][r]
  let rs := (List.finRange 32).map fun j => let (T, m) := row.getD j.val (.nan, 0); accum old[j] T m
  let new := Vector.ofFn fun j : Fin 32 => (rs.map (·.1)).getD j.val {}
  ((s.modTile t fun T => T.setZRow z r new).bump iss cInexact (rs.map (·.2.1)).sum).bump iss cAccSat (rs.map (·.2.2)).sum

/-! ## The queue (R149) -/

/-- The fields of a queued command. -/
def MatCmd.cmd (q : MatCmd) : Cmd :=
  match cmdOpcode q.instr with
  | some (_, _, c) => c
  | none => { ga := 0, gb := 0, comb := 0, hint := 0, chain := 0, yield := 0, stall := 0, tag := 0, eh := 0, ew := 0, s1 := 0, s2 := 0, s3 := 0, s4 := 0, s5 := 0 }

/-- Whether a command multiplies (R172). -/
def multiplies : Instr → Bool | .mst _ | .msc _ | .mnm _ | .mintDot _ => true | _ => false
/-- The pair bit of a queued command (R159). -/
def MatCmd.paired (q : MatCmd) : Bool := match q.instr with | .mst c => c.s4.getLsbD 3 | _ => false

/-- The format of the weights an `mls` loads (R156). -/
def mlsTag (c : Cmd) (m : MReg) : BitVec 5 := if c.tag = 0 then m.tag else c.tag

/-- Tags of the active and the shadow plane after one command. -/
def planeTags (p : BitVec 5 × BitVec 5) (i : Instr) (m : MReg) : BitVec 5 × BitVec 5 :=
  match i with
  | .mls c => (p.1, mlsTag c m)
  | .mswp _ => (p.2, p.1)
  | _ => p

/-- Tags of the active and the shadow plane after the queued commands, and, for a command of an open clause, after those held before it
(R154); a `cpym` follow-on comes to the queue with none before it but the queued ones. -/
def tagsAfter (T : Tile) (iss : Issue) : BitVec 5 × BitVec 5 :=
  let p := T.matQ.foldl (fun p q => planeTags p q.instr q.mreg) (T.active.tag, T.shadow.tag)
  if iss.wave = 0xFF ∨ iss.follow then p
  else T.held.foldl (fun p h => planeTags p h.instr { tag := h.mtag }) p

/-- The format of a command's activations. -/
def MatCmd.actTag (q : MatCmd) : BitVec 5 :=
  match q.instr with
  | .mst c | .mnm c => if c.tag = 0 then (q.regs.head?.map (·.tag)).getD 0 else c.tag
  | .msc c => c.tag
  | _ => 0

/-- The rows still owed outside balance jobs (R168); a command that runs until its channel ends owes a free number of those it may have.
Assumption 160 (DESIGN CHOICE). -/
def MatCmd.rowsLeft (q : MatCmd) : Nat :=
  let upTo := fun (rows : Nat) => q.guess % (rows + 1)
  match q.instr with
  | .mst c =>
    if isV c.s2 then (q.regs.flatMap fun v => regRows q.actTag v).length - q.done
    else if c.s5 = 0 then upTo (32 - q.iss.xOrImm c.s3 0 - q.done)
    else
      let n := q.iss.xOrImm c.s5 0
      n * (if q.actTag = 6 then 1 else tagCount q.actTag / 32) - q.done
  | .mnm c => (q.regs.length * (512 / tagWidth q.actTag / (match (slotVal c.s5).toNat % 4 with | 0 => 16 | 1 => 16 | 2 => 8 | _ => 4))) - q.done
  | .msc c => upTo (32 - q.iss.xOrImm c.s4 0 - q.done)
  | .mintDot _ => upTo (32 - q.done / 32)
  | _ => 0

/-- The balance job a command belongs to. -/
def State.balanceJob (s : State) (iss : Issue) : Option Job :=
  (s.ctx? iss.ctx).bind fun c => c.jobs.find? fun j => j.num == iss.job && j.card.bal && j.num != 0

/-- The pending work of a tile's array (R168). -/
def State.mpend (s : State) (t : TileId) : Nat :=
  let outside := (((s.tile t).matQ.filter fun q => multiplies q.instr && (s.balanceJob q.iss).isNone).map fun q => 1024 * q.rowsLeft).sum
  let jobs := ((s.tileCtx t).map (·.jobs)).getD []
  let inside := ((jobs.filter fun j => j.card.bal && j.dispatched == some t && j.state != .done && j.state != .cancelled).map fun j =>
    if j.started then j.card.work - j.computed else j.card.work).sum
  (outside + inside) % 2 ^ 48

/-- Count the products a command of a balance job has computed (R168). -/
def State.countProducts (s : State) (iss : Issue) (n : Nat) : State :=
  match s.balanceJob iss with
  | some j => s.modCtx iss.ctx fun c => { c with jobs := c.jobs.map fun k => if k.num = j.num then { k with computed := k.computed + n } else k }
  | none => s

/-- A balance job starts when its first matrix command enters an array's queue (R168). -/
def State.startBalance (s : State) (iss : Issue) : State :=
  match s.balanceJob iss with
  | some j => s.modCtx iss.ctx fun c => { c with jobs := c.jobs.map fun k => if k.num = j.num then { k with started := true } else k }
  | none => s

/-- Report a fault found in a stream (R171): late to the issuing task, or a blight for a `cpym` follow-on. -/
def State.matFails (s : State) (q : MatCmd) (code : FaultCode) : State :=
  s.engineFails q.iss code 0 (w64 (3 + q.done * 65536)) (!q.iss.follow)

/-- The other half of a pair (R159). -/
def partner (t : TileId) : TileId := ⟨if t.val % 2 = 0 then t.val + 1 else t.val - 1, by split <;> omega⟩
/-- The home half has the even column. -/
def isHome (t : TileId) : Bool := t.val % 2 == 0

/-- Take the head command off the queue; the counts of a `cpym` follow-on go to the adder node, where the tile reports (R155, R286). -/
def State.popMat (s : State) (t : TileId) : State :=
  s.modTile t fun T =>
    let T := { T with matQ := T.matQ.drop 1, pairDeadline := none }
    match (s.tile t).matQ with
    | q :: _ => if q.iss.follow then { T with
        matCounts := Vector.replicate 16 0, statSum := if T.reports then addCounts T.statSum fun i => T.matCounts[i].toNat else T.statSum } else T
    | [] => T
/-- Change the head command. -/
def State.modMat (s : State) (t : TileId) (f : MatCmd → MatCmd) : State :=
  s.modTile t fun T => { T with matQ := match T.matQ with | q :: l => f q :: l | [] => [] }

/-- Rows an `mdr` drains: one per register, or one per two of a 32-bit format (R166). -/
def mdrRows (c : Cmd) : Nat := let n := cmdH c * cmdW c; if tagWidth c.tag = 32 then n / 2 else n

/-- Drain rows of z into v registers (R166), with the draws the command took at queue entry (R101). -/
def State.drainRows (s : State) (t : TileId) (iss : Issue) (c : Cmd) (ds : List Nat) : State :=
  let z := slotZ c.s2
  let row0 := iss.xOrImm c.s3 0
  let kind := ctlSel c
  let regs := blockRegs c (slotV c.s1)
  let wide := tagWidth c.tag = 32
  let rows := mdrRows c
  let cells := (List.range rows).flatMap fun r => ((s.tile t).z[z][(row0 + r) % 32]).toList
  let rs := (cells.zip ds).map fun (cell, d) => drainCell c.tag kind (ctlMode c) iss c.s4 cell d
  let out := (chunks (regs.map fun _ => if wide then 16 else 32) (rs.map (·.code))).map (mkReg c.tag)
  let s := (s.modTile t fun T => T.setVs regs out).bumpAll iss (rs.flatMap (·.counts))
  if ctlClear c then
    s.modTile t fun T => { T with z := T.z.set z ((List.range rows).foldl (fun (zz : Vector (Vector Cell 32) 32) r =>
      zz.set ((row0 + r) % 32) (Vector.replicate 32 {})) T.z[z]) }
  else s

/-- Clear the z registers of a mask (R167). -/
def Tile.clearZ (T : Tile) (mask : Nat) : Tile :=
  { T with z := Vector.ofFn fun i : Fin 4 => if mask / 2 ^ i.val % 2 = 1 then Vector.replicate 32 (Vector.replicate 32 {}) else T.z[i] }

/-- Exchange the planes (R157). -/
def Tile.swapPlanes (T : Tile) : Tile := { T with active := T.shadow, shadow := { T.active with loaded := false } }

/-- A half of a pair ends without its rows: what it staged is discarded, and the other half learns of it, unless that one has itself ended
without its rows before (R159). -/
def State.losePair (s : State) (t : TileId) (q : MatCmd) : State :=
  if q.paired then
    let s := s.modTile (if isHome t then t else partner t) fun T => { T with pairIn := none }
    if 0 < (s.tile t).pairLost then s.modTile t fun T => { T with pairLost := T.pairLost - 1 }
    else (s.modTile (partner t) fun T => { T with pairLost := T.pairLost + 1 }).postOnce .pairTimeout { tile := partner t }
  else s

/-- Let the head of the queue go on: a swap, a clear and a drain act at once; a load or a streaming command owes its happening. -/
def State.kickMat (t : TileId) : Nat → State → State
  | 0, s => s
  | n + 1, s =>
    match (s.tile t).matQ with
    | [] => s
    | q :: _ =>
      match q.instr with
      | .mswp _ => ((s.modTile t Tile.swapPlanes).popMat t).kickMat t n
      | .mclr c => ((s.modTile t fun T => T.clearZ (immN c.s1)).popMat t).kickMat t n
      | .mdr c => ((s.drainRows t q.iss c q.draws).popMat t).kickMat t n
      | .mls _ => s.postOnce .mlsLoaded { tile := t }
      | _ =>
        if pairsWith q.actTag (s.tile t).active.tag || !multiplies q.instr || (match q.instr with | .mintDot _ => true | _ => false) then
          s.postOnce .zRowLand { tile := t }
        else (((s.matFails q .formatMismatch).losePair t q).popMat t).kickMat t n

/-- End the head command and let the next go on. -/
def State.endMat (s : State) (t : TileId) : State := (s.popMat t).kickMat t 4
/-- End the head command with a fault; the other half of a pair learns of it (R159). -/
def State.failMat (s : State) (t : TileId) (q : MatCmd) (code : FaultCode) : State :=
  ((s.matFails q code).losePair t q).endMat t

/-! ## Checks at queue entry (R152 to R154, R158, R161, R171) -/

/-- A channel operand that names a copy channel is bound to the issuing tile (R152, R226). -/
def chkChans (c : Cmd) (iss : Issue) (s : State) : Except Stop Unit :=
  need (([c.s1, c.s2, c.s3, c.s4, c.s5].filter isCc).all fun w =>
    match (s.dies[dieOf iss.tile]).ch[slotCc w].bind with | some (t, _) => t == iss.tile | none => false) .protect

/-- The activation format pairs with the plane the command will meet (R154). -/
def chkPlane (act : BitVec 5) (iss : Issue) (s : State) : Except Stop Unit :=
  need (pairsWith act (tagsAfter (s.tile iss.tile) iss).1) .formatMismatch

/-- The sources carry one tag, which the tag field names unless it is 0 (R43). -/
def tagOf (c : Cmd) (l : List VReg) : Except Stop (BitVec 5) := checkTags c l

def chkMls (c : Cmd) (iss : Issue) (s : State) : Except Stop Unit := do
  if slotSub c.s1 = 0 then
    let m := (s.tile iss.tile).m[slotN c.s1]
    need ((c.tag == 0 || m.tag == c.tag) && tileTag m.tag) .formatMismatch
  else
    need (tileTag c.tag) .formatMismatch
    chkChans c iss s

def chkMst (c : Cmd) (iss : Issue) (s : State) : Except Stop Unit := do
  if isV c.s2 then
    checkBlocks c [c.s2] iss s
    let t ← tagOf c (s.block iss c c.s2)
    chkPlane t iss s
    need (decide (iss.xOrImm c.s3 0 + tagCount t / 32 * cmdH c * cmdW c ≤ 32)) .illegalField
  else
    chkPlane c.tag iss s
    chkChans c iss s
    need (decide (iss.xOrImm c.s3 0 ≤ 31) && decide (iss.xOrImm c.s5 0 ≤ 32)) .illegalField

def chkMsc (c : Cmd) (iss : Issue) (s : State) : Except Stop Unit := do
  chkPlane c.tag iss s
  chkChans c iss s
  need (decide (iss.xOrImm c.s4 0 ≤ 31)) .illegalField

/-- N, M and the values per row of a pattern (R161). -/
def pattern : Nat → Nat × Nat × Nat
  | 0 => (2, 4, 16) | 1 => (4, 8, 16) | 2 => (2, 8, 8) | _ => (1, 8, 4)

/-- Place the values of one row at their positions (R161); none where a position is out of range or out of order. -/
def placeRow (N M : Nat) : Nat → Option Nat → List (Val × Nat) → List Val → Option (List Val)
  | _, _, [], a => some a
  | i, prev, (v, p) :: l, a =>
    let prev := if i % N = 0 then none else prev
    if p = 0xFF then placeRow N M (i + 1) prev l a
    else if M ≤ p ∨ (match prev with | some q => decide (p ≤ q) | none => false) = true then none
    else placeRow N M (i + 1) (some p) l (a.set (M * (i / N) + p) v)

/-- The rows of an `mnm` (R161). -/
def mnmRows (t : BitVec 5) (pat : Nat) (regs idxs : List VReg) : Option (List (List Val)) :=
  let (N, M, vpr) := pattern pat
  ((regs.zip idxs).flatMap fun (v, i) =>
    let l := (vals t v).zip ((elems 12 i).take (tagCount t))
    (List.range (tagCount t / vpr)).map fun r => (l.drop (vpr * r)).take vpr).mapM fun row =>
      placeRow N M 0 none row (List.replicate 32 .fallow)

def chkMnm (c : Cmd) (iss : Issue) (s : State) : Except Stop Unit := do
  checkBlocks c [c.s2, c.s3] iss s
  let t ← tagOf c (s.block iss c c.s2)
  need (sparseTag t && ((s.block iss c c.s3).all fun v => v.tag == 12)) .formatMismatch
  chkPlane t iss s
  let (_, _, vpr) := pattern ((slotVal c.s5).toNat % 4)
  need (decide (iss.xOrImm c.s4 0 + tagCount t / vpr * cmdH c * cmdW c ≤ 32)) .illegalField

/-- The channels of the sparse and intersection commands. -/
def chkSparse (c : Cmd) (iss : Issue) (s : State) : Except Stop Unit := chkChans c iss s

/-- `mint.scan`: a base is not checked here.
Assumption 158 (DESIGN CHOICE). -/
def chkScan (c : Cmd) (iss : Issue) (s : State) : Except Stop Unit := do
  checkBlocks c [c.s1] iss s
  chkChans c iss s

def chkMdr (c : Cmd) (iss : Issue) (s : State) : Except Stop Unit := do
  checkBlocks c [c.s1] iss s
  let n := cmdH c * cmdW c
  let row0 := iss.xOrImm c.s3 0
  if tagWidth c.tag = 32 then need (n % 2 == 0 && decide (row0 + n / 2 ≤ 32)) .illegalField
  else need (decide (row0 + n ≤ 32)) .illegalField

def noChk : Issue → State → Except Stop Unit := fun _ _ => .ok ()

/-- A command enters the queue (R149): it reads its registers, an `mnm` has its positions checked (R161, R171), and an `mdr` takes its
draws. -/
def effMat (i : Instr) (c : Cmd) (iss : Issue) (s : State) : Except Stop State := do
  let T := s.tile iss.tile
  if 4 ≤ T.matQ.length then .error (.block .fullPort)
  else
    let regs := match i with | .mst c => if isV c.s2 then s.block iss c c.s2 else [] | .mnm c => s.block iss c c.s2 | _ => []
    let idxs := match i with | .mnm c => s.block iss c c.s3 | _ => []
    match i with
    | .mnm c => need (mnmRows ((regs.head?.map (·.tag)).getD 0) ((slotVal c.s5).toNat % 4) regs idxs).isSome .sparseField
    | _ => .ok ()
    let (ds, s) := match i with
      | .mdr c => s.takeDraws iss.tile (if ctlSel c = 2 then 0 else ctlMode c) (32 * mdrRows c)
      | _ => ([], s)
    let (guess, s) := match i with
      | .msc _ | .mintDot _ => s.draw
      | .mst c => if !isV c.s2 && c.s5 == 0 then s.draw else (0, s)
      | _ => (0, s)
    let chans := ([c.s1, c.s2, c.s3, c.s4, c.s5].filter fun w => isVc w || isCc w)
    let vcs := chans.map fun w => if isCc w then (((s.dies[dieOf iss.tile]).ch[slotCc w].bind).map (·.2)).getD 0 else slotN w
    let q : MatCmd := {
      instr := i, iss, vcs, regs, idxs, draws := ds, guess := guess.toNat
      mreg := match i with | .mls c => if slotSub c.s1 = 0 then T.m[slotN c.s1] else {} | _ => {} }
    let s := s.modTile iss.tile fun T => { T with matQ := T.matQ ++ [q] }
    let s := s.startBalance iss
    .ok (if T.matQ.isEmpty then s.kickMat iss.tile 4 else s)

/-- `mls.fmt ms` and `mls.fmt ch` (R156). -/
def execMls (c : Cmd) (s : State) : Out := issueCommand (.mls c) c [] (chkMls c) (effMat (.mls c) c) s
/-- `mswp` (R157). -/
def execMswp (c : Cmd) (s : State) : Out := issueCommand (.mswp c) c [] noChk (effMat (.mswp c) c) s
/-- `mst` (R158, R159). -/
def execMst (c : Cmd) (s : State) : Out := issueCommand (.mst c) c [] (chkMst c) (effMat (.mst c) c) s
/-- `msc` (R160). -/
def execMsc (c : Cmd) (s : State) : Out := issueCommand (.msc c) c [] (chkMsc c) (effMat (.msc c) c) s
/-- `mnm` (R161). -/
def execMnm (c : Cmd) (s : State) : Out := issueCommand (.mnm c) c [] (chkMnm c) (effMat (.mnm c) c) s
/-- `mint.dot` (R163). -/
def execMintDot (c : Cmd) (s : State) : Out := issueCommand (.mintDot c) c [] (chkSparse c) (effMat (.mintDot c) c) s
/-- `mdr` (R166). -/
def execMdr (c : Cmd) (s : State) : Out := issueCommand (.mdr c) c [] (chkMdr c) (effMat (.mdr c) c) s
/-- `mclr` (R167). -/
def execMclr (c : Cmd) (s : State) : Out := issueCommand (.mclr c) c [] noChk (effMat (.mclr c) c) s
/-- `mint.cnt` (R164). -/
def execMintCnt (c : Cmd) (s : State) : Out := issueCommand (.mintCnt c) c [] (chkSparse c) (effMat (.mintCnt c) c) s
/-- `mint.scan` (R165). -/
def execMintScan (c : Cmd) (s : State) : Out := issueCommand (.mintScan c) c [] (chkScan c) (effMat (.mintScan c) c) s

/-! ## Loading the shadow plane (R156) -/

/-- Set the shadow plane. -/
def State.loadShadow (s : State) (t : TileId) (data : BitVec 16384) (tag : BitVec 5) : State :=
  (s.modTile t fun T => { T with shadow := { data, tag, loaded := true } }).endMat t

/-- MLS_LOADED (R156): an `mls` at the head of the queue loads its m register, or takes the next of its 32 flits; with the last row
the shadow plane takes the weights and the tag, and its loaded bit is set. -/
def execMlsLoaded (s : State) : Out :=
  happening .mlsLoaded (fun s =>
    let t := s.focus.tile
    match s.here.matQ with
    | q :: _ =>
      match q.instr with
      | .mls c =>
        match q.vcs with
        | [] => some (s.loadShadow t q.mreg.data (mlsTag c q.mreg))
        | vc :: _ =>
          match (s.vchan t vc).q with
          | [] => none
          | f :: _ =>
            let s := s.modVc t vc VChan.dropFlit
            if f.kind = 0 then
              let data := q.mreg.data ||| (f.data.setWidth 16384 <<< (512 * q.done))
              if q.done = 31 then some ((s.modVc t vc fun v => v.eatEnd false).loadShadow t data c.tag)
              else some ((s.modMat t fun q => { q with mreg := { data, tag := c.tag }, done := q.done + 1 }).postOnce .mlsLoaded { tile := t })
            else some (s.failMat t q .illegalField)
      | _ => none
    | [] => none) s

/-! ## Rows (R155) -/

/-- The 32 cells of a row of activations against the active plane: T and m per column, and the products skipped. -/
def rowCells (p : Plane) (a : List Val) : List (Val × Nat × Nat) :=
  (List.range 32).map fun j =>
    let prods := products ((List.range 32).map fun k => (a.getD k .fallow, p.weight k j))
    let ((v, n), m) := treeOf prods
    (v, m, n)

/-- Land one row: accumulate it into z, or keep it for the pair; count its skipped products and inexact combinations.
Assumption 124 (DEDUCED). -/
def State.landRow (s : State) (t : TileId) (q : MatCmd) (z : Fin 4) (row : Nat) (a : List Val) : State :=
  let cells := rowCells (s.tile t).active a
  let s := s.bump q.iss cMatSkip (cells.map fun c => 32 - c.2.1).sum
  let s := s.bump q.iss cInexact (cells.map (·.2.2)).sum
  let s := s.countProducts q.iss 1024
  if q.paired then
    s.modMat t fun q => { q with
      done := q.done + 1
      part := q.part ++ [{ row, cells := cells.map fun c =>
        { value := BitVec.ofNat 32 (roundVal 1 0 false 0 false c.1).code, count := BitVec.ofNat 24 c.2.1 } }] }
  else
    (s.accumRow t q.iss z ⟨row % 32, Nat.mod_lt _ (by omega)⟩ (cells.map fun c => (c.1, c.2.1))).modMat t fun q =>
      { q with done := q.done + 1 }

/-- All rows of a command have landed: a paired half waits for the other, any other command ends. -/
def State.rowsDone (s : State) (t : TileId) (q : MatCmd) : State :=
  if q.paired then
    let limit := ((s.ctx? q.iss.ctx).map (·.pairto.toNat)).getD 65536
    let s := (s.modMat t fun q => { q with ready := true }).modTile t fun T => { T with pairDeadline := some (s.clk + limit) }
    (s.postOnce .pairStageArrive { tile := if isHome t then t else partner t }).postOnce .pairTimeout { tile := t }
  else s.endMat t

/-- Land the rows of one flit in turn; a row past 31 is a fault, and the earlier ones stand (R158). -/
def State.landRows (t : TileId) (z : Fin 4) (row : Nat) (rows : List (List Val)) (s : State) : Option State :=
  match rows with
  | [] => some s
  | a :: l =>
    if 32 ≤ row then none
    else
      match (s.tile t).matQ with
      | q :: _ => (s.landRow t q z row a).landRows t z (row + 1) l
      | [] => some s
termination_by structural rows

/-- The next row of a register-fed command, or the next flit of a channel-fed `mst`. -/
def mstStep (t : TileId) (q : MatCmd) (c : Cmd) (s : State) : Option State :=
  let z := slotZ c.s1
  let row0 := q.iss.xOrImm c.s3 0
  match q.vcs with
  | [] =>
    let rows := q.regs.flatMap (regRows q.actTag)
    let s := s.landRow t q z (row0 + q.done) (rows.getD q.done [])
    if q.done + 1 < rows.length then some s
    else match (s.tile t).matQ with | q :: _ => some (s.rowsDone t q) | [] => some s
  | vc :: _ =>
    let n := q.iss.xOrImm c.s5 0
    -- a count of 0 takes no flit; a token that stands at the head as the command begins is consumed (R388)
    if isX c.s5 && n == 0 then some ((s.modVc t vc VChan.eatHead).rowsDone t q)
    else
      match (s.vchan t vc).q with
      | [] => none
      | f :: _ =>
        if f.kind = 0 then
          let rows := flitRows c.tag f.data
          if 32 < row0 + q.done + rows.length then some ((s.modVc t vc VChan.dropFlit).failMat t q .illegalField)
          else
            match (s.modVc t vc VChan.dropFlit).landRows t z (row0 + q.done) rows with
            | none => none
            | some s =>
              if c.s5 != 0 && q.emitted + 1 == n then
                match (s.tile t).matQ with
                | q :: _ => some ((s.modVc t vc fun v => v.eatEnd false).rowsDone t q)
                | [] => some s
              else some (s.modMat t fun q => { q with emitted := q.emitted + 1 })
        else if f.kind = 2 then some ((s.modVc t vc VChan.dropFlit).rowsDone t q)
        else some ((s.modVc t vc VChan.dropFlit).failMat t q .illegalField)

def mnmStep (t : TileId) (q : MatCmd) (c : Cmd) (s : State) : Option State :=
  let rows := (mnmRows q.actTag ((slotVal c.s5).toNat % 4) q.regs q.idxs).getD []
  let s := s.landRow t q (slotZ c.s1) (q.iss.xOrImm c.s4 0 + q.done) (rows.getD q.done [])
  if q.done + 1 < rows.length then some s else some (s.endMat t)

/-- An element in the low bits of a 32-bit token.
Assumption 128 (DEDUCED). -/
def tokElem (tag : BitVec 5) (v : BitVec 32) : Val := decodeVal tag (v.toNat % 2 ^ tagWidth tag)

/-- Close the row in progress of an `msc`. -/
def mscClose (t : TileId) (q : MatCmd) (c : Cmd) (s : State) : State :=
  let a := q.cur.foldl (fun (l : List Val) (k, v, _) => l.set k (tokElem c.tag (v.setWidth 32))) (List.replicate 32 .fallow)
  (s.landRow t q (slotZ c.s1) (q.iss.xOrImm c.s4 0 + q.done) a).modMat t fun q => { q with cur := [], prevA := none, hits := 0 }

/-- One token of an `msc` (R160): coordinate and, with a data token, its value. An end token closes a row of fallow pairs only too (assumption
170, DEDUCED), and an EOT takes the value channel's own EOT with it (assumption 171, DEDUCED). -/
def mscStep (t : TileId) (q : MatCmd) (c : Cmd) (s : State) : Option State :=
  let vV := q.vcs.getD 0 0
  let vC := q.vcs.getD 1 0
  let fail := fun (s : State) => some (s.failMat t q .sparseField)
  let row := q.iss.xOrImm c.s4 0 + q.done
  match (s.vchan t vC).head with
  | .empty => none
  | .data k =>
    match (s.vchan t vV).head with
    | .empty => none
    | .ctl kind _ =>
      let s := s.modVc t vV VChan.dropTok
      if kind = 1 then some s
      else if kind = 5 then some (s.endMat t)
      else fail s
    | .data v =>
      let s := (s.modVc t vC VChan.dropTok).modVc t vV VChan.dropTok
      if k = 0xFFFFFFFF then some (((s.bump q.iss cMatSkip 32).countProducts q.iss 32).modMat t fun q => { q with hits := q.hits + 1 })
      else if 32 ≤ k.toNat ∨ (match q.prevA with | some p => decide (k.toNat ≤ p) | none => false) = true then fail s
      else if 32 ≤ row then fail s
      else some (s.modMat t fun q => { q with cur := q.cur ++ [(k.toNat, v.setWidth 16, 0)], prevA := some k.toNat })
  | .ctl kind p =>
    let s := s.modVc t vC VChan.dropTok
    if kind = 1 then some s
    else if kind = 5 then some (s.endMat t)
    else if kind = 3 ∧ p.toNat = 0 then
      if 32 ≤ row then fail s else some (mscClose t q c s)
    else if kind = 2 ∨ kind = 3 then
      let held := !(q.cur.isEmpty && q.hits == 0)
      if held && decide (32 ≤ row) then fail s
      else
        let s := if held then mscClose t q c s else s
        some ((if kind = 2 then s.modVc t vV fun v => v.eatEnd true else s).endMat t)
    else fail s

/-! ## The intersection unit (R162 to R164, R397, R398) -/

/-- Whether a token is an end token: a STOP of level 1 to 3, or an EOT. -/
def HeadTok.isEnd : HeadTok → Bool
  | .ctl 2 _ => true
  | .ctl 3 p => p.toNat != 0
  | _ => false

/-- What one stream offers: wait, an ignored SOT, a BLIGHT, an error, a coordinate, the end of its fiber by STOP 0, or its end token. -/
inductive Offer where
  | wait | skip | blight | bad | coord (k : BitVec 32) | stop | fin
  deriving DecidableEq, Repr

/-- The offer of a stream that has not closed its fiber. -/
def offerOf : HeadTok → Offer
  | .empty => .wait
  | .data k => .coord k
  | .ctl k p => if k = 1 then .skip else if k = 5 then .blight else if k = 2 then .fin else if k = 3 then (if p.toNat = 0 then .stop else .fin) else .bad

/-- Give the result of a closed fiber pair: a cell of z for `mint.dot`, a count token for `mint.cnt` (R163, R164). -/
def closeFiber (t : TileId) (q : MatCmd) (s : State) : State :=
  let next := fun (q : MatCmd) => { q with
    done := q.done + 1, cur := [], hits := 0, prevA := none, prevB := none, posA := .fresh, posB := .fresh }
  match q.instr with
  | .mintDot c =>
    let pairs := q.cur.map fun (k, a, w) => (k, tokElem c.tag (a.setWidth 32), tokElem c.tag (w.setWidth 32))
    let prods := products (pairs.map fun (_, a, w) => (a, w))
    let ((v, n), m) := (treeAt 32 ((pairs.map (·.1)).zip prods), (prods.filter (· != .fallow)).length)
    let r : Fin 32 := ⟨q.done / 32 % 32, Nat.mod_lt _ (by omega)⟩
    let j : Fin 32 := ⟨q.done % 32, Nat.mod_lt _ (by omega)⟩
    let (cell, n2, sat) := accum ((s.tile t).zCell (slotZ c.s1) r j) v m
    let s := s.modTile t fun T => T.setZRow (slotZ c.s1) r ((T.z[slotZ c.s1][r]).set j cell)
    let s := ((s.bump q.iss cMatSkip (prods.length - m)).bump q.iss cInexact (n + n2)).bump q.iss cAccSat sat
    (s.countProducts q.iss prods.length).modMat t next
  | .mintCnt c =>
    let limit := if c.tag = 0x0D then 0xFFFE else 0xFFFFFFFE
    let stopped := decide (limit < q.hits)
    let tok := BitVec.ofNat 32 (min q.hits limit + if stopped && c.tag == 0x0D then 0x10000 else 0)
    (s.bump q.iss cSymOvf (if stopped then 1 else 0)).modMat t fun q => next { q with out := q.out ++ [tok], emitted := q.emitted + 1 }
  | _ => s
where
  /-- the canonical tree over contributors placed at their 32-bit indexes: a position without one is the identity -/
  treeAt : Nat → List (Nat × Val) → Val × Nat
    | 0, l => match l with | [] => combId 0 | (_, v) :: _ => (if v = .fallow then combId 0 else (v, 0))
    | d + 1, l =>
      match l with
      | [] => combId 0
      | _ => comb 0 (treeAt d (l.filter fun (k, _) => k / 2 ^ d % 2 == 0)) (treeAt d (l.filter fun (k, _) => k / 2 ^ d % 2 == 1))

/-- The end of an intersection command: both end tokens are consumed; a `mint.cnt` sends what it holds, then its EOT. A stream that an EOT ends
takes its value channel's EOT with it.
Assumption 171 (DEDUCED). -/
def endIntersect (t : TileId) (q : MatCmd) (vA vB : SlotId) (s : State) : State :=
  let endA := (s.vchan t vA).head
  let endB := (s.vchan t vB).head
  let s := (s.modVc t vA VChan.dropTok).modVc t vB VChan.dropTok
  match q.instr with
  | .mintDot _ =>
    let s := if endA matches .ctl 2 _ then s.modVc t (q.vcs.getD 1 0) fun v => v.eatEnd true else s
    let s := if endB matches .ctl 2 _ then s.modVc t (q.vcs.getD 3 0) fun v => v.eatEnd true else s
    s.endMat t
  | _ => s.modMat t fun q => { q with ending := true }

/-- Consume a coordinate of a stream with its value, in a `mint.dot`; the value, where the stream has values. -/
def takeCoord (t : TileId) (vc : SlotId) (val : Option SlotId) (s : State) : State :=
  let s := s.modVc t vc VChan.dropTok
  match val with | some v => s.modVc t v VChan.dropTok | none => s

/-- Whether a value channel is ready: its token, a wait, an SOT to pass over, a BLIGHT or an error. -/
def valueOf (val : Option SlotId) (t : TileId) (s : State) : Offer × BitVec 32 :=
  match val with
  | none => (.coord 0, 0)
  | some v =>
    match (s.vchan t v).head with
    | .empty => (.wait, 0)
    | .data x => (.coord 0, x)
    | .ctl k _ => (if k = 1 then .skip else if k = 5 then .blight else .bad, 0)

/-- One step of the intersection unit: an SOT passed over, a fiber closed on one side, a compare, a pair of fibers closed, or the end. -/
def intersectStep (t : TileId) (q : MatCmd) (vA vB : SlotId) (valA valB : Option SlotId) (s : State) : Option State :=
  let oA : Offer := if q.posA = .closed ∨ q.posA = .ended then .stop else offerOf (s.vchan t vA).head
  let oB : Offer := if q.posB = .closed ∨ q.posB = .ended then .stop else offerOf (s.vchan t vB).head
  let openA := decide (q.posA = .inside ∨ q.posA = .fresh)
  let openB := decide (q.posB = .inside ∨ q.posB = .fresh)
  let fail := some (s.failMat t q .sparseField)
  -- both streams have closed the fiber
  if !openA && !openB then (if 1024 ≤ q.done ∧ valA.isSome then fail else some (closeFiber t q s))
  -- both stand at their end tokens after closing the same fibers
  else if q.posA = .fresh ∧ q.posB = .fresh ∧ (s.vchan t vA).head.isEnd ∧ (s.vchan t vB).head.isEnd then
    some (endIntersect t q vA vB s)
  else if (openA && oA == .skip) then some (s.modVc t vA VChan.dropTok)
  else if (openB && oB == .skip) then some (s.modVc t vB VChan.dropTok)
  else if (openA && oA == .blight) then some ((s.modVc t vA VChan.dropTok).endMat t)
  else if (openB && oB == .blight) then some ((s.modVc t vB VChan.dropTok).endMat t)
  else if (openA && oA == .bad) then some ((s.modVc t vA VChan.dropTok).failMat t q .sparseField)
  else if (openB && oB == .bad) then some ((s.modVc t vB VChan.dropTok).failMat t q .sparseField)
  else if oA == .wait || oB == .wait then none
  -- one stream stands at its end token while the other opens a further fiber
  else if (q.posA = .fresh ∧ oA = .fin) ∨ (q.posB = .fresh ∧ oB = .fin) then fail
  else if openA && oA == .fin then some (s.modMat t fun q => { q with posA := .ended })
  else if openB && oB == .fin then some (s.modMat t fun q => { q with posB := .ended })
  else if openA && oA == .stop then some ((s.modVc t vA VChan.dropTok).modMat t fun q => { q with posA := .closed })
  else if openB && oB == .stop then some ((s.modVc t vB VChan.dropTok).modMat t fun q => { q with posB := .closed })
  else
    let ascends := fun (prev : Option Nat) (k : BitVec 32) => k == 0xFFFFFFFF || (match prev with | some p => decide (p < k.toNat) | none => true)
    let kA := match oA with | .coord k => some k | _ => none
    let kB := match oB with | .coord k => some k | _ => none
    if (match kA with | some k => !ascends q.prevA k | none => false) || (match kB with | some k => !ascends q.prevB k | none => false) then fail
    else if 1024 ≤ q.done ∧ valA.isSome then fail
    else
      -- a fallow coordinate is consumed alone; otherwise the lesser, or both when equal
      let takeA := kA.isSome && (kA == some 0xFFFFFFFF || (kB != some 0xFFFFFFFF &&
        (match kA, kB with | some a, some b => decide (a.toNat ≤ b.toNat) | _, _ => kB.isNone)))
      let takeB := kB.isSome && (kB == some 0xFFFFFFFF || (kA != some 0xFFFFFFFF &&
        (match kA, kB with | some a, some b => decide (b.toNat ≤ a.toNat) | _, _ => kA.isNone)))
      let (rA, a) := if takeA then valueOf valA t s else (.coord 0, 0)
      let (rB, b) := if takeB then valueOf valB t s else (.coord 0, 0)
      if rA == .skip then some (s.modVc t (valA.getD 0) VChan.dropTok)
      else if rB == .skip then some (s.modVc t (valB.getD 0) VChan.dropTok)
      else if rA == .blight || rB == .blight then some (s.endMat t)
      else if rA == .bad || rB == .bad then fail
      else if rA == .wait || rB == .wait then none
      else
        let hit := takeA && takeB && kA == kB && kA != some 0xFFFFFFFF
        let s := if takeA then takeCoord t vA valA s else s
        let s := if takeB then takeCoord t vB valB s else s
        some (s.modMat t fun q => { q with
          posA := if openA && takeA then .inside else q.posA
          posB := if openB && takeB then .inside else q.posB
          prevA := if takeA && kA != some 0xFFFFFFFF then kA.map BitVec.toNat else q.prevA
          prevB := if takeB && kB != some 0xFFFFFFFF then kB.map BitVec.toNat else q.prevB
          hits := if hit then q.hits + 1 else q.hits
          cur := if hit && valA.isSome then q.cur ++ [((kA.getD 0).toNat, a.setWidth 16, b.setWidth 16)] else q.cur })

/-- Send the count tokens of a `mint.cnt`: whole flits as they fill, at the end a padded one, then the EOT (R397), whose end tick is 0.
Assumption 172 (DESIGN CHOICE). -/
def cntSend (t : TileId) (q : MatCmd) (s : State) : Option State :=
  let vc := q.vcs.getD 0 0
  if !s.vcRoom t vc then none
  else if 16 ≤ q.out.length ∨ (q.ending = true ∧ q.out ≠ []) then
    let flit := packFields 32 (((q.out.take 16).map BitVec.toNat) ++ List.replicate (16 - q.out.length) 0xFFFFFFFF)
    some ((s.sendSeg t vc { kind := 0, data := flit }).modMat t fun q => { q with out := q.out.drop 16 })
  else some ((s.sendSeg t vc (eotFlit 0 q.emitted)).endMat t)

def cntStep (t : TileId) (q : MatCmd) (s : State) : Option State :=
  if q.ending = true ∨ 16 ≤ q.out.length then cntSend t q s
  else intersectStep t q (q.vcs.getD 1 0) (q.vcs.getD 2 0) none none s

/-- The offsets of a `mint.scan` (R165): one more than the counts. -/
def offsets : Nat → List Nat → List Nat
  | o, [] => [o]
  | o, c :: l => o :: offsets (o + c) l

/-- The end of a `mint.scan`: the offsets, or the trap that writes nothing. -/
def scanEnd (t : TileId) (q : MatCmd) (c : Cmd) (s : State) : State :=
  let narrow := c.tag == 0x0E
  let base := let b := q.iss.xOrImm c.s3 0; if narrow then b % 2 ^ 32 else b
  let cs := q.out.map fun v => if narrow then v.toNat % 65536 else v.toNat
  let offs := offsets base cs
  let regs := blockRegs c (slotV c.s1)
  let room := regs.length * tagCount c.tag
  let bad := (narrow && q.out.any fun v => v.getLsbD 16) || decide ((if narrow then 0xFFFFFFFE else 0xFFFFFFFFFFFFFFFE) < offs.getLast?.getD 0) ||
    decide (room < offs.length)
  if bad then s.failMat t q .sparseField
  else
    let l := offs ++ List.replicate (room - offs.length) (fallowCode c.tag)
    (s.modTile t fun T => T.setVs regs ((chunks (regs.map fun _ => tagCount c.tag) l).map (mkReg c.tag))).endMat t

def scanStepTok (t : TileId) (q : MatCmd) (c : Cmd) (s : State) : Option State :=
  let vc := q.vcs.getD 0 0
  match (s.vchan t vc).head with
  | .empty => none
  | .data v => some ((s.modVc t vc VChan.dropTok).modMat t fun q => if v = 0xFFFFFFFF then q else { q with out := q.out ++ [v] })
  | .ctl k _ =>
    let s := s.modVc t vc VChan.dropTok
    if k = 1 then some s
    else if k = 5 then some (s.endMat t)
    else if k = 2 then some (scanEnd t q c s)
    else some (s.failMat t q .sparseField)

/-- A command fed from channels stands between rows, or between fibers, where a save may stop it (R170).
Assumption 161 (DEDUCED). -/
def MatCmd.between (q : MatCmd) : Bool :=
  !q.vcs.isEmpty && (match q.instr with
    | .mls _ => false
    | .msc _ => q.cur.isEmpty && q.hits == 0
    | .mintDot _ | .mintCnt _ => q.cur.isEmpty && q.hits == 0 && q.prevA.isNone && q.prevB.isNone && q.posA != .closed && q.posB != .closed
    | _ => true)
/-- Whether the context of a command is being saved. -/
def State.savesFor (s : State) (iss : Issue) : Bool := ((s.ctx? iss.ctx).map (·.saving.isSome)).getD false
/-- Whether a save may write the image with a tile's matrix queue as it stands (R170, R360): empty, or behind a channel-fed command between
rows, or behind a half of a pair that waits for the other. -/
def Tile.matSettled (T : Tile) : Bool := match T.matQ with | [] => true | q :: _ => q.ready || q.between

/-- Z_ROW_LAND (R155, R158 to R165): the command at the head of the queue goes on by one row, flit, token or fiber. -/
def execZRowLand (s : State) : Out :=
  happening .zRowLand (fun s =>
    let t := s.focus.tile
    match s.here.matQ with
    | [] => none
    | q :: _ =>
      if q.ready || (q.between && s.savesFor q.iss) then none
      else
        let r := match q.instr with
          | .mst c => mstStep t q c s
          | .mnm c => mnmStep t q c s
          | .msc c => mscStep t q c s
          | .mintDot _ => intersectStep t q (q.vcs.getD 0 0) (q.vcs.getD 2 0) (some (q.vcs.getD 1 0)) (some (q.vcs.getD 3 0)) s
          | .mintCnt _ => cntStep t q s
          | .mintScan c => scanStepTok t q c s
          | _ => none
        r.map fun s => if (s.tile t).matQ.isEmpty then s else s.kickMat t 4) s

/-! ## Pairs (R159) -/

/-- The paired command that waits at the head of a tile's queue with all its rows. -/
def State.readyPair (s : State) (t : TileId) : Option MatCmd :=
  match (s.tile t).matQ with
  | q :: _ => if q.paired && q.ready then some q else none
  | [] => none

/-- Apply the halves of a pair to the home z: accum(z, comb(T_h, T_s), m_h + m_s). -/
def State.joinPair (s : State) (t : TileId) (q : MatCmd) (z : Fin 4) (sup : List Staged) : State :=
  (q.part.zip sup).foldl (fun s (h, u) =>
    let rows := (h.cells.zip u.cells).map fun (a, b) =>
      let (v, n) := comb 0 (cellVal a) (cellVal b)
      ((v, a.count.toNat + b.count.toNat), n)
    (s.bump q.iss cInexact (rows.map (·.2)).sum).accumRow t q.iss z ⟨h.row % 32, Nat.mod_lt _ (by omega)⟩ (rows.map (·.1))) s
where
  cellVal (c : Cell) : Val × Nat := if c.count = 0 then combId 0 else (decodeVal 1 c.value.toNat, 0)

/-- PAIR_STAGE_ARRIVE (R159): the supplying half's results reach the home half's staging; once the home half has its own rows the pair
is applied, or abandoned where the halves do not match. The focus is the home half.
Assumption 129 (DEDUCED). -/
def execPairStageArrive (s : State) : Out :=
  happening .pairStageArrive (fun s =>
    let t := s.focus.tile
    let o := partner t
    if !isHome t || (s.tile t).owner != (s.tile o).owner || decide (0 < (s.tile t).pairLost) || decide (0 < (s.tile o).pairLost) then none
    else
      match s.readyPair o with
      | none => none
      | some u =>
        let zs := slotZ u.cmd.s1
        match s.readyPair t with
        | none => if (s.tile t).pairIn.isSome then none else some (s.modTile t fun T => { T with pairIn := some (zs, u.part) })
        | some q =>
          let s := s.modTile t fun T => { T with pairIn := none }
          if slotZ q.cmd.s1 = zs ∧ q.part.map (·.row) = u.part.map (·.row) then
            some (((s.joinPair t q zs u.part).endMat t).endMat o)
          else some ((((s.matFails q .pairAbandoned).endMat t).matFails u .pairAbandoned).endMat o)) s

/-- PAIR_TIMEOUT (R159): a waiting half gives up when its time is over, which a save stops (R360), or the other half has ended without it; its
staged results are discarded and z is unchanged. -/
def execPairTimeout (s : State) : Out :=
  happening .pairTimeout (fun s =>
    let t := s.focus.tile
    match s.readyPair t with
    | none => none
    | some q =>
      let lost := decide (0 < s.here.pairLost)
      let late := match s.here.pairDeadline with | some d => decide (d ≤ s.clk) | none => false
      if lost then
        let s := s.modTile t fun T => { T with pairLost := T.pairLost - 1, pairIn := none }
        some ((s.matFails q .pairAbandoned).endMat t)
      else if late && !s.savesFor q.iss then
        some (s.failMat t q .pairAbandoned)
      else none) s

end Sys2Proof.Machine
end

