-- ==== Sys2Proof/Machine/Mem.lean ====
section
/-! DEFINITION. Issued memory accesses (R173 to R184, R192 to R206): the operand log, translation and parking, scalar loads and stores,
class 0x5, cache operations, fences, hardware queues. An access performs in two moments: at tile scope, where the agents of its tile
see it, and at package scope, in memory. -/
namespace Sys2Proof.Machine
open Sys2Proof

/-! ## Kinds -/

/-- What an access asks of the pages it touches (R179). -/
def AccKind.acc : AccKind → Acc
  | .load _ _ | .vload _ _ | .mload _ _ => { read := true }
  | .store | .vstore | .sbStore | .sbClear | .aperture _ => { write := true }
  | .amo .. => { read := true, write := true }
  | .stv _ _ => { write := true, versioned := true }
  | .stvRsv _ => { write := true, versioned := true }
  | .rclm _ => { write := true, versioned := true }
  | .cacheOp _ => { noPerm := true }
  | .pref _ => { read := true }
  | .vamo .. => { read := true, write := true, engine := true }

/-- The classes of R204: what counts as a load and as a store. -/
def AccKind.isLoad : AccKind → Bool | .load _ _ | .vload _ _ | .mload _ _ | .amo .. => true | _ => false
def AccKind.isStore : AccKind → Bool
  | .store | .vstore | .sbStore | .sbClear | .aperture _ | .amo .. | .stv _ _ | .stvRsv _ | .rclm _ | .cacheOp _ => true
  | _ => false
/-- Accesses of the ordinary domain (R203); a prefetch is not ordered (R197). -/
def AccKind.ordinary : AccKind → Bool | .vamo .. | .pref _ => false | _ => true
/-- The elements of a `vamo`. -/
def AccKind.isVamo : AccKind → Bool | .vamo .. => true | _ => false
/-- Whether an access writes the bytes its pieces hold. -/
def AccKind.hasData : AccKind → Bool | .store | .vstore | .sbStore => true | _ => false
/-- Whether a later fault at its port may name its log entry (R181, R188, R196, R223). -/
def AccKind.keepsLog : AccKind → Bool | .stv _ _ | .stvRsv _ | .sbStore | .vamo .. => true | _ => false

/-- A location an access of this kind may not have: the aperture (R231), a peer window (R173), host memory for an atomic (R213), anything
but a scratchpad for a stream-buffer store or clear (R196). -/
def AccKind.bars (k : AccKind) (l : Loc) : Bool :=
  match k, l with
  | _, .aper _ => true
  | _, .peer _ => true
  | .amo .., .host _ | .vamo .., .host _ => true
  | .sbStore, .sp _ _ | .sbClear, .sp _ _ => false
  | .sbStore, _ | .sbClear, _ => true
  | _, _ => false

/-- The happening an access owes next. -/
def AccKind.owes : AccKind → Instr
  | .load _ _ | .vload _ _ | .mload _ _ => .loadComplete
  | .amo .. | .vamo .. => .atomicAtNode
  | .stv _ _ | .stvRsv _ => .stvHomeWrite
  | .aperture _ => .templateCopy
  | _ => .accessPerform

/-! ## Places -/

/-- The space and the address of a location. -/
def Loc.key : Loc → Nat × Nat
  | .dev pa _ _ => (0, pa)
  | .host a => (1, a)
  | .peer a => (2, a)
  | .aper o => (3, o)
  | .sp t off => (4 + t.val, off)

/-- Whether two located ranges share a byte. -/
def touches (a b : Loc × Nat) : Bool :=
  a.1.key.1 == b.1.key.1 && decide (a.1.key.2 < b.1.key.2 + b.2) && decide (b.1.key.2 < a.1.key.2 + a.2)
/-- Whether two accesses share a byte. -/
def overlaps (a b : List (Loc × Nat)) : Bool := a.any fun x => b.any (touches x)

/-- The bytes a store puts, each with its place. -/
def Access.bytes (a : Access) : List ((Nat × Nat) × Byte) :=
  (a.locs.flatMap fun (l, n) => (List.range n).map fun i => (l.key.1, l.key.2 + i)).zip (a.pieces.flatMap (·.bytes))

/-! ## The accesses of a tile -/

/-- An access by its number. -/
def Tile.access? (T : Tile) (id : Nat) : Option Access := T.accesses.find? (·.id == id)
/-- Drop an access. -/
def Tile.dropAccess (T : Tile) (id : Nat) : Tile := { T with accesses := T.accesses.filter (·.id != id) }
/-- Change an access in its place. -/
def Tile.modAccess (T : Tile) (id : Nat) (f : Access → Access) : Tile :=
  { T with accesses := T.accesses.map fun a => if a.id = id then f a else a }

/-- Operand-log entries in use: those of accesses that have not passed their port, and of late faults not yet resumed (R181, R182). -/
def Tile.logUsed (T : Tile) : List Nat :=
  T.accesses.filterMap (·.olog) ++ T.slots.toList.flatMap fun k =>
    k.late.filterMap (·.olog) ++ (match k.fault with | some f => (f.access.bind (·.olog)).toList ++ (f.cmd.map (·.1)).toList | none => [])
/-- The lowest free entry of the operand log. -/
def Tile.freeLog (T : Tile) : Option Nat := (List.range 32).find? fun i => !T.logUsed.contains i

/-- Accesses of one run of a task. -/
def sameTask (a b : Issue) : Bool := a.auto == b.auto && a.slot == b.slot && a.epoch == b.epoch
/-- The accesses a task issued before a number. -/
def Tile.ownBefore (T : Tile) (iss : Issue) (id : Nat) : List Access := T.accesses.filter fun b => sameTask b.iss iss && decide (b.id < id)

/-- Locate every byte of an access: at once where nothing misses the micro-TLB, or none where a page has to be walked (R180). -/
def State.tryLocate (s : State) (iss : Issue) (k : AccKind) (pieces : List Piece) (wait : Bool) :
    Except (FaultCode × Nat) (Option (List (Loc × Nat))) := do
  let ps := pieces.flatMap fun p => pagesOf p.va p.len
  let ls ← ps.mapM fun (va, n) =>
    if !wait && translated va && !s.utlbHit iss.ctx iss.tile va then .ok none
    else match s.locate iss.ctx iss.tile va k.acc with
      | .ok l => if k.bars l then .error (.protect, va) else .ok (some (l, n))
      | .error c => .error (c, va)
  if ls.all Option.isSome then .ok (some (ls.filterMap id)) else .ok none

/-- The check of an access at issue: the faults the tile finds itself are precise, with the address; a hit under hint 5 must lie in the
tile's own scratchpad (R40, R174, R182). -/
def State.checkAccess (s : State) (iss : Issue) (k : AccKind) (pieces : List Piece) (hint : BitVec 4) : Except Stop Unit := do
  match s.tryLocate iss k pieces false with
  | .error (c, va) => .error (.trap c (w64 va) 0)
  | .ok _ =>
    match if hint = 5 then pieces.find? (fun p => !inOwn iss p) else none with
    | some p => .error (.trap .protect (w64 p.va) 0)
    | none => .ok ()
where
  inOwn (iss : Issue) (p : Piece) : Bool :=
    decide (Config.ownSpBase ≤ p.va) ||
      (decide (Config.spBase + Config.spStride * iss.tile.val ≤ p.va) && decide (p.va < Config.spBase + Config.spStride * (iss.tile.val + 1)))

/-- The die of a walker (R246). -/
def walkerDie (j : Nat) : DieId := ⟨j / 16 % 8, Nat.mod_lt _ (by decide)⟩

/-- Whether the parked pool of a die is full, with its tiles' accesses and the reads of its walkers (R180, R249). -/
def State.diePoolFull (s : State) (d : DieId) : Bool :=
  decide (2048 ≤ (s.walks.filter fun w => w.parked && walkerDie w.walker == d).length +
    (((List.finRange 1024).filter fun u => dieOf u == d).map fun u => ((s.tile u).accesses.filter (·.pooled)).length).sum)
/-- Whether the parked pool of the tile's die is full (R180). -/
def State.poolFull (s : State) (t : TileId) : Bool := s.diePoolFull (dieOf t)

/-- Enter a translation in the TLBs; the oldest entry gives way (R180).
Assumption 18 (DESIGN CHOICE). -/
def addTlb (limit : Nat) (l : List Tlb) (e : Tlb) : List Tlb :=
  let l := l.filter fun x => !(x.ctx == e.ctx && x.page == e.page)
  (if limit ≤ l.length then l.drop 1 else l) ++ [e]

/-- Cache the translations of the pages of an access. -/
def State.fillTlbs (s : State) (iss : Issue) (pieces : List Piece) : State :=
  (pieces.flatMap fun p => pagesOf p.va p.len).foldl (fun s (va, _) =>
    if !translated va then s
    else match s.leafOf iss.ctx iss.tile va with
      | none => s
      | some (leaf, level) =>
        let e : Tlb := { ctx := iss.ctx, page := va / 65536, level, leaf }
        (s.modTile iss.tile fun T => { T with utlb := addTlb 64 T.utlb e }).modDie (dieOf iss.tile) fun d => { d with dtlb := addTlb 8192 d.dtlb e }) s

/-- Whether the die TLB lacks a page that the micro-TLB lacks (R180). -/
def State.needsWalk (s : State) (iss : Issue) (pieces : List Piece) : Bool :=
  pieces.any fun p => (pagesOf p.va p.len).any fun (va, _) =>
    translated va && !s.utlbHit iss.ctx iss.tile va && (findTlb s.dies[dieOf iss.tile].dtlb iss.ctx (va / 65536)).isNone

/-- The run of waved commands that a waved access belongs to: the slot's present one, which ends at an end flag or at another own number
(R200). -/
def Slot.waveRunOf (k : Slot) (w : WaveInfo) : Nat := if k.waveOwn = some w.own then k.waveRun else k.waveRun + 1
/-- A waved access has issued. A wave that a begin flag opens lasts, for what is ordered after it, until its end flag issues.
Assumption 149 (DEDUCED). -/
def Slot.noteWave (k : Slot) (id : Nat) (w : WaveInfo) : Slot :=
  let marked := if k.waveOwn = some w.own then k.waveMarked else w.isBegin
  { k with
    waveRun := k.waveRunOf w
    waveOwn := if w.isEnd then none else some w.own
    waveMarked := marked
    waves := if w.isEnd then k.waves.filter (·.2.own != w.own) else if marked then k.waves ++ [(id, { w with run := k.waveRunOf w })] else k.waves }

/-- Keep a new access of the tile. -/
def Tile.addAccess (T : Tile) (a : Access) : Tile := { T with accesses := T.accesses ++ [a], nextAcc := a.id + 1 }

/-- Number a waved access of a running task in its run (R200). -/
def State.noteWave (s : State) (iss : Issue) (id : Nat) (w : Option WaveInfo) : Option WaveInfo × State :=
  match w with
  | none => (none, s)
  | some w =>
    (some { w with run := (s.slot iss.tile iss.slot).waveRunOf w },
      if s.alive iss then s.modSlot iss.tile iss.slot fun k => k.noteWave id w else s)

/-- Issue an access: it takes the lowest free log entry, and parks where a page has to be walked (R180, R181). -/
def State.issueAccess (s : State) (iss : Issue) (k : AccKind) (pieces : List Piece) (wave : Option WaveInfo) : Except Stop State :=
  match (s.tile iss.tile).freeLog with
  | none => .error (.block .operandLog)
  | some e =>
    match s.tryLocate iss k pieces false with
    | .error (c, va) => .error (.trap c (w64 va) 0)
    | .ok locs =>
      let pooled := locs.isNone && s.needsWalk iss pieces
      if pooled && s.poolFull iss.tile then .error (.block .tableFull)
      else
        let id := (s.tile iss.tile).nextAcc
        let (wave, s) := s.noteWave iss id wave
        let a : Access := {
          id, iss, kind := k, pieces, wave, parked := locs.isNone, pooled, locs := locs.getD []
          bar := (s.slot iss.tile iss.slot).storeBar
          olog := if locs.isNone || k.keepsLog then some e else none
          entry := some e }
        let s := s.modTile iss.tile fun T => T.addAccess a
        .ok (s.post (if locs.isNone then .pageWalkDone else k.owes) { tile := iss.tile, id })

/-- The lines that a read of some pieces may find or leave in L1. -/
def State.linesOfPieces (s : State) (iss : Issue) (pieces : List Piece) (locs : List (Loc × Nat)) : List Nat :=
  s.l1Lines iss.ctx iss.tile (pieces.flatMap fun p => pagesOf p.va p.len) locs

/-- Report a fault of an access found after its word issued (R182, R343): late to its task, or, where that has ended, to its job. The
access is out of the way until its retry: it holds no later access back.
Assumption 177 (DEDUCED). -/
def State.accessFails (s : State) (a : Access) (code : FaultCode) (addr : Nat) (aux : Word) (again : Option Access) (engine : Bool) : State :=
  let s := s.modTile a.iss.tile fun T => T.dropAccess a.id
  let aux := if a.iss.engine = 0 then aux else w64 a.iss.engine
  if s.alive a.iss then
    s.addLate a.iss.tile a.iss.slot { code, addr := w64 addr, pc := a.iss.pc, olog := a.entry, engine, aux, access := again }
  else s.engineFails a.iss code (w64 addr) aux true

/-- The address a record of a failed access names: its first. -/
def Access.va (a : Access) : Nat := (a.pieces.head?.map (·.va)).getD 0
/-- The aux word of a failed `vamo` element (R343). -/
def AccKind.vamoAux : AccKind → Word | .vamo _ _ ((k, _, _) :: _) _ _ => w64 (5 + k * 65536) | _ => 0
/-- A `vamo` as a retry issues it again: at its first element that has not performed. -/
def Access.atElement (a : Access) : Access := { a with parked := false, pooled := false, pieces := [] }

/-- The die TLB or the page walk answers for an access in focus that missed the micro-TLB; its translations are cached and it goes on, or
it faults late (R179, R180). A prefetch fills its line or is dropped (R197); an element of a `vamo` goes to its node, and its fault stops the
elements after it (R223). -/
def State.accessPaged (s : State) : Option State :=
  match s.here.access? s.focus.id with
  | none => none
  | some a =>
    if !a.parked then none
    else if let .pref l2 := a.kind then
      let s' := s.modTile s.focus.tile fun T => T.dropAccess a.id
      match s.tryLocate a.iss a.kind a.pieces true with
      | .ok (some locs) => some (if s.eccError then s' else
          let s' := s'.fillTlbs a.iss a.pieces
          if l2 then s' else s'.fillL1 s.focus.tile (s.linesOfPieces a.iss a.pieces locs))
      | .ok none => none
      | .error _ => some s'
    else if a.kind.isVamo then
      match s.tryLocate a.iss a.kind a.pieces true with
      | .ok (some _) =>
        if s.eccError then some ((s.modTile s.focus.tile fun T => T.dropAccess a.id).engineFails a.iss .ecc (w64 a.va) a.kind.vamoAux false)
        else some (((s.fillTlbs a.iss a.pieces).modTile s.focus.tile fun T => T.modAccess a.id Access.atElement).post .atomicAtNode s.focus)
      | .ok none => none
      | .error (c, va) => some (s.accessFails a c va a.kind.vamoAux (some a.atElement) true)
    else if s.eccError then some (s.accessFails a .ecc a.va 0 (some a) false)
    else match s.tryLocate a.iss a.kind a.pieces true with
      | .ok (some locs) =>
        let s := s.fillTlbs a.iss a.pieces
        let s := s.modTile s.focus.tile fun T => T.modAccess a.id fun a =>
          { a with parked := false, pooled := false, locs, olog := if a.kind.keepsLog then a.olog else none }
        some (s.post a.kind.owes s.focus)
      | .ok none => none
      | .error (c, va) => some (s.accessFails a c va 0 (some a) false)

/-! ## Order (R200, R209, R220) -/

/-- Whether an access of wave B performs after one of an earlier wave A at tile scope (R200). -/
def WaveInfo.before (a b : Option WaveInfo) : Bool :=
  match a, b with
  | some wa, some wb =>
    wa.run != wb.run && (match wb.pred, wa.succ with
      | none, _ => true
      | _, none => true
      | some p, some q => p == wa.own || q == wb.own)
  | _, _ => false

/-- Whether an access has not yet performed at tile scope. -/
def Access.notAtTile (b : Access) : Bool := !b.tileDone

/-- Whether an acquiring atomic of the task is outstanding, which holds its every later access (R220). -/
def acqHolds (T : Tile) (iss : Issue) (id : Nat) : Bool :=
  (T.ownBefore iss id).any fun b => match b.kind with | .amo _ _ ord _ _ _ => ord.getLsbD 0 | _ => false
/-- Whether wave order holds an access (R200): behind one of an earlier wave that has not performed, or behind a wave that is still open. -/
def waveHolds (T : Tile) (a : Access) : Bool :=
  (T.ownBefore a.iss a.id).any (fun b => WaveInfo.before b.wave a.wave && b.notAtTile) ||
  (let k := T.slot a.iss.slot
   k.epoch == a.iss.epoch && !a.iss.auto && k.waves.any fun (n, w) => decide (n < a.id) && WaveInfo.before (some w) a.wave)
/-- What holds an access of a task behind earlier ones at other addresses. -/
def heldBack (T : Tile) (a : Access) : Bool := acqHolds T a.iss a.id || waveHolds T a

/-- A load may complete: earlier loads of the same bytes have completed, earlier atomics, versioned stores, clears, reclaims and cache
operations over them performed (R208, R209), and the places of the task's earlier stores, whose bytes it takes, are known. -/
def loadReady (T : Tile) (a : Access) : Bool :=
  !a.parked && !heldBack T a &&
  !(T.ownBefore a.iss a.id).any fun b =>
    match b.kind with
    | .store | .vstore | .sbStore => b.parked
    | .vamo .. | .pref _ => false
    | _ => b.parked || overlaps b.locs a.locs

/-- A store may perform at tile scope: earlier loads have completed and earlier stores performed there (R209). -/
def storeReady (T : Tile) (a : Access) : Bool :=
  !a.parked && !heldBack T a &&
  !(T.ownBefore a.iss a.id).any fun b => b.kind.ordinary && (b.kind.isLoad || b.notAtTile)

/-- The stores of a tile that have performed there and not yet in memory, in the order they did. -/
def Tile.storePath (T : Tile) : List Access := T.accesses.filter (·.tileDone)
/-- Those that stand before an access in the store path. -/
def Tile.pathBefore (T : Tile) (id : Nat) : List Access := T.storePath.takeWhile (·.id != id)

/-- The stores that an `ar` fence orders before a later store have performed in memory (R204). -/
def barKept (T : Tile) (iss : Issue) (bar : Nat) : Bool := !(T.ownBefore iss bar).any fun b => b.kind.isStore

/-- A store may perform in memory: none before it in the store path touches its bytes, and what a fence orders before it has. -/
def commitReady (T : Tile) (a : Access) : Bool :=
  !((T.pathBefore a.id).any fun b => overlaps b.locs a.locs) && barKept T a.iss a.bar

/-- Every earlier ordinary access of the task has performed, at tile scope or in memory (R191, R204). -/
def releasedAt (T : Tile) (iss : Issue) (id : Nat) (wide : Bool) : Bool :=
  !(T.ownBefore iss id).any fun b => b.kind.ordinary && (b.kind.isLoad || wide || b.notAtTile)

/-! ## Values -/

/-- The bytes an access reads: those of the task's own latest earlier stores, of the tile's store path, of L1 where it holds a line the
access may find there, and of memory (R175, R202). -/
def State.loadBytes (s : State) (t : TileId) (iss : Issue) (id : Nat) (locs : List (Loc × Nat)) (lines : List Nat) : List Byte :=
  let T := s.tile t
  let path := T.storePath.filter fun b => b.kind.hasData && overlaps b.locs locs
  let own := (T.ownBefore iss id).filter fun b => b.kind.hasData && b.notAtTile && overlaps b.locs locs
  let newer := ((path ++ own).flatMap Access.bytes).reverse
  let keys := locs.flatMap fun (l, n) => (List.range n).map fun i => (l.key.1, l.key.2 + i)
  (keys.zip (s.readLocs locs)).map fun (k, b) => ((newer.find? fun (k', _) => k' == k).map (·.2)).getD
    (if k.1 = 0 ∧ lines.contains (k.2 / 64) then (T.l1Byte k.2).getD b else b)

/-- Bytes a register of a block occupies (R194). -/
def regBytes (t : BitVec 5) : Nat := if t = 6 then 68 else 64

/-- A v register from its bytes (R194): for q4, four blocks of 16 code bytes and a scale byte. -/
def regOf (t : BitVec 5) (bs : List Byte) : VReg :=
  if t = 6 then
    { data := BitVec.ofNat 512 (leNat ((List.range 4).flatMap fun k => (bs.drop (17 * k)).take 16))
      side := BitVec.ofNat 32 (leNat ((List.range 4).map fun k => bs.getD (17 * k + 16) 0)), tag := t }
  else { data := BitVec.ofNat 512 (leNat (bs.take 64)), side := 0, tag := t }
/-- The bytes of a v register. -/
def bytesOf (t : BitVec 5) (v : VReg) : List Byte :=
  let d := leBytes 64 v.data.toNat
  if t = 6 then (List.range 4).flatMap fun k => (d.drop (16 * k)).take 16 ++ [BitVec.ofNat 8 (sideByte v k)] else d

/-- The lines that an access may find or leave in L1. -/
def State.linesOfAccess (s : State) (a : Access) : List Nat := s.linesOfPieces a.iss a.pieces a.locs

/-- Registers from the bytes of a block. -/
def regsOf (t : BitVec 5) : Nat → List Byte → List VReg
  | 0, _ => []
  | n + 1, bs => regOf t (bs.take (regBytes t)) :: regsOf t n (bs.drop (regBytes t))

/-- A loaded value. -/
def loadedWord (signed : Bool) (bs : List Byte) : Word :=
  let v := leNat bs
  let w := 8 * bs.length
  if signed && decide (2 ^ (w - 1) ≤ v) then w64 (v + 2 ^ 64 - 2 ^ w) else w64 v

/-- A register that was pending has its value. -/
def State.retire (s : State) (iss : Issue) (rd : XReg) (v : Word) : State :=
  if s.alive iss then s.modSlot iss.tile iss.slot fun k => { k.setX rd v with pendX := k.pendX.erase rd.toNat } else s

/-- LOAD_COMPLETE (R175, R184, R194, R195): a load's data returns; its destination is written, and L1 keeps the lines it may hold. An
uncorrectable error is a late fault (R176, R182). -/
def execLoadComplete (s : State) : Out :=
  happening .loadComplete (fun s =>
    let t := s.focus.tile
    match s.here.access? s.focus.id with
    | none => none
    | some a =>
      if !loadReady s.here a then none
      else if s.eccError then some (s.accessFails a .ecc a.va 0 (some a) false)
      else
        let lines := s.linesOfAccess a
        let bs := s.loadBytes t a.iss a.id a.locs lines
        let s' := (s.modTile t fun T => T.dropAccess a.id).fillL1 t lines
        match a.kind with
        | .load rd signed => some (s'.retire a.iss rd (loadedWord signed bs))
        | .vload vds tag => some (s'.modTile t fun T => T.setVs vds (regsOf tag vds.length bs))
        | .mload md tag => some (s'.modTile t fun T => { T with m := T.m.set (md % 16) { data := BitVec.ofNat 16384 (leNat bs), tag } })
        | _ => none) s

/-! ## Stores perform -/

/-- Store the registers of an `sbst` in order until one meets a set presence bit (R196): the state, and the piece that did. -/
def sbPut : List Piece → List (Loc × Nat) → State → State × Option (List Piece)
  | [], _, s => (s, none)
  | p :: ps, ls, s =>
    let (mine, rest) := splitLocs p.len ls
    let words := mine.flatMap fun (l, n) => match l with | .sp u off => (presenceWords off n).map fun w => (u, w) | _ => []
    if words.any fun (u, w) => (s.tile u).present.contains w then (s, some (p :: ps))
    else
      let s := s.writeLocs mine p.bytes
      let s := words.foldl (fun s (u, w) => s.modTile u fun T => { T with present := setPresent T.present [w] }) s
      sbPut ps rest s
where
  /-- the locations of the first n bytes -/
  splitLocs : Nat → List (Loc × Nat) → List (Loc × Nat) × List (Loc × Nat)
    | _, [] => ([], [])
    | n, (l, m) :: ls =>
      if n = 0 then ([], (l, m) :: ls)
      else let (a, b) := splitLocs (n - m) ls; ((l, m) :: a, b)

/-- Raise the floor of a versioned word and retire its old versions (R189). -/
def VWord.reclaim (w : VWord) (f : Nat) : VWord :=
  { w with floor := max w.floor f, versions := w.versions.filter fun (u, _) => decide (f ≤ u) || u == w.newest.1 }

/-- The aligned 8-byte words of a located range of versioned memory. -/
def wordsOf (ls : List (Loc × Nat)) : List Nat :=
  ls.flatMap fun (l, n) => match l with | .dev pa _ _ => (List.range (n / 8)).map fun i => pa + 8 * i | _ => []

/-- What a store does in memory.
Assumption 13 (DESIGN CHOICE). -/
def State.commit (s : State) (a : Access) : State :=
  let s := s.modTile a.iss.tile fun T => T.dropAccess a.id
  match a.kind with
  | .store | .vstore =>
    let s := s.writeLocs a.locs (a.pieces.flatMap (·.bytes))
    (s.modTile a.iss.tile fun T => a.bytes.foldl (fun T (k, b) => if k.1 = 0 then T.putL1 k.2 b else T) T).fillL1 a.iss.tile
      (s.linesOfAccess a)
  | .sbStore =>
    match sbPut a.pieces a.locs s with
    | (s, none) => s
    | (s, some ps) =>
      s.accessFails a .sbRewrite ((ps.head?.map (·.va)).getD 0) 0 (some { a with pieces := ps, tileDone := false }) false
  | .sbClear =>
    a.locs.foldl (fun s (l, n) =>
      match l with
      | .sp u off => s.modTile u fun T => { T with present := T.present.filter fun w => !(presenceWords off n).contains w }
      | _ => s) s
  | .rclm f => (wordsOf a.locs).foldl (fun s pa => s.setVword pa ((s.vword pa).reclaim f)) s
  | .cacheOp true => s.dropL1 a.iss.tile (plainLines a.locs)
  | _ => s

/-- Whether a store changes only part of some 8 bytes of plain memory or scratchpad, which it then has to read (R19, R176).
Assumption 134 (DESIGN CHOICE). -/
def Access.partial_ (a : Access) : Bool :=
  a.kind.hasData && a.locs.any fun (l, n) => (l.key.2 % 8 != 0 || n % 8 != 0) && (match l with | .dev .. | .sp .. => true | _ => false)

/-- L1 is written back: what the tile's store path holds performs in memory, oldest first (R17, R175). -/
def State.writeBack (s : State) (t : TileId) : State := (s.tile t).storePath.foldl (fun s a => s.commit a) s

/-- ACCESS_PERFORM (R202, R209): a posted store performs at tile scope, in the order of its task; then in memory. -/
def execAccessPerform (s : State) : Out :=
  happening .accessPerform (fun s =>
    let t := s.focus.tile
    match s.here.access? s.focus.id with
    | none => none
    | some a =>
      match a.kind with
      | .store | .vstore | .sbStore | .sbClear | .cacheOp _ | .rclm _ =>
        if a.tileDone then
          (if !commitReady s.here a then none
           else if s.eccError && a.partial_ then some (s.accessFails a .ecc a.va 0 (some { a with tileDone := false }) false)
           else some (s.commit a))
        else if storeReady s.here a then
          some ((s.modTile t fun T => let U := T.dropAccess a.id; { U with accesses := U.accesses ++ [{ a with tileDone := true }] }).post
            .accessPerform s.focus)
        else none
      | _ => none) s

/-! ## Scalar loads and stores (R183) -/

/-- ea = x[ra] + sx(off10) (R183). -/
def ea (s : State) (a : XReg) (off : BitVec 10) : Nat := (s.getX a + off.signExtend 64).toNat

/-- Whether a device physical address lies in a page that some leaf maps versioned. -/
def State.isVersioned (s : State) (a : Nat) : Bool := s.verPages.any fun (_, b, n) => decide (b ≤ a ∧ a < b + n)
/-- Whether a range lies in device memory. -/
def inHbm (a n : Nat) : Bool := decide (a + n ≤ Config.hbmBytes)
/-- Bytes of device memory; a versioned word shows its newest version. -/
def State.devBytes (s : State) (a n : Nat) : List Byte := (List.range n).map fun i => s.readByte (.dev a true 2) i
/-- Bytes of device memory are written at a physical address; a versioned page is not. -/
def State.putPlain (s : State) (a : Nat) (bs : List Byte) : State :=
  if s.isVersioned a then s else { s with mem := Memory.write s.mem a bs }

/-- A load of the management core (R337): its addresses are device physical ones, and outside device memory it gives a free value (assumption
12, DESIGN CHOICE), as it does where the read meets an uncorrectable error (assumption 173, DESIGN CHOICE). -/
def State.sysLoad (s : State) (size : Nat) (signed : Bool) (d : XReg) (a : Nat) : State :=
  if inHbm a size && !s.eccError then s.setX d (loadedWord signed (s.devBytes a size)) else let (v, s) := s.draw; s.setX d v
/-- A store of the management core (R337, R338).
Assumption 12 (DESIGN CHOICE). -/
def State.sysStore (s : State) (a : Nat) (bs : List Byte) : State := if inHbm a bs.length then s.putPlain a bs else s

/-- A scalar load of `size` bytes.
Assumption 17 (DEDUCED). -/
def runLoad (size : Nat) (signed : Bool) (d a : XReg) (o : BitVec 10) (g : PReg) (s : State) : Out :=
  runWord g [d, a] [] (fun s =>
    if s.sysMode then .ok (s.sysLoad size signed d (ea s a o))
    else if s.memWaits then .error (.block .fullPort)
    else
      let va := ea s a o
      if va % size ≠ 0 then .error (.trap .misaligned (w64 va) 0)
      else
        match s.issueAccess s.issue (.load d signed) [{ va, len := size }] none with
        | .ok t => .ok (if d = 0 then t else t.modCur fun k => { k with pendX := k.pendX ++ [d.toNat] })
        | .error e => .error e) s

/-- `ldb`, `ldbs`, `ldh`, `ldhs`, `ldw`, `ldws`, `ldd` (R183). -/
def execLdb (d a : XReg) (o : BitVec 10) (g : PReg) (s : State) : Out := runLoad 1 false d a o g s
def execLdbs (d a : XReg) (o : BitVec 10) (g : PReg) (s : State) : Out := runLoad 1 true d a o g s
def execLdh (d a : XReg) (o : BitVec 10) (g : PReg) (s : State) : Out := runLoad 2 false d a o g s
def execLdhs (d a : XReg) (o : BitVec 10) (g : PReg) (s : State) : Out := runLoad 2 true d a o g s
def execLdw (d a : XReg) (o : BitVec 10) (g : PReg) (s : State) : Out := runLoad 4 false d a o g s
def execLdws (d a : XReg) (o : BitVec 10) (g : PReg) (s : State) : Out := runLoad 4 true d a o g s
def execLdd (d a : XReg) (o : BitVec 10) (g : PReg) (s : State) : Out := runLoad 8 false d a o g s

/-- Whether an address lies in the block-transfer aperture. -/
def inAperture (va : Nat) : Bool := decide (Config.apertureBase ≤ va) && decide (va < Config.apertureEnd)

/-- Put a copy on a copy channel, behind the copies issued before it (R227). -/
def State.addCopy (s : State) (d : DieId) (n : Fin 64) (k : Copy) : State :=
  State.modDie { s with nextCopy := s.nextCopy + 1 } d fun D => { D with ch := D.ch.set n { D.ch[n] with q := D.ch[n].q ++ [k] } }

/-- The body of a scalar store: a doubleword at the aperture starts a templated copy, on the channel its address names (R231). -/
def storeBody (size : Nat) (d a : XReg) (o : BitVec 10) (s : State) : Except Stop State :=
  if s.sysMode then .ok (s.sysStore (ea s a o) (leBytes size (s.getX d).toNat))
  else if s.memWaits then .error (.block .fullPort)
  else
    let va := ea s a o
    let v := s.getX d
    if va % size ≠ 0 then .error (.trap .misaligned (w64 va) 0)
    else if inAperture va then
      let off := va - Config.apertureBase
      if size ≠ 8 ∨ off % 4096 ≠ 0 ∨ 64 ≤ off / 4096 then .error (.trap .protect (w64 va) 0)
      else if v.extractLsb' 12 4 ≠ 0#4 then .error (.trap .illegalField (w64 va) 0)
      else
        match s.here.freeLog with
        | none => .error (.block .operandLog)
        | some _ =>
          let id := s.here.nextAcc
          let acc : Access := {
            id, iss := s.issue, olog := none, entry := s.here.freeLog, kind := .aperture s.nextCopy, pieces := [{ va, len := 8, bytes := leBytes 8 v.toNat }]
            parked := false, bar := s.cur.storeBar }
          let k : Copy := { id := s.nextCopy, iss := s.issue, dst := .mem, rows := [], count := 0, reply := .none, templ := some v }
          let s := s.addCopy (dieOf s.focus.tile) ⟨off / 4096 % 64, by omega⟩ k
          .ok ((s.modTile s.focus.tile fun T => { T with accesses := T.accesses ++ [acc], nextAcc := id + 1 }).post .templateCopy
            { tile := s.focus.tile, id })
    else s.issueAccess s.issue .store [{ va, len := size, bytes := leBytes size v.toNat }] none

/-- A scalar store of `size` bytes. -/
def runStore (size : Nat) (d a : XReg) (o : BitVec 10) (g : PReg) (s : State) : Out := runWord g [d, a] [] (storeBody size d a o) s

/-- `stb`, `sth`, `stw`, `std` (R183). -/
def execStb (d a : XReg) (o : BitVec 10) (g : PReg) (s : State) : Out := runStore 1 d a o g s
def execSth (d a : XReg) (o : BitVec 10) (g : PReg) (s : State) : Out := runStore 2 d a o g s
def execStw (d a : XReg) (o : BitVec 10) (g : PReg) (s : State) : Out := runStore 4 d a o g s
def execStd (d a : XReg) (o : BitVec 10) (g : PReg) (s : State) : Out := runStore 8 d a o g s

/-! ## Cache operations (R197) -/

/-- A memory instruction needs a free entry of the operand log (R181), which it gives back in the same step. -/
def State.takesLog (s : State) (body : State → Except Stop State) : Except Stop State :=
  if !s.sysMode && s.here.freeLog.isNone then .error (.block .operandLog) else body s

/-- A prefetch: where its page is known it fills its line at once, into L1 where L1 may hold it; L2 holds what memory holds for every reader, so
that `pref.l2` shows nothing there. A miss of the micro-TLB is an access of its own (R180). It never faults: a failed translation drops it. -/
def prefBody (l2 : Bool) (a : XReg) (o : BitVec 10) (s : State) : Except Stop State :=
  if s.sysMode then .ok s
  else
    let ps : List Piece := [{ va := ea s a o, len := 1 }]
    match s.tryLocate s.issue (.pref l2) ps false with
    | .ok (some locs) => .ok (if l2 then s else s.fillL1 s.focus.tile (s.linesOfPieces s.issue ps locs))
    | .ok none => s.issueAccess s.issue (.pref l2) ps none
    | .error _ => .ok s
/-- `pref [ra+off]`. -/
def execPref (a : XReg) (o : BitVec 10) (g : PReg) (s : State) : Out := runWord g [a] [] (fun s => s.takesLog (prefBody false a o)) s
/-- `pref.l2 [ra+off]`. -/
def execPrefL2 (a : XReg) (o : BitVec 10) (g : PReg) (s : State) : Out := runWord g [a] [] (fun s => s.takesLog (prefBody true a o)) s

/-- The body of `cfl` and `cinv`: the 64-byte line holding ea; ordered as a store. A failed translation names the line's base, an ea at or above
2^52 itself.
Assumption 176 (DESIGN CHOICE). -/
def cacheBody (inval : Bool) (a : XReg) (o : BitVec 10) (s : State) : Except Stop State :=
  if s.sysMode then .ok s
  else if s.memWaits then .error (.block .fullPort)
  else
    let va := ea s a o
    if Config.vaEnd ≤ va then .error (.trap .xlate (w64 va) 0)
    else s.issueAccess s.issue (.cacheOp inval) [{ va := va / 64 * 64, len := 64 }] none
/-- `cfl [ra+off]`. -/
def execCfl (a : XReg) (o : BitVec 10) (g : PReg) (s : State) : Out := runWord g [a] [] (cacheBody false a o) s
/-- `cinv [ra+off]`. -/
def execCinv (a : XReg) (o : BitVec 10) (g : PReg) (s : State) : Out := runWord g [a] [] (cacheBody true a o) s

/-! ## Fences (R204 to R206) -/

/-- Whether the accesses a fence covers have performed at its scope. `ar` covers stores only against later stores: it waits for the
earlier loads and for every parked access, and its order of stores is kept by the store barrier. -/
def fenceDone (T : Tile) (iss : Issue) (kind : Nat) (wide : Bool) (upto : Nat) : Bool :=
  let own := (T.ownBefore iss upto).filter (·.kind.ordinary)
  let noLoads := !own.any (·.kind.isLoad)
  let noStores := !own.any fun b => b.kind.isStore && (wide || b.notAtTile)
  match kind with
  | 0 | 5 => noLoads
  | 2 => noLoads && !own.any (·.parked)
  | _ => noLoads && noStores

/-- A fence completes: its status, its store barrier, and the next word (R204, R206); one that orders later loads at a scope wider than the
tile, or behind engines, leaves no line in L1 (R175, R205). -/
def State.endFence (s : State) (t : TileId) (k : SlotId) (kind : Nat) (wide : Bool) (upto : Nat) : State :=
  (if kind = 5 ∨ (wide ∧ (kind = 0 ∨ kind = 2 ∨ kind = 3)) then s.acquireL1 t else s).modSlot t k fun q => { q with
    stat := if q.fenced then q.stat ||| (1 <<< 18) else q.stat
    fenced := false
    storeBar := if kind = 2 && wide then max q.storeBar upto else q.storeBar }

/-- A fence word: at elem or lane scope it orders nothing.
Assumption 10 (DEDUCED).
Assumption 14 (DEDUCED). -/
def runFence (kind : Nat) (scope : BitVec 4) (g : PReg) (s : State) : Out :=
  runWord g [] [] (fun s =>
    if s.sysMode then .ok s
    else
      let upto := s.here.nextAcc
      let wide := decide (2 < scope.toNat) || kind == 4
      if scope.toNat ≤ 1 then .ok (s.modCur fun q => { q with stat := if q.fenced then q.stat ||| (1 <<< 18) else q.stat, fenced := false })
      else if s.memWaits then .error (.block .fullPort)
      else if fenceDone s.here s.issue kind wide upto then .ok (s.endFence s.focus.tile s.focus.slot kind wide upto)
      else .error (.block (.fence kind wide upto))) s

/-- `fnc.acq`, `fnc.rel`, `fnc.ar`, `fnc.sc` (R204), `xfnc.oe`, `xfnc.eo` (R205). -/
def execFncAcq (sc : BitVec 4) (g : PReg) (s : State) : Out := runFence 0 sc g s
def execFncRel (sc : BitVec 4) (g : PReg) (s : State) : Out := runFence 1 sc g s
def execFncAr (sc : BitVec 4) (g : PReg) (s : State) : Out := runFence 2 sc g s
def execFncSc (sc : BitVec 4) (g : PReg) (s : State) : Out := runFence 3 sc g s
def execXfncOe (sc : BitVec 4) (g : PReg) (s : State) : Out := runFence 4 sc g s
def execXfncEo (sc : BitVec 4) (g : PReg) (s : State) : Out := runFence 5 sc g s

/-- The issue data of a slot. -/
def State.issueOf (s : State) (t : TileId) (k : SlotId) : Issue :=
  let q := s.slot t k
  { ctx := ((s.tile t).owner).getD 1024, tile := t, slot := k, pc := q.pc, job := q.job, epoch := q.epoch, x := q.x,
    wave := if q.cls.isOpen then q.cls.wave else 0xFF }

/-- A word that BLOCKED its slot completes: the slot becomes READY at the next word. -/
def State.completeWord (s : State) (t : TileId) (k : SlotId) (len : Nat) : State :=
  s.modSlot t k fun q => { q with status := .ready, wait := .none, pc := q.pc + BitVec.ofNat 16 len, run := 0 }

/-- FENCE_COMPLETE (R204, R206): the accesses a BLOCKED fence covers have performed. -/
def execFenceComplete (s : State) : Out :=
  happening .fenceComplete (fun s =>
    let t := s.focus.tile
    let k := s.focus.slot
    let q := s.slot t k
    match q.status, q.wait with
    | .blocked, .fence kind wide upto =>
      if q.late.isEmpty && fenceDone s.here (s.issueOf t k) kind wide upto then
        some ((s.endFence t k kind wide upto).completeWord t k 4)
      else none
    | _, _ => none) s

/-! ## Late faults (R182, R206) -/

/-- LATE_FAULT (R182): a fault found after issue stops its task at the next word boundary, which a BLOCKED word stands at, but
for one whose answer the scheduler still owes. Behind a
fence the fence is the next word, and it will complete with fault-ordered status. -/
def execLateFault (s : State) : Out :=
  happening .lateFault (fun s =>
    let t := s.focus.tile
    let k := s.focus.slot
    let q := s.slot t k
    match q.status, q.late with
    | .running, l :: rest | .ready, l :: rest | .blocked, l :: rest =>
      if q.wait == .scheduler then none else
      let fenced := match q.wait with | .fence .. => true | _ => false
      let s := s.modSlot t k fun q => { q with late := rest }
      let s := s.stopSlot t k (if l.engine then 2 else 0)
        { code := l.code, pc := l.pc, rpc := if q.cls.isOpen then q.cls.hdr else q.pc, late := true, inClause := q.cls.isOpen, len := 0,
          access := l.access, cmd := l.cmd, fallThrough := false } l.addr l.aux l.olog fenced
      some (if rest.isEmpty then s else s.postOnce .lateFault s.focus)
    | _, _ => none) s

/-! ## Class 0x5 (R192 to R196) -/

/-- The stride of a block: an immediate, a signed x value, or the default (R193, R194). -/
def strideOf (iss : Issue) (slot : BitVec 16) (dflt : Nat) : Int :=
  if slot = 0 then dflt else if isX slot then (iss.getX (slotX slot)).toInt else immN slot

/-- An address modulo 2^64. -/
def wrap64 (a : Int) : Nat := (a % 2 ^ 64).toNat

/-- The addresses of the registers of a block in R44 order (R194). -/
def blockAddrs (c : Cmd) (iss : Issue) (size : Nat) : List Nat :=
  let base := (iss.getX (slotX c.s2)).toNat
  let stride := strideOf iss c.s3 (cmdW c * size)
  (List.range (cmdH c)).flatMap fun (y : Nat) => (List.range (cmdW c)).map fun (x : Nat) => wrap64 (base + y * stride + x * size)

/-- The addresses of the 32 rows of an m register (R195). -/
def rowAddrs (c : Cmd) (iss : Issue) : List Nat :=
  let base := (iss.getX (slotX c.s2)).toNat
  (List.range 32).map fun (k : Nat) => wrap64 (base + k * strideOf iss c.s3 64)

/-- Every address is aligned (R194, R195). -/
def aligned (n : Nat) (as : List Nat) : Except Stop Unit :=
  match as.find? fun a => a % n != 0 with
  | some a => .error (.trap .misaligned (w64 a) 0)
  | none => .ok ()

/-- The alignment of a register's address. -/
def regAlign (t : BitVec 5) : Nat := if t = 6 then 4 else 64

/-- The pieces of a load of registers. -/
def loadPieces (c : Cmd) (iss : Issue) (t : BitVec 5) : List Piece :=
  (blockAddrs c iss (regBytes t)).map fun va => { va, len := regBytes t }
/-- The pieces of a store of registers, under the format of the sources. -/
def storePieces (c : Cmd) (iss : Issue) (s : State) (t : BitVec 5) : List Piece :=
  ((blockAddrs c iss (regBytes t)).zip (s.block iss c c.s1)).map fun (va, v) => { va, len := regBytes t, bytes := bytesOf t v }
/-- The 32 rows of an m register. -/
def mPieces (c : Cmd) (iss : Issue) (m : Option MReg) : List Piece :=
  (rowAddrs c iss).zipIdx.map fun (va, k) =>
    { va, len := 64, bytes := match m with | some r => leBytes 64 (r.data.extractLsb' (512 * k) 512).toNat | none => [] }

/-- The format of a store's sources (R43): one tag, neither 0x00 nor q6. -/
def storeTag (c : Cmd) (iss : Issue) (s : State) : Except Stop (BitVec 5) := do
  let t ← checkTags c (s.block iss c c.s1)
  need (t != 7) .formatMismatch
  .ok t

def chkVld (c : Cmd) (iss : Issue) (s : State) : Except Stop Unit := do
  checkBlocks c [c.s1] iss s
  aligned (regAlign c.tag) (blockAddrs c iss (regBytes c.tag))
  s.checkAccess iss (.vload [] c.tag) (loadPieces c iss c.tag) c.hint
def effVld (c : Cmd) (iss : Issue) (s : State) : Except Stop State :=
  s.issueAccess iss (.vload (blockRegs c (slotV c.s1)) c.tag) (loadPieces c iss c.tag) (waveInfo c iss)
/-- `vld.fmt vd:hxw, [xb], stride` (R194). -/
def execVld (c : Cmd) (s : State) : Out := issueCommand (.vld c) c [] (chkVld c) (effVld c) s

def chkVst (c : Cmd) (iss : Issue) (s : State) : Except Stop Unit := do
  checkBlocks c [c.s1] iss s
  let t ← storeTag c iss s
  aligned (regAlign t) (blockAddrs c iss (regBytes t))
  s.checkAccess iss .vstore (storePieces c iss s t) c.hint
def effVst (c : Cmd) (iss : Issue) (s : State) : Except Stop State := do
  let t ← storeTag c iss s
  s.issueAccess iss .vstore (storePieces c iss s t) (waveInfo c iss)
/-- `vst.fmt vs:hxw, [xb], stride` (R194). -/
def execVst (c : Cmd) (s : State) : Out := issueCommand (.vst c) c [] (chkVst c) (effVst c) s

def chkTld (c : Cmd) (iss : Issue) (s : State) : Except Stop Unit := do
  aligned 64 (rowAddrs c iss)
  s.checkAccess iss (.mload 0 c.tag) (mPieces c iss none) c.hint
def effTld (c : Cmd) (iss : Issue) (s : State) : Except Stop State :=
  s.issueAccess iss (.mload (slotN c.s1).val c.tag) (mPieces c iss none) (waveInfo c iss)
/-- `tld.fmt md, [xb], stride` (R195). -/
def execTld (c : Cmd) (s : State) : Out := issueCommand (.tld c) c [] (chkTld c) (effTld c) s

def chkTst (c : Cmd) (iss : Issue) (s : State) : Except Stop Unit := do
  let m := (s.tile iss.tile).m[slotN c.s1]
  need (m.tag != 0 && m.tag != 7 && (c.tag == 0 || m.tag == c.tag)) .formatMismatch
  aligned 64 (rowAddrs c iss)
  s.checkAccess iss .vstore (mPieces c iss (some m)) c.hint
def effTst (c : Cmd) (iss : Issue) (s : State) : Except Stop State :=
  s.issueAccess iss .vstore (mPieces c iss (some (s.tile iss.tile).m[slotN c.s1])) (waveInfo c iss)
/-- `tst ms, [xb], stride` (R195). -/
def execTst (c : Cmd) (s : State) : Out := issueCommand (.tst c) c [] (chkTst c) (effTst c) s

/-- The own scratchpad offset of an address, through either range of R174. -/
def ownOffset (iss : Issue) (va : Nat) : Option Nat :=
  if Config.ownSpBase ≤ va ∧ va < Config.vaEnd then some (va - Config.ownSpBase)
  else if Config.spBase + Config.spStride * iss.tile.val ≤ va ∧ va < Config.spBase + Config.spStride * (iss.tile.val + 1) then
    some (va - (Config.spBase + Config.spStride * iss.tile.val))
  else none

/-- `sbld` reads the issuing tile's own scratchpad only. -/
def chkSbld (c : Cmd) (iss : Issue) (s : State) : Except Stop Unit := do
  checkBlocks c [c.s1] iss s
  let as := blockAddrs c iss (regBytes c.tag)
  aligned (regAlign c.tag) as
  match as.find? fun a => decide (Config.vaEnd ≤ a) with
  | some a => .error (.trap .xlate (w64 a) 0)
  | none =>
    match as.find? fun a => (match ownOffset iss a with
      | some o => decide (Config.spShare (s.tile iss.tile).split < o + regBytes c.tag) | none => true) with
    | some a => .error (.trap .protect (w64 a) 0)
    | none => .ok ()

/-- The effect of `sbld`: once what is ordered before it has performed and every word is present, the block is read (R196). Its slot stays
BLOCKED until then, so that an uncorrectable error in the block is a precise fault (R182). -/
def effSbld (c : Cmd) (iss : Issue) (s : State) : Except Stop State :=
  let T := s.tile iss.tile
  let size := regBytes c.tag
  let offs := (blockAddrs c iss size).filterMap (ownOffset iss)
  let missing := (offs.flatMap fun o => presenceWords o size).filter fun w => !T.present.contains w
  let locs : List (Loc × Nat) := offs.map fun o => (.sp iss.tile o, size)
  let (wave, s') := s.noteWave iss T.nextAcc (waveInfo c iss)
  let a : Access := { id := T.nextAcc, iss, olog := none, kind := .vload [] c.tag, pieces := [], locs, parked := false, wave }
  if T.freeLog.isNone then .error (.block .operandLog)
  else if !loadReady T a then .error (.block (.presence []))
  else if !missing.isEmpty then .error (.block (.presence missing))
  else if s.eccError then .error (.trap .ecc (w64 (((blockAddrs c iss size).head?).getD 0)) 0)
  else
    let regs := blockRegs c (slotV c.s1)
    .ok (s'.modTile iss.tile fun T =>
      { T.setVs regs (regsOf c.tag regs.length (s.loadBytes iss.tile iss T.nextAcc locs [])) with nextAcc := T.nextAcc + 1 })
/-- `sbld.fmt vd:hxw, [xb], stride` (R196). -/
def execSbld (c : Cmd) (s : State) : Out := issueCommand (.sbld c) c [] (chkSbld c) (effSbld c) s

/-- The presence bits of the issuing tile as its words issued so far leave them: those set now, changed in order by the tile's own stream
buffer stores and clears that have still to perform (R196). -/
def Tile.presentAhead (T : Tile) : List Nat :=
  T.accesses.foldl (fun ws a =>
    let mine := (a.pieces.filterMap fun p => (ownOffset a.iss p.va).map fun o => presenceWords o p.len).flatten
    match a.kind with
    | .sbStore => ws ++ mine
    | .sbClear => ws.filter fun w => !mine.contains w
    | _ => ws) T.present

/-- The first register of an `sbst` whose words of the own tile hold a set presence bit, with the registers before it (R196). -/
def sbSplit (iss : Issue) (ws : List Nat) : List Piece → List Piece × Option Piece
  | [] => ([], none)
  | p :: ps =>
    let mine := match ownOffset iss p.va with | some o => presenceWords o p.len | none => []
    if mine.any ws.contains then ([], some p)
    else let r := sbSplit iss (ws ++ mine) ps; (p :: r.1, r.2)

/-- An address of one of the two scratchpad ranges of R174. -/
def inSpRanges (va : Nat) : Bool := decide (Config.ownSpBase ≤ va) || (decide (Config.spBase ≤ va) && decide (va < Config.spEnd))

/-- `sbst`: every register lies in a scratchpad of the launch; any other address below 2^52 traps F_PROTECT (R174, R196). -/
def chkSbst (c : Cmd) (iss : Issue) (s : State) : Except Stop Unit := do
  checkBlocks c [c.s1] iss s
  let t ← storeTag c iss s
  let as := blockAddrs c iss (regBytes t)
  aligned (regAlign t) as
  match as.find? fun a => decide (Config.vaEnd ≤ a) || !inSpRanges a with
  | some a => .error (.trap (if Config.vaEnd ≤ a then .xlate else .protect) (w64 a) 0)
  | none => s.checkAccess iss .sbStore (storePieces c iss s t) c.hint
/-- A set bit of the own tile is found before the next word issues, a set bit of another tile at its port (R182, R196). -/
def effSbst (c : Cmd) (iss : Issue) (s : State) : Except Stop State := do
  let t ← storeTag c iss s
  let ps := storePieces c iss s t
  if (s.tile iss.tile).freeLog.isNone then .error (.block .operandLog)
  -- one that a clause held finds a set bit at its port
  else if iss.wave ≠ 0xFF then s.issueAccess iss .sbStore ps (waveInfo c iss)
  else
  match (sbSplit iss (s.tile iss.tile).presentAhead ps).2 with
  | some p => .error (.trap .sbRewrite (w64 p.va) 0)
  | none => s.issueAccess iss .sbStore ps (waveInfo c iss)
/-- The registers before the one that traps stand: they are stored (R196). -/
def partSbst (c : Cmd) (iss : Issue) (s : State) : State :=
  match storeTag c iss s with
  | .error _ => s
  | .ok t =>
    match sbSplit iss (s.tile iss.tile).presentAhead (storePieces c iss s t) with
    | (p :: ps, some _) => match s.issueAccess iss .sbStore (p :: ps) (waveInfo c iss) with | .ok s' => s' | .error _ => s
    | _ => s
/-- `sbst.fmt vs:hxw, [xb], stride` (R196). -/
def execSbst (c : Cmd) (s : State) : Out := issueCommand (.sbst c) c [] (chkSbst c) (effSbst c) s (partSbst c)

/-- The range of an `sbclr`. -/
def sbclrPieces (c : Cmd) (iss : Issue) : List Piece := [{ va := (iss.getX (slotX c.s1)).toNat, len := iss.xOrImm c.s2 0 }]
/-- The range lies in one scratchpad window. -/
def oneWindow (va len : Nat) : Bool :=
  if Config.ownSpBase ≤ va then decide (va + len ≤ Config.vaEnd)
  else inSpRanges va && decide (va + len ≤ Config.spBase + ((va - Config.spBase) / Config.spStride + 1) * Config.spStride)

def chkSbclr (c : Cmd) (iss : Issue) (s : State) : Except Stop Unit := do
  let va := (iss.getX (slotX c.s1)).toNat
  let len := iss.xOrImm c.s2 0
  needAt (va % 4 == 0 && len % 4 == 0) .misaligned va
  needAt (decide (va < Config.vaEnd)) .xlate va
  needAt (oneWindow va len) .protect va
  s.checkAccess iss .sbClear [{ va, len := max len 1 }] c.hint
def effSbclr (c : Cmd) (iss : Issue) (s : State) : Except Stop State := s.issueAccess iss .sbClear (sbclrPieces c iss) none
/-- `sbclr [xb], len` (R196). -/
def execSbclr (c : Cmd) (s : State) : Out := issueCommand (.sbclr c) c [] (chkSbclr c) (effSbclr c) s

/-! ## Hardware queues (R198, R199, R333, R334) -/

/-- A descriptor's fields (R198). -/
structure HqDesc where
  base : Nat
  head : Nat
  tail : Nat
  ctl : BitVec 32
  rest : Nat
  deriving DecidableEq, Repr

def HqDesc.cap (d : HqDesc) : Nat := 2 ^ (d.ctl.extractLsb' 0 5).toNat
def HqDesc.nen (d : HqDesc) : Bool := d.ctl.getLsbD 5
def HqDesc.ntile (d : HqDesc) : TileId := ⟨(d.ctl.extractLsb' 6 10).toNat, (d.ctl.extractLsb' 6 10).isLt⟩
def HqDesc.nvc (d : HqDesc) : SlotId := ⟨(d.ctl.extractLsb' 16 4).toNat, (d.ctl.extractLsb' 16 4).isLt⟩
def HqDesc.scope (d : HqDesc) : Nat := (d.ctl.extractLsb' 20 4).toNat
/-- Entries it holds. -/
def HqDesc.held (d : HqDesc) : Nat := (d.tail + 2 ^ 32 - d.head) % 2 ^ 32
/-- The fields are in range (R198, R199), the base a multiple of 64 among them.
Assumption 174 (DEDUCED). -/
def HqDesc.ok (d : HqDesc) : Bool :=
  d.ctl.extractLsb' 24 8 == 0 && d.rest == 0 && decide ((d.ctl.extractLsb' 0 5).toNat ≤ 20) && decide (2 ≤ d.scope ∧ d.scope ≤ 11) &&
  d.base % 64 == 0

/-- The descriptor in 32 bytes. -/
def hqOf (bs : List Byte) : HqDesc where
  base := leNat (bs.take 8)
  head := leNat ((bs.drop 8).take 4)
  tail := leNat ((bs.drop 12).take 4)
  ctl := BitVec.ofNat 32 (leNat ((bs.drop 16).take 4))
  rest := leNat (bs.drop 20)

/-- A descriptor ready for use: where it lies, its fields, and where the entry read or written lies. -/
structure Hq where
  locs : List (Loc × Nat)
  desc : HqDesc
  entry : List (Loc × Nat)
  deriving DecidableEq, Repr

/-- Whether a range leads to a queue's kind of memory: plain device memory or scratchpad. -/
def hqPlace (ls : List (Loc × Nat)) : Bool := ls.all fun (l, _) => match l with | .dev _ v _ => !v | .sp _ _ => true | _ => false

/-- Where a descriptor lies, with the checks of its address and of its page (R199). -/
def State.findHq (s : State) (ctx : Nat) (t : TileId) (va : Nat) : Except Stop (List (Loc × Nat)) := do
  needAt (va % 32 == 0) .misaligned va
  match s.locateRange ctx t va 32 { read := true, write := true } with
  | .error (c, a) => .error (.trap c (w64 a) 0)
  | .ok locs => do
    needAt (hqPlace locs) .protect va
    .ok locs

/-- Whether the page of an address lies in host memory. -/
def State.inHost (s : State) (ctx : Nat) (t : TileId) (va : Nat) : Bool :=
  match s.locate ctx t va { noPerm := true } with | .ok (.host _) => true | _ => false

/-- Read and check a descriptor for a context (R199); a ring entry in a page no queue may lie in traps as the descriptor would.
Assumption 175 (DEDUCED). -/
def State.openHq (s : State) (ctx : Nat) (t : TileId) (va : Nat) (write : Bool) : Except Stop Hq := do
  match s.findHq ctx t va with
  | .error e => .error e
  | .ok locs => do
    needAt (!s.eccError) .ecc va
    let d := hqOf (s.readLocs locs)
    needAt d.ok .illegalField va
    needAt (match s.ctx? ctx with | some c => c.holds d.ntile.val | none => false) .protect va
    needAt (!s.inHost ctx t d.base) .protect va
    let e := d.base + 8 * ((if write then d.tail else d.head) % d.cap)
    match s.locateRange ctx t e 8 { read := !write, write } with
    | .error (c, a) => .error (.trap c (w64 a) 0)
    | .ok entry => do
      needAt (hqPlace entry) .protect va
      .ok { locs, desc := d, entry }

/-- The node that owns a location (R213): a tile's, or that of its home L2 slice. -/
def nodeOf : List (Loc × Nat) → Nat
  | (.sp t _, _) :: _ => t.val
  | (.dev pa _ _, _) :: _ => 1024 + pa / 4096 % 8
  | _ => 1024

/-- Whether a notify would find its node's buffer full (R333). -/
def State.notifyFull (s : State) (q : Hq) : Bool :=
  q.desc.nen && q.desc.held == 0 && decide (64 ≤ (s.notifies.filter fun n => n.node == nodeOf q.locs).length)

/-- Append an entry (R199): ring, tail, and the notify word on the step from empty to one. -/
def State.hqPut (s : State) (q : Hq) (va : Nat) (v : Word) : State :=
  let s := (s.writeLocs q.entry (leBytes 8 v.toNat)).writeLocs (sub q.locs) (leBytes 4 ((q.desc.tail + 1) % 2 ^ 32))
  if q.desc.nen && q.desc.held == 0 then
    State.postOnce { s with notifies := s.notifies ++ [{ node := nodeOf q.locs, tile := q.desc.ntile, vc := q.desc.nvc, word := w64 va }] }
      .hqNotify { unit := nodeOf q.locs }
  else s
where
  sub : List (Loc × Nat) → List (Loc × Nat)
    | (.dev pa v sc, _) :: _ => [(.dev (pa + 12) v sc, 4)]
    | (.sp t o, _) :: _ => [(.sp t (o + 12), 4)]
    | l => l

/-- Remove an entry: its value and the new head. -/
def State.hqGet (s : State) (q : Hq) : Word × State :=
  (w64 (leNat (s.readLocs q.entry)), s.writeLocs (sub q.locs) (leBytes 4 ((q.desc.head + 1) % 2 ^ 32)))
where
  sub : List (Loc × Nat) → List (Loc × Nat)
    | (.dev pa v sc, _) :: _ => [(.dev (pa + 8) v sc, 4)]
    | (.sp t o, _) :: _ => [(.sp t (o + 8), 4)]
    | l => l

/-- The tile's L1 after a queue word: the lines the node has changed or read are gone (R175, R199), and all of them after an acquire at a scope
wider than the tile. -/
def State.afterHq (s : State) (q : Hq) (acquire : Bool) : State :=
  if acquire ∧ 2 < q.desc.scope then s.acquireL1 s.focus.tile else s.dropL1 s.focus.tile (plainLines (q.locs ++ q.entry))

/-- Whether a queue word may read its descriptor: no acquiring atomic of the task is outstanding (R220), the places of its earlier accesses
are known, none of them is to the descriptor's bytes, and no store of the tile to them has still to perform in memory (R209). -/
def State.hqMayRead (s : State) (locs : List (Loc × Nat)) : Bool :=
  let T := s.here
  !acqHolds T s.issue T.nextAcc &&
  !((T.ownBefore s.issue T.nextAcc).any fun b => b.kind.ordinary && (b.parked || overlaps b.locs locs)) &&
  !(T.accesses.any fun a => a.kind.isStore && overlaps a.locs locs)

/-- The same for its entry; and for a write, a plain store, the task's earlier loads have completed, its stores performed at tile scope, and
its release, with the store order of an `ar` fence, holds (R191, R204, R209). -/
def State.hqReady (s : State) (q : Hq) (release : Bool) : Bool :=
  s.hqMayRead (q.locs ++ q.entry) &&
  (!release || (releasedAt s.here s.issue s.here.nextAcc (decide (2 < q.desc.scope)) && barKept s.here s.issue s.cur.storeBar))

/-- The translations of a word that holds its slot until it has performed: found at once, and cached; where a walk needs a place of the
die's pool, it waits for one (R180).
Assumption 18 (DESIGN CHOICE). -/
def State.walkNow (s : State) (va len : Nat) : Except Stop State :=
  let ps : List Piece := [{ va, len }]
  if s.needsWalk s.issue ps && s.poolFull s.focus.tile then .error (.block .tableFull) else .ok (s.fillTlbs s.issue ps)

/-- The body of a queue word: it holds its slot until it has performed at the node (R199).
Assumption 16 (DESIGN CHOICE). -/
def hqBody (write try_ : Bool) (d a : XReg) (p : PReg) (s : State) : Except Stop State :=
  if s.sysMode then .ok s
  else if s.memWaits then .error (.block .fullPort)
  else
    let va := (s.getX a).toNat
    if s.here.freeLog.isNone then .error (.block .operandLog)
    else do
      let locs ← s.findHq s.ctxNum s.focus.tile va
      let s ← s.walkNow va 32
      if !s.hqMayRead locs then .error (.block (.hwQueue va (!write)))
      else
      match s.openHq s.ctxNum s.focus.tile va write with
      | .error e => .error e
      | .ok q =>
        if !s.hqReady q write then .error (.block (.hwQueue va (!write)))
        else if write then
          if q.desc.held = q.desc.cap ∨ s.notifyFull q then
            if try_ && q.desc.held == q.desc.cap then .ok (s.setP p false) else .error (.block (.hwQueue va false))
          else .ok (let t := (s.hqPut q va (s.getX d)).afterHq q false; if try_ then t.setP p true else t)
        else if q.desc.held = 0 then
          if try_ then .ok (s.setP p false) else .error (.block (.hwQueue va true))
        else
          let (v, t) := s.hqGet q
          .ok (let t := (t.afterHq q true).setX d v; if try_ then t.setP p true else t)

/-- `hqw rd, [ra]`. -/
def execHqw (d a : XReg) (g : PReg) (s : State) : Out := runWord g [d, a] [] (hqBody true false d a 0) s
/-- `hqw.try rd, [ra], pd`. -/
def execHqwTry (d a : XReg) (p : PReg) (g : PReg) (s : State) : Out := runWord g [d, a] [p] (hqBody true true d a p) s
/-- `hqr rd, [ra]`. -/
def execHqr (d a : XReg) (g : PReg) (s : State) : Out := runWord g [d, a] [] (hqBody false false d a 0) s
/-- `hqr.try rd, [ra], pd`. -/
def execHqrTry (d a : XReg) (p : PReg) (g : PReg) (s : State) : Out := runWord g [d, a] [p] (hqBody false true d a p) s

/-- HQ_NOTIFY (R333): the oldest notify word of a node's buffer is delivered once its VC has room. -/
def execHqNotify (s : State) : Out :=
  happening .hqNotify (fun s =>
    match s.notifies.find? fun n => n.node == s.focus.unit with
    | none => none
    | some n =>
      if s.vcRoom n.tile n.vc then
        let s := (State.sendWord { s with notifies := s.notifies.erase n } n.tile n.vc n.word)
        some (if s.notifies.any fun n => n.node == s.focus.unit then s.postOnce .hqNotify s.focus else s)
      else none) s

end Sys2Proof.Machine
end

