-- ==== Sys2Proof/Machine/Versioned.lean ====
section
/-! DEFINITION. Versioned memory (R185 to R191): `ldv`, `stv`, `stv.rsv`, `rclm`, and the home port's happenings. -/
namespace Sys2Proof.Machine
open Sys2Proof

/-- What an `ldv` finds (R187): none while it waits. -/
def ldvFinds (w : VWord) (reserved : Nat → Bool) (v : Nat) (ge : Bool) : Option (Except FaultCode Word) :=
  let newest := w.newest.1
  if ge then
    if v ≤ newest then some (.ok w.newest.2)
    else if w.never.any (fun u => decide (v ≤ u)) && !reserved v then some (.error .versionNever)
    else none
  else
    match assocGet w.versions v with
    | some d => some (.ok d)
    | none =>
      if w.never.contains v ∨ (w.floor ≤ v ∧ v ≤ newest) then some (.error .versionNever)
      else if v ≤ newest then some (.error .versionReclaimed)
      else none

/-- The reservations that stand: those of resident contexts, and those that the images of saved ones keep (R190). -/
def State.allReservations (s : State) : List Reservation := s.reservations ++ s.saved.flatMap (·.reservations)
/-- Whether a live context holds a reservation at or above v on a word (R190). -/
def State.reservedFrom (s : State) (pa v : Nat) : Bool := s.allReservations.any fun r => r.pa == pa && decide (v ≤ r.v)

/-- Whether no access of the task to the word, and no acquiring atomic, is still outstanding (R209, R220). -/
def ldvFree (T : Tile) (iss : Issue) (pa : Nat) : Bool :=
  !acqHolds T iss T.nextAcc && !(T.ownBefore iss T.nextAcc).any fun b => b.kind.ordinary && (b.parked || overlaps b.locs [(.dev pa true 0, 8)])

/-- The outcome of an `ldv` whose word lies at `pa`. -/
def State.ldvNow (s : State) (iss : Issue) (pa v : Nat) (ge : Bool) : Option (Except FaultCode Word) :=
  if ldvFree (s.tile iss.tile) iss pa then ldvFinds (s.vword pa) (s.reservedFrom pa) v ge else none

/-- An acquire at a scope (R191): at one wider than the tile no line stays in L1. -/
def State.acquireAt (s : State) (t : TileId) (scope : Nat) : State := if 2 < scope then s.acquireL1 t else s
/-- The scope of the page of an address. -/
def State.scopeOf (s : State) (t : TileId) (va : Nat) : Nat :=
  match s.locate ((s.tile t).owner.getD 1024) t va { read := true, versioned := true } with | .ok (.dev _ _ sc) => sc | _ => 15

/-- The body of `ldv`: its faults are precise; it reads now, or holds its slot (R187). -/
def ldvBody (ge : Bool) (d a b : XReg) (s : State) : Except Stop State :=
  if s.sysMode then .ok s
  else if s.memWaits then .error (.block .fullPort)
  else
    let va := (s.getX a).toNat
    let v := (s.getX b).toNat % 2 ^ 32
    if va % 8 ≠ 0 then .error (.trap .misaligned (w64 va) 0)
    else if s.here.freeLog.isNone then .error (.block .operandLog)
    else
      match s.locate s.ctxNum s.focus.tile va { read := true, versioned := true } with
      | .error c => .error (.trap c (w64 va) 0)
      | .ok (.dev pa _ sc) => do
        let s ← s.walkNow va 8
        if s.eccError then .error (.trap .ecc (w64 va) 0) else
        match s.ldvNow s.issue pa v ge with
        | some (.ok x) => .ok ((s.acquireAt s.focus.tile sc).setX d x)
        | some (.error c) => .error (.trap c (w64 va) 0)
        | none => .error (.block (.version va pa v ge d))
      | .ok _ => .error (.trap .protect (w64 va) 0)

/-- `ldv.eq rd, [ra], rb`. -/
def execLdvEq (d a b : XReg) (g : PReg) (s : State) : Out := runWord g [d, a, b] [] (ldvBody false d a b) s
/-- `ldv.ge rd, [ra], rb`. -/
def execLdvGe (d a b : XReg) (g : PReg) (s : State) : Out := runWord g [d, a, b] [] (ldvBody true d a b) s

/-- LDV_COMPLETE (R187): the awaited version appears, or becomes impossible. -/
def execLdvComplete (s : State) : Out :=
  happening .ldvComplete (fun s =>
    let t := s.focus.tile
    let k := s.focus.slot
    match (s.slot t k).status, (s.slot t k).wait with
    | .blocked, .version va pa v ge rd =>
      if s.eccError then some (s.trapSlot t k .ecc (w64 va) 0 4 false) else
      match s.ldvNow (s.issueOf t k) pa v ge with
      | some (.ok x) => some (((s.acquireAt t (s.scopeOf t va)).modSlot t k (·.setX rd x)).completeWord t k 4)
      | some (.error c) => some (s.trapSlot t k c (w64 va) 0 4 false)
      | none => none
    | _, _ => none) s

/-! ## Stores -/

/-- `stv rd, [ra], rb` (R188): posted. -/
def execStv (d a b : XReg) (g : PReg) (s : State) : Out :=
  runWord g [d, a, b] [] (fun s =>
    if s.sysMode then .ok s
    else if s.memWaits then .error (.block .fullPort)
    else
      let va := (s.getX a).toNat
      if va % 8 ≠ 0 then .error (.trap .misaligned (w64 va) 0)
      else s.issueAccess s.issue (.stv ((s.getX b).toNat % 2 ^ 32) (s.getX d)) [{ va, len := 8 }] none) s

/-- Whether the reservation table of a context's home die is full (R190): a `stv.rsv` on its way has its entry. -/
def State.rsvFull (s : State) (ctx : Nat) : Bool :=
  let mine := fun n => s.homeDie n == s.homeDie ctx
  let coming := s.tiles.toList.flatMap fun T => T.accesses.filter fun a => match a.kind with | .stvRsv _ => mine a.iss.ctx | _ => false
  decide (1024 ≤ (s.reservations.filter fun r => mine r.ctx).length + coming.length)

/-- `stv.rsv x0, [ra], rb` (R190). -/
def execStvRsv (a b : XReg) (g : PReg) (s : State) : Out :=
  runWord g [a, b] [] (fun s =>
    if s.sysMode then .ok s
    else if s.memWaits then .error (.block .fullPort)
    else
      let va := (s.getX a).toNat
      if va % 8 ≠ 0 then .error (.trap .misaligned (w64 va) 0)
      else if s.rsvFull s.ctxNum then .error (.block .tableFull)
      else s.issueAccess s.issue (.stvRsv ((s.getX b).toNat % 2 ^ 32)) [{ va, len := 8 }] none) s

/-- `rclm rd, [ra], rb` (R189): a length of 0 does nothing; the checks cover the whole range. -/
def execRclm (d a b : XReg) (g : PReg) (s : State) : Out :=
  runWord g [d, a, b] [] (fun s =>
    if s.sysMode then .ok s
    else if s.memWaits then .error (.block .fullPort)
    else
      let va := (s.getX a).toNat
      let len := (s.getX d).toNat
      if va % 8 ≠ 0 ∨ len % 8 ≠ 0 then .error (.trap .misaligned (w64 va) 0)
      else if len = 0 then s.takesLog .ok
      else s.issueAccess s.issue (.rclm ((s.getX b).toNat % 2 ^ 32)) [{ va, len }] none) s

/-- Add a version above the newest (R188): it clears every reservation and never mark at or below it on the word. -/
def State.addVersion (s : State) (pa v : Nat) (d : Word) : State :=
  let w := s.vword pa
  { s.setVword pa { w with versions := w.versions ++ [(v, d)], never := w.never.filter (fun u => decide (v < u)) } with
    reservations := s.reservations.filter fun r => !(r.pa == pa && decide (r.v ≤ v))
    saved := s.saved.map fun i => { i with reservations := i.reservations.filter fun r => !(r.pa == pa && decide (r.v ≤ v)) } }

/-! ## What is mapped versioned (R185) -/

/-- The entries of a table of `n` entries that are not zero. -/
def tableEntries (mem : List Host.Cell) (base n : Nat) : List Nat :=
  ((mem.filter fun (a, _) => decide (base ≤ a) && decide (a < base + 8 * n)).map fun (a, _) => (a - base) / 8).eraseDups

/-- Entries of a table at a level (R177). -/
def tableSize : Nat → Nat | 2 => 8192 | 0 => 32 | _ => 512

/-- The range a versioned leaf maps. -/
def verRange (level : Nat) (e : BitVec 64) : Option (Nat × Nat) :=
  if eBit e 0 && entryOk level e && !eBit e 1 && eBit e 5 then
    some (leafOut e level 0, if level = 2 then 2 ^ 30 else if level = 1 then 2 ^ 21 else 2 ^ 16)
  else none

/-- The versioned leaves under a table: where each stands, and the range it maps. -/
def verLeaves (mem : List Host.Cell) : Nat → Nat → List (Nat × Nat × Nat)
  | level, base => (tableEntries mem base (tableSize level)).flatMap fun i =>
    let a := base + 8 * i
    let e : BitVec 64 := w64 (leNat (Memory.read mem a 8))
    match verRange level e with
    | some (b, n) => [(a, b, n)]
    | none =>
      match level with
      | 0 => []
      | l + 1 => if eBit e 0 && entryOk (l + 1) e && eBit e 1 then verLeaves mem l ((e.extractLsb' 16 36).toNat * 65536) else []
termination_by structural level => level

/-- The tables, or the contexts that live, have changed (R185): a word that is mapped versioned now and was not holds version 0 with its data;
one that is no longer keeps its newest data in memory.
Assumption 105 (DESIGN CHOICE). -/
def State.remap (s : State) : State :=
  let s' : State := { s with verPages := (s.contexts.filter fun (c : Context) => c.live).flatMap fun (c : Context) => verLeaves s.mem 3 c.root }
  let was := s.vwords.filter fun (x : Nat × VWord) => s.isVersioned x.1
  { s' with
    mem := (was.filter fun (x : Nat × VWord) => !s'.isVersioned x.1).foldl
      (fun m (x : Nat × VWord) => Memory.write m x.1 (leBytes 8 x.2.newest.2.toNat)) s.mem
    vwords := was.filter fun (x : Nat × VWord) => s'.isVersioned x.1 }

/-- The word of a versioned access. -/
def Access.home (a : Access) : Option (Nat × Nat) := match a.locs with | (.dev pa _ sc, _) :: _ => some (pa, sc) | _ => none

/-- STV_HOME_WRITE (R188, R190, R191): a posted `stv` is added at its home port once the accesses it releases have performed and a
version slot is free; a `stv.rsv` is entered. A version at or below the newest is a late fault. -/
def execStvHomeWrite (s : State) : Out :=
  happening .stvHomeWrite (fun s =>
    let t := s.focus.tile
    match s.here.access? s.focus.id with
    | none => none
    | some a =>
      match a.home with
      | none => none
      | some (pa, scope) =>
        if a.parked || heldBack s.here a || !releasedAt s.here a.iss a.id (decide (2 < scope)) || !barKept s.here a.iss a.bar then none
        else
          let w := s.vword pa
          let va := (a.pieces.head?.map (·.va)).getD 0
          match a.kind with
          | .stv v d =>
            if v ≤ w.newest.1 then some (s.accessFails a .versionReclaimed va 0 (some a) false)
            else if 4 ≤ w.versions.length then
              match a.deadline with
              | some _ => none
              | none =>
                let limit := ((s.ctx? a.iss.ctx).map (·.vto.toNat)).getD 1048576
                some (((s.modTile t fun T => T.modAccess a.id fun a => { a with deadline := some (s.clk + limit) }).post .stvHomeWrite
                  s.focus).post .versionTimeout s.focus)
            else some ((s.modTile t fun T => T.dropAccess a.id).addVersion pa v d)
          | .stvRsv v =>
            if v ≤ w.newest.1 then some (s.accessFails a .versionReclaimed va 0 (some a) false)
            else
              let s := s.modTile t fun T => T.dropAccess a.id
              some { s with reservations := s.reservations ++ [{ ctx := a.iss.ctx, va := a.va, pa, v }] }
          | _ => none) s

/-- VERSION_TIMEOUT (R188): a `stv` that still waits for a version slot when its time is over faults late. -/
def execVersionTimeout (s : State) : Out :=
  happening .versionTimeout (fun s =>
    match s.here.access? s.focus.id with
    | none => none
    | some a =>
      match a.deadline, a.home with
      | some d, some (pa, _) =>
        if d ≤ s.clk ∧ 4 ≤ (s.vword pa).versions.length then
          some (s.accessFails a .versionFull ((a.pieces.head?.map (·.va)).getD 0) 0 (some { a with deadline := none }) false)
        else none
      | _, _ => none) s

end Sys2Proof.Machine
end

