-- ==== Sys2Proof/Machine/Jobs.lean ====
section
/-! DEFINITION. Shared operations over jobs, slots and contexts: replies, binding and ending a slot, blight (R351), kill (R358), the
fault ring's room (R338), whether a sequencer may issue. -/
namespace Sys2Proof.Machine
open Sys2Proof

/-! ## Replies -/

/-- A reply word: status in [63:48], a number in [47:0]. -/
def replyWord (status n : Nat) : Word := w64 (status % 65536 * 2 ^ 48 + n % 2 ^ 48)

/-- Write a versioned reply without waiting for room (R228, R257): the new state, or the fault. -/
def State.writeVersioned (s : State) (ctx : Nat) (t : TileId) (va v : Nat) (d : Word) : Except FaultCode State :=
  match s.locate ctx t va { write := true, engine := true, versioned := true } with
  | .ok (.dev pa _ _) =>
    if v ≤ (s.vword pa).newest.1 then .error .versionReclaimed
    else if 4 ≤ (s.vword pa).versions.length then .error .versionFull
    else .ok (s.addVersion pa v d)
  | .ok _ => .error .protect
  | .error c => .error c

/-- Check a command's versioned reply at its issue and reserve its version (R228, R251): address and version. -/
def State.reserveReply (s : State) (iss : Issue) (va v : Nat) : Except Stop State :=
  if va % 8 ≠ 0 then .error (.trap .misaligned (w64 va) 0)
  else
    match s.locate iss.ctx iss.tile va { write := true, engine := true, versioned := true } with
    | .error c => .error (.trap c (w64 va) 0)
    | .ok (.dev pa _ _) =>
      if v ≤ (s.vword pa).newest.1 then .error (.trap .versionReclaimed (w64 va) 0)
      else if s.rsvFull iss.ctx then .error (.block .tableFull)
      else .ok { s with reservations := s.reservations ++ [{ ctx := iss.ctx, va, pa, v }] }
    | .ok _ => .error (.trap .protect (w64 va) 0)

/-- Release `ldv` waiters on a word for a version that a never mark at v rules out (R190). -/
def State.releaseWaiters (s : State) (pa v : Nat) : State :=
  (List.finRange 1024).foldl (fun s t =>
    (List.finRange 16).foldl (fun s k =>
      match (s.slot t k).status, (s.slot t k).wait with
      | .blocked, .version va qa u _ _ =>
        if qa = pa ∧ u ≤ v ∧ !s.reservedFrom pa u then s.trapSlot t k .versionNever (w64 va) 0 4 false else s
      | _, _ => s) s) s

/-- Replace a reservation by a never mark at its version (R190). -/
def State.neverMark (s : State) (r : Reservation) : State :=
  let s := { s with reservations := s.reservations.erase r }
  let w := s.vword r.pa
  (s.setVword r.pa { w with never := if w.never.contains r.v then w.never else w.never ++ [r.v] }).releaseWaiters r.pa r.v

/-- Give up the reservation of a versioned reply that will not be written (R257, R261). -/
def State.dropReply (s : State) (ctx va v : Nat) : State :=
  match s.reservations.find? fun r => r.ctx == ctx && r.va == va && r.v == v with
  | some r => s.neverMark r
  | none => s

/-- Send a reply word; a fault of a versioned reply comes back with the state unchanged.
Assumption 51 (DEDUCED). -/
def State.sendReply (s : State) (iss : Issue) (r : Reply) (w : Word) : Except FaultCode State :=
  match r with
  | .none => .ok s
  | .vc t vc => .ok (s.sendWord t vc w)
  | .ver va v => s.writeVersioned iss.ctx iss.tile va v w

/-! ## Records -/

/-- The accesses of a job that have not all performed (R362). -/
def State.jobAccesses (s : State) (ctx job : Nat) : List (TileId × Nat) :=
  if job = 0 then []
  else (List.finRange 1024).flatMap fun t =>
    ((s.tile t).accesses.filter fun a => a.iss.ctx == ctx && a.iss.job == job).map fun a => (t, a.id)

/-- Queue an engine record of work whose task has ended or whose job is blighted (R339, R343, R399); one that names a slot shows its `cls`
and where it goes on, which is past the word it issues where `past` is that word's length. -/
def State.engineRecord (s : State) (e : EngineFault) (slot : Option SlotId) (ended : Bool) (past : Nat := 0) : State :=
  let k : Slot := match slot with | some k => s.slot e.iss.tile k | none => { pc := e.iss.pc }
  s.queueRecord e.iss.ctx (faultRecord e.code.val 2 ((if ended then 8 else 0) + (if k.cls.isOpen then 4 else 0)) e.iss.tile.val
    ((slot.map (·.val)).getD 0xFF) 0xFF e.iss.pc.toNat (if k.cls.isOpen then k.cls.hdr else k.pc + BitVec.ofNat 16 past).toNat e.addr.toNat k.cls.bits e.iss.job
    e.aux.toNat e.iss.ctx (s.tenantOf e.iss.ctx)) (s.jobAccesses e.iss.ctx e.iss.job)

/-- Queue a context record (kind 11); the job and `cls` are those of the slot it names.
Assumption 117 (DESIGN CHOICE). -/
def State.contextRecord (s : State) (ctx code tile slot pc aux : Nat) (job : Nat := 0) (cls : Clause := {}) (after : List (TileId × Nat) := []) : State :=
  s.queueRecord ctx (faultRecord code 3 (if cls.isOpen then 4 else 0) tile slot 0xFF pc (if cls.isOpen then cls.hdr.toNat else pc) 0 cls.bits job aux
    ctx (s.tenantOf ctx)) after

/-- The value of `consumed` the unit reads (R338): a value above `produced` is read as `produced`, one below the last read as that. -/
def State.ringConsumed (s : State) (c : Context) : Nat :=
  max c.consumed (min c.produced (leNat (Memory.read s.mem (c.ring + 8) 8)))
/-- The fault ring is full (R338). -/
def State.ringFull (s : State) (c : Context) : Bool := decide (256 ≤ c.produced - s.ringConsumed c)

/-- A context whose slots and scheduler may go on (R338, R354, R358). -/
def State.ctxRuns (s : State) (c : Context) : Bool := c.live && c.resident && c.saving.isNone && !s.ringFull c

/-- A die that issues: not in S1 and not changing its state (R380). -/
def Die.issues (d : Die) : Bool := d.power != .s1 && !d.changing

/-- Whether a save still lets the RUNNING slot of a tile issue the word it has found it within (R73). -/
def State.lastWordOf (s : State) (c : Context) (t : TileId) : Bool :=
  c.live && c.resident && c.saving.isSome && !s.ringFull c && (s.tile t).lastWord && (s.tile t).slots.toList.any (·.status == .running)

/-- Whether the sequencer of a tile may issue. -/
def State.canIssue (s : State) (t : TileId) : Bool :=
  !s.wiping && s.dies[dieOf t].issues && (match s.tileCtx t with | some c => s.ctxRuns c || s.lastWordOf c t | none => false)

/-! ## Jobs of a context -/

/-- A job by its number. -/
def Context.job? (c : Context) (n : Nat) : Option Job := c.jobs.find? (·.num == n)
/-- Change a job. -/
def Context.modJob (c : Context) (n : Nat) (f : Job → Job) : Context :=
  { c with jobs := c.jobs.map fun j => if j.num = n then f j else j }
/-- A job by its context and number. -/
def State.job? (s : State) (ctx n : Nat) : Option Job := (s.ctx? ctx).bind (·.job? n)
/-- Change a job. -/
def State.modJob (s : State) (ctx n : Nat) (f : Job → Job) : State := s.modCtx ctx (·.modJob n f)

/-- Neither completed nor cancelled. -/
def Job.incomplete (j : Job) : Bool := j.state != .done && j.state != .cancelled
/-- Issued and not complete. -/
def Job.issued (j : Job) : Bool := j.state == .issuing || j.state == .running
/-- The bed a job targets: a 1 × 1 bed for a tile target (R314). -/
def Card.bed (c : Card) : BitVec 16 := if c.isBed then c.target else c.target.extractLsb' 0 10 |>.setWidth 16

/-! ## Slots (R68, R321, R325) -/

/-- The slot bound to a VC. -/
def Tile.boundTo (T : Tile) (vc : SlotId) : Option SlotId :=
  (List.finRange 16).find? fun k => (T.slot k).status != .free && (T.slot k).vc == vc
/-- The lowest FREE slot. -/
def Tile.freeSlot (T : Tile) : Option SlotId := (List.finRange 16).find? fun k => (T.slot k).status == .free

/-- A slot without a binding: FREE, with the register files its last task left (R352: a task that ends itself keeps what it wrote), which
the next task start sets (R51). -/
def Slot.bare (q : Slot) : Slot := { epoch := q.epoch, x := q.x, p := q.p, stat := q.stat, cnt := q.cnt }

/-- Bind the lowest FREE slot to a card's entry, window and VC (R325); where words wait on the VC the slot may start. -/
def State.bindSlot (s : State) (t : TileId) (k : SlotId) (c : Card) (addr : Word) (implicit : Bool) : State :=
  (s.modSlot t k fun q =>
    { q.bare with status := .idle, vc := c.vc, entry := c.entry, win := c.win, bwin := c.win, card := addr, target := c.bed, implicit }).postOnce .taskStart { tile := t, slot := k }

/-- Bind a FREE slot implicitly for each scheduler word that waits at the head of an unbound VC (R321). -/
def State.bindWaiting (s : State) (t : TileId) : State :=
  (List.finRange 16).foldl (fun s vc =>
    match (s.vchan t vc).q, (s.tile t).boundTo vc, (s.tile t).freeSlot with
    | f :: _, none, some k =>
      if f.job = 0 then s
      else match s.job? ((s.tile t).owner.getD 1024) f.job with
        | some j => s.bindSlot t k j.card j.addr true
        | none => s
    | _, _, _ => s) s

/-- Free a slot. -/
def State.freeSlot (s : State) (t : TileId) (k : SlotId) : State :=
  (s.modSlot t k Slot.bare).bindWaiting t

/-- A slot becomes IDLE: it turns FREE where `tbnd.u` asked for it, or where its implicit binding has no word left; else the next word
of its VC may start it. The commands it holds for an open clause are discarded (R58). -/
def State.idleSlot (s : State) (t : TileId) (k : SlotId) : State :=
  let q := s.slot t k
  let s := s.modTile t fun T => { T with held := T.held.filter fun h => h.released || h.iss.slot != k }
  let s := s.modSlot t k fun q => { q with
    status := .idle, wait := .none, cls := {}, wavectr := 0, pendX := [], pendP := [], late := [], fault := none, last := none, run := 0 }
  let c := s.vchan t q.vc
  if q.unbind || (q.implicit && c.q.isEmpty && c.waiting.isEmpty) then s.freeSlot t k
  else if c.q.isEmpty then s else s.postOnce .taskStart { tile := t, slot := k }

/-! ## Blight (R351) -/

/-- Whether work of a job is still under way on a tile: accesses, engine and matrix commands (R323). A `vrun` is a lane command and no engine
command; what it reads and writes holds nothing up. -/
def Tile.hasWork (T : Tile) (ctx job : Nat) : Bool :=
  let mine := fun (i : Issue) => i.ctx == ctx && i.job == job
  T.accesses.any (fun a => mine a.iss) || T.matQ.any (fun q => mine q.iss) || T.held.any (fun h => h.released && mine h.iss) ||
  T.ag.toList.any (fun n => match n.cmd with | some a => mine a.iss | none => false)
/-- Copies of every channel. -/
def State.allCopies (s : State) : List Copy := s.dies.toList.flatMap fun d => d.ch.toList.flatMap (·.q)
/-- Whether any work of a job is still under way. -/
def State.jobBusy (s : State) (c : Context) (job : Nat) : Bool :=
  (List.finRange 1024).any (fun t => c.holds t.val && (s.tile t).hasWork c.num job) ||
  s.allCopies.any (fun k => k.iss.ctx == c.num && k.iss.job == job) ||
  s.walks.any (fun w => w.iss.ctx == c.num && w.iss.job == job) ||
  s.engineFaults.any (fun e => e.iss.ctx == c.num && e.iss.job == job)

/-- Change every copy. -/
def State.mapCopies (s : State) (f : Copy → Copy) : State :=
  { s with dies := s.dies.map fun d => { d with ch := d.ch.map fun c => { c with q := c.q.map f } } }

/-- The work of one tile for a job is discarded (R207, R351): accesses that have performed nowhere, matrix commands, engine commands and
streams; the channels they feed receive a BLIGHT token, and the replies they owe go out cancelled, but for a `vamo`, whose count is sent only
after its last element (R222). -/
def State.blightTile (s : State) (ctx job : Nat) (code : FaultCode) (t : TileId) : State :=
  let mine := fun (i : Issue) => i.ctx == ctx && i.job == job
  let T := s.tile t
  let outs : List (TileId × SlotId) :=
    (T.matQ.filterMap fun q => match q.instr with
      | .mintCnt c => if mine q.iss then some (t, slotN c.s1) else none
      | _ => none) ++
    (T.ag.toList.filterMap fun n => n.cmd.bind fun a => if mine a.iss then a.out else none) ++
    (match T.stream with
      | some { use := .vrun i _ _ dvc _ _ _, .. } => if mine i then (dvc.map fun v => (t, v)).toList else []
      | _ => [])
  let owed : List (Issue × Reply × Nat) :=
    T.ag.toList.filterMap fun n => n.cmd.bind fun a => if mine a.iss then some (a.iss, a.reply, a.count) else none
  let s := s.modTile t fun T => { T with
    accesses := T.accesses.filter fun a => !mine a.iss || a.tileDone
    matQ := T.matQ.filter fun q => !mine q.iss
    held := T.held.filter fun h => !(h.released && mine h.iss)
    ag := T.ag.map fun n => match n.cmd with | some a => if mine a.iss then { n with cmd := none } else n | none => n
    stream := match T.stream with | some { use := .vrun i _ _ _ _ _ _, .. } => if mine i then none else T.stream | x => x }
  let s := outs.foldl (fun s (u, v) => s.sendSeg u v (blightFlit code.val job)) s
  owed.foldl (fun s (i, r, n) => match s.sendReply i r (replyWord 1 n) with | .ok s => s | .error _ => s) s

/-- The happening a copy owes next (R227, R228, R234). -/
def State.offerCopy (s : State) (k : Copy) : State :=
  let f : Focus := { die := dieOf k.iss.tile, id := k.id }
  if k.templ.isSome then s
  else
    let s := if k.follow.isSome && k.started && k.rows.isEmpty then s.postOnce .cpymFollowOn f else s
    if k.ended then (if k.replied then s else s.postOnce .copyReply f)
    else if !k.started && !k.blighted then s.postOnce .copyStart f
    else if k.rows.isEmpty then s.postOnce .copyEndOfTile f
    else if k.dst = .mcst then s.postOnce .mcstFlitAccept { tile := k.iss.tile }
    else s.postOnce .copyFlitDeliver f

/-- Stop the copies of a job or of an issue: each ends with its BLIGHT token and its cancelled reply (R228, R351). -/
def State.blightCopies (s : State) (p : Issue → Bool) (code : FaultCode) : State :=
  (s.allCopies.filter fun k => p k.iss && !k.blighted).foldl (fun s k =>
    s.postOnce .copyEndOfTile { die := dieOf k.iss.tile, id := k.id })
    (s.mapCopies fun k => if p k.iss && !k.blighted then
      { k with rows := [], blighted := true, code := code.val, follow := none, templ := none } else k)

/-- The walks of a job end with a cancelled reply (R351). -/
def State.blightWalks (s : State) (p : Issue → Bool) : State :=
  (s.walks.filter fun w => p w.iss).foldl (fun s w => s.postOnce .walkReply { walk := w.id })
    { s with walks := s.walks.map fun w =>
        match w.phase with
        | .replying 1 .. => w
        | _ => if p w.iss then { w with phase := .replying 1 [] 0 w.rule, parked := false } else w }

/-- The VCs the channels of a context's live graph end at. -/
def Context.liveChans (c : Context) : List Chan :=
  match c.liveSlot with
  | some g => if h : g < 4 then ((c.gslots[g]'h).map (·.chans)).getD [] else []
  | none => []

/-- Blight the live graph: a BLIGHT token on every channel, and the graph stops as `gstp` stops it (R351, R399).
Assumption 84 (DEDUCED). -/
def State.blightGraph (s : State) (ctx : Nat) (code : FaultCode) (job : Nat) : State :=
  match s.ctx? ctx with
  | none => s
  | some c =>
    if c.liveSlot.isNone then s
    else
      let s := c.liveChans.foldl (fun s ch => s.sendVc (chanDstt ch.desc) (chanVc ch.desc) (blightFlit code.val job)) s
      (s.modCtx ctx fun c => { c with
        stopping := some (match c.stopping with
          | some x => { x with next := none, force := true }
          | none => { next := none, reply := { tile := 0, vc := none }, force := true }) })
        |>.postOnce .graphStopped { ctx }

/-- Send the cancelled replies that the `dmd` and graph commands of some jobs are still owed (R305, R351, R399). -/
def State.cancelReplies (s : State) (c : Context) (mine : Nat → Bool) : State :=
  let s := (c.dmds.filter fun d => mine d.job).foldl (fun s d => s.sendWord d.tile d.vc (replyWord 1 0)) s
  let g := c.regions.flatMap (fun e => [e.reply, e.rotReply]) ++ (match c.stopping with | some x => [x.reply] | none => []) ++
    (match c.starting with | some x => x.reply.toList | none => [])
  let s := (g.filter fun r => mine r.job).foldl (fun s r => match r.vc with | some v => s.sendWord r.tile v (replyWord 1 0) | none => s) s
  let drop := fun (r : GReply) => if mine r.job then { r with vc := none } else r
  s.modCtx c.num fun c => { c with
    dmds := c.dmds.filter fun d => !mine d.job, regions := c.regions.map fun (e : GraphRegion) => { e with reply := drop e.reply, rotReply := drop e.rotReply }
    stopping := c.stopping.map fun x => { x with reply := drop x.reply }
    starting := c.starting.map fun x => { x with reply := x.reply.map drop } }

/-- The jobs that a job's end takes with it: those with a path of edges from it (R351). Numbers rise along edges. -/
def cancelSet (jobs : List Job) (n : Nat) : List Nat :=
  jobs.foldl (fun set j => if j.incomplete && j.edges.any set.contains then set ++ [j.num] else set) [n]

/-- Blight a job (R351): selection stops, its tasks end, BLIGHT tokens go out, the cards behind it are cancelled, and every reply it
owes is sent cancelled. A job that has completed, whose reply or whose graph fails, has no card behind it and no reply left. The record is
the caller's. -/
def State.blightJob (s : State) (ctx n : Nat) (code : FaultCode) : State :=
  match s.ctx? ctx with
  | none => s
  | some c =>
    match c.job? n with
    | none => s
    | some j =>
      if j.state = .cancelled then s
      else
        let set := cancelSet c.jobs n
        let tiles := (List.finRange 1024).filter fun t => c.holds t.val
        let s := s.modCtx ctx fun c => { c with
          selecting := false, wdgc := 0, submits := c.submits.filter fun (t, k, _) => (s.slot t k).job != n
          jobs := c.jobs.map fun j => if set.contains j.num && j.incomplete then { j with state := .cancelled, edges := [], counter := false, toDeliver := [] } else j }
        let s := tiles.foldl (fun s t =>
          let s := (List.finRange 16).foldl (fun s k =>
            let q := s.slot t k
            if q.job = n ∧ q.status ≠ .free ∧ q.status ≠ .idle then s.idleSlot t k else s) s
          let s := s.modTile t fun T => { T with balance := if T.balance == some n then none else T.balance }
          s.blightTile ctx n code t) s
        let mine := fun (i : Issue) => i.ctx == ctx && i.job == n
        let s := (s.blightCopies mine code).blightWalks mine
        let graph := c.graphJob == n && c.liveSlot.isSome
        let s := if graph then s.blightGraph ctx code n else s
        let s := s.cancelReplies c fun m => graph || m == n
        set.foldl (fun s m => s.postOnce .jobComplete { ctx, id := m }) s

/-- Whether a job has been cancelled, which writes no record of its own (R351). -/
def State.jobCancelled (s : State) (ctx n : Nat) : Bool := match s.job? ctx n with | some j => j.state == .cancelled | none => false
/-- Blight work for an engine's fault: the job, or for work of no job the rules of R399: a graph's every reply goes out cancelled. -/
def State.blightWork (s : State) (e : EngineFault) : State :=
  let ended := !s.alive e.iss
  if e.iss.job = 0 then
    if e.iss.auto then
      let s := (s.engineRecord e none false).blightGraph e.iss.ctx e.code 0
      match s.ctx? e.iss.ctx with | some c => s.cancelReplies c fun _ => true | none => s
    else if ended then s.engineRecord e none true
    else s.addLate e.iss.tile e.iss.slot { code := e.code, addr := e.addr, pc := e.iss.pc, olog := none, engine := true, aux := e.aux, access := none }
  else if s.jobCancelled e.iss.ctx e.iss.job then s
  else (s.engineRecord e (if ended then none else some e.iss.slot) ended).blightJob e.iss.ctx e.iss.job e.code

/-! ## Kill and clearing (R358, R359) -/

/-- The context of a port. -/
def portCtx : PortId → Nat | .sink c .. | .oper c .. | .source c .. | .soft c .. => c
/-- The tiles of a context's launch. -/
def Context.tiles (c : Context) : List TileId := match c.launch with | some (b, _) => bedTiles b | none => []

/-- Clear tiles that a context has left (R359): all but the instruction store, which R359 does not name, and the split (R17). -/
def State.clearTiles (s : State) (ts : List TileId) : State :=
  ts.foldl (fun s t => s.modTile t fun T => { split := T.split, istore := T.istore }) s

/-- What a context leaves behind outside its tiles goes: copies, walks, demand flits, notify words, engine faults, translations. -/
def State.purge (s : State) (ctx : Nat) (ts : List TileId) : State :=
  { s with
    walks := s.walks.filter (·.iss.ctx != ctx)
    demand := s.demand.filter fun d => portCtx d.port != ctx
    notifies := s.notifies.filter fun n => !ts.contains n.tile
    walkTlb := s.walkTlb.map fun l => l.filter (·.ctx != ctx)
    engineFaults := s.engineFaults.filter (·.iss.ctx != ctx)
    dies := s.dies.map fun d => { d with
      dtlb := d.dtlb.filter (·.ctx != ctx)
      ch := d.ch.map fun c => { c with
        q := c.q.filter (·.iss.ctx != ctx)
        bind := match c.bind with | some (t, _) => if ts.contains t then none else c.bind | none => none } } }

/-- The accesses of tiles that have not performed in memory are discarded, and with them the fences that wait for them; what memory holds
stays (R207). -/
def State.discard (s : State) (ts : List TileId) : State := ts.foldl (fun s t => s.modTile t fun T => { T with accesses := [] }) s

/-- A job's CANCELLED reply to a VC of the launch (R323, R351, R358). -/
def State.cancelAtVc (s : State) (c : Context) (j : Job) : State :=
  if j.card.ckind = 1 ∧ (s.tile j.card.ctile).owner = some c.num then
    (s.sendWord j.card.ctile j.card.cvc (replyWord 1 j.num)).modJob c.num j.num fun j => { j with replied := true }
  else s

/-- The codes that records hold (R361). -/
def recordCodes : List Nat :=
  ([.illegalOp, .illegalField, .formatMismatch, .extentRange, .misaligned, .xlate, .protect, .ecc, .versionFull, .versionNever, .versionReclaimed,
    .sbRewrite, .demandBeforeRetained, .demandRange, .walkLimit, .walkPointer, .cfgNoGraft, .cfgPool, .rotOrphan, .cfgFetch, .sparseField, .watchdog,
    .saveLimit, .pairAbandoned, .brk, .blighted] : List FaultCode).map FaultCode.val ++ List.range' 0x100 1024
/-- One of them, by a free value. -/
def recordCode (n : Nat) : Nat := recordCodes.getD (n % 1050) 0x7F

/-- Kill a context (R358): its slots stop, everything in flight is discarded, its reservations become never marks, its jobs owe a
cancelled reply, and one context record is written; which of R361's codes it holds where the spec names none, and its tile, are free values. One
that is saved holds no tile; no doorbell names it any more (R375).
Assumption 116 (DESIGN CHOICE). -/
def State.killContext (s : State) (ctx : Nat) (code : Option FaultCode) (status : Nat) : State :=
  match s.ctx? ctx with
  | none => s
  | some c =>
    let ts := if c.resident then c.tiles else []
    let open_ := c.jobs.filter (·.incomplete)
    let s := s.discard ts
    let s := open_.foldl (fun s j => s.cancelAtVc c j) s
    let s := (s.purge ctx ts).clearTiles ts
    let s := s.modCtx ctx fun c => { c with
      live := false, resident := false, launch := none, barriers := [], barLog := [], submits := [], dmds := [], ports := []
      gslots := Vector.replicate 4 none, liveSlot := none, starting := none, stopping := none, regions := []
      saveResult := if c.saving.isSome then some status else c.saveResult, saving := none
      jobs := c.jobs.map fun j => if j.incomplete then { j with state := .cancelled, edges := [], counter := false, toDeliver := [] } else j }
    let kept := (s.saved.filter fun i => i.ctx.num == ctx).flatMap (·.reservations)
    let s := { s with
      doorbells := s.doorbells.filter (·.ctx != ctx)
      reservations := s.reservations ++ kept
      saved := s.saved.map fun (i : SavedImage) => if i.ctx.num = ctx then { i with reservations := [] } else i }
    let s := ((s.reservations.filter (·.ctx == ctx)).foldl (fun s r => s.neverMark r) s).remap
    let s := open_.foldl (fun s j => s.postOnce .jobComplete { ctx, id := j.num }) s
    let (a, s) := s.draw
    let (b, s) := s.draw
    s.contextRecord ctx (match code with | some c => c.val | none => recordCode a.toNat) (b.toNat % 1024) 0xFF 0 0

end Sys2Proof.Machine
end

