-- ==== Sys2Proof/Machine/Ports.lean ====
section
/-! DEFINITION. Chain images and their words (R136, R269 to R272); range transfers (R294 to R296); tick intervals and coalescers (R292);
demand ports and the way a demand takes (R290). -/
namespace Sys2Proof.Machine
open Sys2Proof

/-! ## Element and router words (R270, R272) -/

/-- Fields of an element word. -/
def eOp (w : BitVec 64) : Nat := (w.extractLsb' 58 6).toNat
def eIn (w : BitVec 64) (i : Nat) : Nat := (w.extractLsb' (55 - 3 * i) 3).toNat
def eFmt (w : BitVec 64) : BitVec 5 := w.extractLsb' 44 5
def eMode (w : BitVec 64) : Nat := (w.extractLsb' 41 3).toNat
def eDecide (w : BitVec 64) : Bool := w.getLsbD 40
def eStrict (w : BitVec 64) : Bool := w.getLsbD 39
def eLt (w : BitVec 64) : BitVec 6 := w.extractLsb' 21 6
def eEq (w : BitVec 64) : BitVec 6 := w.extractLsb' 27 6
def eGt (w : BitVec 64) : BitVec 6 := w.extractLsb' 33 6
def eDbase (w : BitVec 64) : Nat := (w.extractLsb' 15 6).toNat
def eCidx (w : BitVec 64) : Nat := (w.extractLsb' 9 6).toNat

/-- Fields of a router word. -/
def rKind (w : BitVec 32) : Nat := (w.extractLsb' 29 3).toNat
def rTarget (w : BitVec 32) : Nat := (w.extractLsb' 26 3).toNat
def rVc (w : BitVec 32) : SlotId := ⟨(w.extractLsb' 22 4).toNat, (w.extractLsb' 22 4).isLt⟩
def rId (w : BitVec 32) : Fin 4 := ⟨(w.extractLsb' 20 2).toNat, (w.extractLsb' 20 2).isLt⟩
def rIn2Vc (w : BitVec 32) : Bool := w.getLsbD 21
def rSep (w : BitVec 32) : Bool := w.getLsbD 21
def rSrc (w : BitVec 32) : SlotId := ⟨(w.extractLsb' 16 4).toNat, (w.extractLsb' 16 4).isLt⟩
def rMask (w : BitVec 32) : BitVec 16 := w.extractLsb' 0 16

/-- Inputs an operation reads (R270): A; A and B; A, B and C. -/
def opReads (op : Nat) : Nat :=
  if op = 0 then 0
  else if [0x01, 0x0A, 0x0B, 0x0F, 0x15, 0x16, 0x1F, 0x20, 0x21, 0x23].contains op ∨ (0x17 ≤ op ∧ op ≤ 0x1E) then 1
  else if [0x05, 0x06, 0x09, 0x14].contains op then 3 else 2
/-- Operations whose cidx carries other fields: cvt, qblk and the acc operations. -/
def opNoConst (op : Nat) : Bool := op == 0x15 || op == 0x16 || (decide (0x1F ≤ op) && decide (op ≤ 0x21))
/-- Operations that take a constant as an input; `ld` and `st` take it as a base address. -/
def opConstIn (op : Nat) : Bool := !opNoConst op && op != 0 && op != 0x23 && op != 0x24
def isAcc (op : Nat) : Bool := decide (0x1F ≤ op) && decide (op ≤ 0x21)
/-- The clk a stage adds by its operation (R146). -/
def opClk (op : Nat) : Nat := if 4 ≤ op ∧ op ≤ 6 then 2 else if 0x17 ≤ op ∧ op ≤ 0x1E then 4 else 1

/-- Formats an operation accepts (R271). -/
def opFmt (op : Nat) (t : BitVec 5) : Bool :=
  let lane32 := !(t == 6 || t == 7 || t == 11 || t == 15)
  let a := tagFloat t || tagInt t
  if op = 0 then true
  else if t = 0 then false
  else if !lane32 then false
  else if 0x02 ≤ op ∧ op ≤ 0x0B then a && (op != 0x0B || !tagUnsigned t)
  else if 0x0C ≤ op ∧ op ≤ 0x12 then tagInt t || t == 0x11
  else if op = 0x13 ∨ op = 0x22 ∨ op = 0x25 then a
  else if op = 0x15 then t != 0x11
  else if op = 0x16 ∨ (0x17 ≤ op ∧ op ≤ 0x1E) then tagFloat t
  else if isAcc op then [1, 2, 3, 4, 5, 8, 9, 12, 13].contains t.toNat
  else true

/-- The index of the input a constant replaces: the highest-lettered one the operation reads whose select is 000. -/
def constInput (w : BitVec 64) : Option Nat :=
  if eCidx w = 0x3F ∨ !opConstIn (eOp w) then none
  else ((List.range (opReads (eOp w))).reverse).find? fun i => eIn w i == 0

/-- What an action of a join word may be (R141). -/
def joinOk (a : BitVec 6) : Bool := a.extractLsb' 4 2 != 3#2 && a.extractLsb' 2 2 != 3#2 && a.extractLsb' 0 2 != 3#2
/-- Whether a join action resets input A or B. -/
def joinResets (w : BitVec 64) (b : Bool) : Bool :=
  [eLt w, eEq w, eGt w].any fun a => a.extractLsb' (if b then 2 else 0) 2 == 2#2

/-- The res0 fields of an element word. -/
def elemRes0 (w : BitVec 64) : Bool :=
  let op := eOp w
  w.extractLsb' 0 9 == 0 && (op == 0x22 || op == 0x23 || op == 0x24 || w.extractLsb' 21 18 == 0) &&
  (if isAcc op then decide (eCidx w ≤ 3) else if op = 0x15 then decide (eCidx w < 32) else if op = 0x16 then eCidx w % 16 == 0 else true)

/-- An element word that keeps R270 and R271, by itself. -/
def elemOk (w : BitVec 64) : Bool :=
  let op := eOp w
  elemRes0 w && decide (op ≤ 0x25) && decide (eMode w ≤ 5) && opFmt op (eFmt w) && decide ((eFmt w).toNat ≤ 0x11) &&
  ([0, 1, 2].all fun i => decide (eIn w i ≤ 4)) &&
  (if op = 0 then [0, 1, 2].all fun i => eIn w i == 0
   else decide (((List.range (opReads op)).filter fun i => eIn w i == 0).length ≤ (if (constInput w).isSome then 1 else 0))) &&
  (!isAcc op || eCidx w != 3) &&
  (op != 0x15 || (opFmt 0x15 (BitVec.ofNat 5 (eCidx w)) && decide (0 < eCidx w ∧ eCidx w ≤ 0x10))) &&
  (op != 0x22 || (joinOk (eLt w) && joinOk (eEq w) && joinOk (eGt w)))

/-- The res0 fields of a router word. -/
def routerRes0 (w : BitVec 32) : Bool :=
  match rKind w with
  | 0 => w == 0
  | 1 => w.extractLsb' 0 20 == 0 && (rTarget w == 7 || w.extractLsb' 22 4 == 0)
  | 2 => w.extractLsb' 0 21 == 0 && (rIn2Vc w || w.extractLsb' 22 4 == 0)
  | 3 => w.extractLsb' 0 21 == 0 && w.extractLsb' 26 3 == 0
  | 4 => w.extractLsb' 20 9 == 0
  | _ => false

/-- The res0 fields of a whole image (R136). -/
def ChainImage.res0 (c : ChainImage) : Bool := c.elems.toList.all elemRes0' && c.routers.toList.all routerRes0
where
  elemRes0' (w : BitVec 64) : Bool :=
    w.extractLsb' 0 9 == 0 && (eOp w == 0x22 || eOp w == 0x23 || eOp w == 0x24 || w.extractLsb' 21 18 == 0)

/-- Whether a VC of a tile feeds a stream buffer. -/
def State.isBuffer (s : State) (t : TileId) (vc : SlotId) : Bool :=
  match s.vcChan t vc with
  | some (_, _, ch) => chanLanding ch.desc == 1
  | none => false

/-- The words of a stage and of a boundary. -/
def ChainImage.el (c : ChainImage) (st : Nat) : BitVec 64 := c.elems.toList.getD st 0
def ChainImage.ro (c : ChainImage) (b : Nat) : BitVec 32 := c.routers.toList.getD b 0

/-- An element word keeps R270 and R271 in its image: its fields, its selects, its constant, and its join's inputs; `src` is the VC that
feeds boundary 0 and `buffer` says which VCs are stream buffers. -/
def ChainImage.elOk (c : ChainImage) (buffer : SlotId → Bool) (src : Option SlotId) (st : Nat) : Bool :=
  let w := c.el st
  let r := c.ro st
  let sels := [0, 1, 2].map (eIn w)
  let sepCarry := rKind r == 3 && rSep r
  elemOk w && (eOp w != 0 || !sepCarry) && (!sels.contains 2 || (st != 0 && st != 5)) && (!sels.contains 4 || sepCarry) &&
  (opNoConst (eOp w) || eOp w == 0 || eCidx w == 0x3F || (assocGet c.consts (eCidx w)).isSome) &&
  (eOp w != 0x22 || ((List.range 2).all fun i =>
    !joinResets w (i == 1) ||
      (if eIn w i = 1 ∧ st = 0 ∧ rKind (c.ro 0) = 0 then (match src with | some v => buffer v | none => false)
       else eIn w i == (if rSep r then 4 else 1) && rKind r == 3 && buffer (rVc r))))

/-- A router word keeps R138 to R140 and R272 in its image. -/
def ChainImage.roOk (c : ChainImage) (b : Nat) : Bool :=
  let w := c.ro b
  let steers := (List.range 7).filter fun b => rKind (c.ro b) == 1
  routerRes0 w &&
  match rKind w with
  | 1 => decide (1 ≤ b ∧ b ≤ 5) && (rTarget w == 7 || (decide (b < rTarget w) && decide (rTarget w ≤ 6))) && eOp (c.el (b - 1)) == 0x13
  | 2 => decide (1 ≤ b) && decide (rTarget w ≤ 4) &&
      (rTarget w == 4 || steers.any fun x => decide (x < b) && (rId (c.ro x)).val == rTarget w) &&
      (rIn2Vc w || steers.any fun x => rTarget (c.ro x) == b)
  | 3 => decide (b ≤ 5)
  | _ => true

/-- A consistent image (R137, R270 to R272). -/
def ChainImage.ok (c : ChainImage) (buffer : SlotId → Bool) (src : Option SlotId) : Bool :=
  (List.range 6).all (c.elOk buffer src) && (List.range 7).all c.roOk

/-! ## Images in memory (R136, R269) -/

/-- A chain image from its 80 bytes and its tables. -/
def chainOf (bs : List Byte) (consts : List (Nat × BitVec 32)) (dtab : List (BitVec 64)) (stat : BitVec 32) : ChainImage where
  elems := Vector.ofFn fun i : Fin 6 => w64 (leNat ((bs.drop (8 * i.val)).take 8))
  routers := Vector.ofFn fun i : Fin 7 => BitVec.ofNat 32 (leNat ((bs.drop (48 + 4 * i.val)).take 4))
  lanes := BitVec.ofNat 16 (leNat ((bs.drop 76).take 2))
  consts := consts
  dtab := dtab
  stat := stat

/-- Words of w bytes. -/
def leWords (w : Nat) (bs : List Byte) : List Nat := (List.range (bs.length / w)).map fun i => leNat ((bs.drop (w * i)).take w)

/-- Read bytes in the engine domain, at L2 and the scratchpad ports and past every L1 share (R203): the bytes, or the fault with its address,
`F_ECC` among them (R176).
Assumption 49 (DEDUCED). -/
def State.readFor (s : State) (a : Acc) (ctx : Nat) (t : TileId) (va n : Nat) : Except (FaultCode × Nat) (List Byte) :=
  match s.locateRange ctx t va n a with
  | .error e => .error e
  | .ok ls => if ls.any (fun (l, _) => match l with | .aper _ => true | _ => false) then .error (.protect, va)
    else if s.eccError then .error (.ecc, va) else .ok (s.readLocs ls)
/-- The read of an engine, and that of a copy, which may reach a peer window (R379). -/
def State.engineRead (s : State) (ctx : Nat) (t : TileId) (va n : Nat) : Except (FaultCode × Nat) (List Byte) :=
  s.readFor { read := true, engine := true } ctx t va n
def State.copyRead (s : State) (ctx : Nat) (t : TileId) (va n : Nat) : Except (FaultCode × Nat) (List Byte) :=
  s.readFor { read := true, engine := true, copy := true } ctx t va n

/-- The words of one tile in a loaded image; none where the image gives the tile no chain. -/
def State.readChain (s : State) (ctx : Nat) (by_ : TileId) (G : Graph) (t : TileId) : Except (FaultCode × Nat) (Option ChainImage) :=
  let sec := fun (k : Nat) => G.sections.find? fun (kind, tile, _, _, _) => kind == k && tile == t
  let bytes : Nat → Except (FaultCode × Nat) (List Byte) := fun k => match sec k with
    | some (_, _, _, off, len) => s.engineRead ctx by_ (G.image + off) len
    | none => .ok []
  match sec 1 with
  | none => .ok none
  | some _ => do
    let c ← bytes 1
    let k ← bytes 3
    let d ← bytes 4
    let st ← bytes 5
    .ok (some (chainOf c (((leWords 4 k).zipIdx).map fun (v, i) => (i, BitVec.ofNat 32 v)) ((leWords 8 d).map w64) (BitVec.ofNat 32 (leNat st))))

/-- The image a tile runs for a graph slot: its running one where the slot is live, else the one in memory. -/
def State.graphImg (s : State) (ctx : Nat) (g : Fin 4) (t : TileId) : Option ChainImage :=
  match s.ctx? ctx with
  | none => none
  | some c =>
    match c.gslots[g] with
    | none => none
    | some G =>
      match (s.tile t).stream with
      | some { use := .graph n, img, .. } => if n = ctx ∧ c.liveSlot = some g.val then some img else none
      | _ => match s.readChain ctx t G t with | .ok i => i | .error _ => none

/-! ## Range transfers (R294 to R296) -/

/-- A range-transfer word. -/
structure Xfer where
  kind : Nat
  off1 : Int
  off2 : Int
  n : Nat
  d : Nat
  w : Nat
  deriving DecidableEq, Repr

def xferOf (w : BitVec 64) : Xfer where
  kind := (w.extractLsb' 60 4).toNat
  off1 := (w.extractLsb' 44 16).toInt
  off2 := (w.extractLsb' 28 16).toInt
  n := (w.extractLsb' 20 8).toNat
  d := (w.extractLsb' 12 8).toNat
  w := (w.extractLsb' 4 8).toNat + 1

/-- A word that keeps R294's table. -/
def xferOk (w : BitVec 64) : Bool :=
  let x := xferOf w
  decide (x.kind ≤ 7) && w.extractLsb' 0 4 == 0 && (x.off1 == 0 || x.kind == 1 || x.kind == 2 || x.kind == 4) &&
  (x.off2 == 0 || x.kind == 2) && (if x.kind = 3 then decide (1 ≤ x.n ∧ 1 ≤ x.d) else x.n == 0 && x.d == 0)

/-- The transfer of an element's input; that of a partner arc is IDENT, with the words per tick of its entry (R290, R294). -/
def xferAt (img : ChainImage) (w : BitVec 64) (i : Nat) : Xfer :=
  let x := if eDbase w = 0x3F then ⟨0, 0, 0, 0, 0, 1⟩ else xferOf (img.dtab.getD (eDbase w + i) 0)
  if eIn w i = 2 then ⟨0, 0, 0, 0, 0, x.w⟩ else x

/-- The largest tick (R25). -/
def maxTick : Nat := 2 ^ 48 - 1

/-- The input range of an output interval before bounding (R295); none where nothing is demanded. `c` is the cutting, `f` the floor. -/
def Xfer.range (x : Xfer) (t0 t1 c f : Nat) : Option (Int × Int) :=
  match x.kind with
  | 1 => some (t0 - x.off1, t1 - x.off1)
  | 2 => some (t0 - x.off1, t1 + x.off2)
  | 3 => some (↑(t0 * x.n / x.d), ↑(max (t1 * x.n / x.d) ((t1 + 1) * x.n / x.d - 1)))
  | 4 => some (c - x.off1, t1 - x.off1)
  | 5 => some (f, t1)
  | 6 => none
  | _ => some (t0, t1)

/-- The range bounded (R295): a negative lower end becomes 0, a range that lies below 0 is not demanded. -/
def Xfer.demand (x : Xfer) (t0 t1 c f : Nat) : Option (Nat × Nat) :=
  (x.range t0 t1 c f).bind fun (a, b) => if b < 0 then none else some (a.toNat, b.toNat)

/-- Rounded-up quotient. -/
def ceilDiv (a b : Nat) : Nat := (a + b - 1) / b

/-- The output tick of a firing on word w of input tick u (R296). -/
def Xfer.tick (x : Xfer) (u w : Nat) : Int :=
  match x.kind with
  | 1 | 4 => u + x.off1
  | 3 =>
    if x.d ≤ x.n then ↑(((u + 1) * x.d - 1) / x.n)
    else
      let k := ceilDiv ((u + 1) * x.d) x.n - ceilDiv (u * x.d) x.n
      ↑(ceilDiv (u * x.d) x.n + w * k / x.w)
  | _ => u

/-! ## Ports (R290, R291) -/

/-- A graph slot of a context. -/
def Context.graph? (c : Context) (g : Nat) : Option Graph := if h : g < 4 then c.gslots[g] else none
/-- The graph slot a port belongs to. -/
def State.graph? (s : State) (ctx g : Nat) : Option Graph := (s.ctx? ctx).bind (·.graph? g)

/-- Whether a channel's producer is an array's boundary 6. -/
def isEdge (d : BitVec 64) : Bool := chanPort d == 0
/-- The producer tile of a channel. -/
def srcTile (d : BitVec 64) : TileId := ⟨chanSrct d % 1024, Nat.mod_lt _ (by decide)⟩

/-- Where a demand goes from what stands above boundary b (R290), `fuel` boundaries at most: the operator of the stage above, or past a
stage that has none what stands above it; at a carry or boundary 0 the channels that land there; at a merge both inputs, of which a VC has
the channels that land there and the steers of the tile that send to it. -/
def feedsAbove (img : ChainImage) (chans : List Chan) (t : TileId) : Nat → Nat → List (Sum Nat (Fin 6))
  | 0, _ => []
  | fuel + 1, b =>
    let ro := fun (x : Nat) => img.routers.toList.getD x 0
    let w := ro b
    let landing := fun (vc : SlotId) (l : Nat → Bool) =>
      ((chans.zipIdx.filter fun (ch, _) => chanDstt ch.desc == t && chanVc ch.desc == vc && l (chanLanding ch.desc)).map fun (_, j) => Sum.inl j)
    let up : List (Sum Nat (Fin 6)) :=
      if b = 0 then []
      else if h : b - 1 < 6 then
        (if eOp img.elems[b - 1] ≠ 0 then [.inr ⟨b - 1, h⟩] else feedsAbove img chans t fuel (b - 1))
      else []
    let in2 := (List.range 7).filterMap fun x => if rKind (ro x) = 2 ∧ rIn2Vc (ro x) then some (rVc (ro x)) else none
    let carried := (List.range 7).filterMap fun x => if rKind (ro x) = 3 then some (rVc (ro x)) else none
    let edge := if b = 0 ∧ rKind w ≠ 3 then
        (chans.zipIdx.filter fun (ch, _) => chanDstt ch.desc == t && chanLanding ch.desc != 2 && !in2.contains (chanVc ch.desc) &&
          !carried.contains (chanVc ch.desc)).map fun (_, j) => Sum.inl j
      else []
    match rKind w with
    | 3 => landing (rVc w) (fun _ => true) ++ up
    | 2 => up ++ (if rIn2Vc w then landing (rVc w) (fun _ => true) else []) ++
        ((List.range 7).filter fun x => rKind (ro x) = 1 ∧ (if rIn2Vc w then rTarget (ro x) = 7 ∧ rVc (ro x) = rVc w else rTarget (ro x) = b)).flatMap fun x =>
          if x = 0 then [] else if h : x - 1 < 6 then
            (if eOp img.elems[x - 1] ≠ 0 then [.inr ⟨x - 1, h⟩] else feedsAbove img chans t fuel (x - 1)) else []
    | _ => edge ++ up

/-- The VCs a chain image reads inside the array: those of its carries and its merges. -/
def ChainImage.vcs (img : ChainImage) : List SlotId :=
  img.routers.toList.filterMap fun w => if rKind w = 3 ∨ (rKind w = 2 ∧ rIn2Vc w) then some (rVc w) else none

/-- The VC that feeds boundary 0 of a tile of the live graph: the lowest channel that lands there and that no carry or merge reads.
Assumption 42 (DEDUCED). -/
def State.edgeVc (s : State) (t : TileId) (img : ChainImage) : Option SlotId :=
  match s.tileCtx t with
  | none => none
  | some c =>
    if rKind (img.routers[0]) = 3 then none
    else (List.finRange 16).find? fun vc => !img.vcs.contains vc &&
      c.liveChans.any fun ch => chanDstt ch.desc == t && chanVc ch.desc == vc && chanLanding ch.desc != 2

/-- The VCs whose flits the stream array of a tile takes (R265, R383). -/
def State.streamVcs (s : State) (t : TileId) : List SlotId :=
  match (s.tile t).stream with
  | none => []
  | some x => x.img.vcs ++ (match x.use with | .vrun _ _ _ _ v _ _ => v.toList | .graph _ => (s.edgeVc t x.img).toList)

/-- The highest stage of a tile whose op is not none. -/
def topStage (img : ChainImage) : Option (Fin 6) := ((List.finRange 6).reverse).find? fun st => eOp img.elems[st] != 0

/-- The producer ports of a channel, each with the feed that its demands arrive on (R290): its source, the operator above its boundary 6,
or, past a tile without one, what stands above there; `fuel` channels at most. -/
def State.producersOf (s : State) (ctx : Nat) (g : Fin 4) (G : Graph) : Nat → Nat → List (PortId × PortId)
  | 0, _ => []
  | fuel + 1, j =>
    match G.chans[j]? with
    | none => []
    | some ch =>
      if !isEdge ch.desc then [(.source ctx g (sourceOf G.chans j), .sink ctx g j)]
      else
        let t := srcTile ch.desc
        match s.graphImg ctx g t with
        | none => []
        | some img =>
          match topStage img with
          | some st => [(.oper ctx g t st, .sink ctx g j)]
          | none => (feedsAbove img G.chans t 8 6).flatMap fun
            | .inl k => s.producersOf ctx g G fuel k
            | .inr st => [(.oper ctx g t st, .sink ctx g j)]
def State.producers (s : State) (ctx : Nat) (g : Fin 4) (G : Graph) (j : Nat) : List (PortId × PortId) :=
  (s.producersOf ctx g G (G.chans.length + 1) j).eraseDups

/-- The parts of a port word (R291): kind, graph slot, input, stage, tile or channel. -/
structure PortWord where
  kind : Nat
  slot : Fin 4
  inp : Nat
  stage : Nat
  n : Nat
  deriving DecidableEq, Repr

def portWord (w : Word) : PortWord where
  kind := (w.extractLsb' 62 2).toNat
  slot := ⟨(w.extractLsb' 60 2).toNat, (w.extractLsb' 60 2).isLt⟩
  inp := (w.extractLsb' 13 2).toNat
  stage := (w.extractLsb' 10 3).toNat
  n := if w.extractLsb' 62 2 = 0 then (w.extractLsb' 0 12).toNat else (w.extractLsb' 0 10).toNat

/-- A checked port: a channel's sink, an operator's output, or one of its inputs. -/
inductive PortRef where
  | chan (g : Fin 4) (j : Nat) (ch : Chan)
  | oper (g : Fin 4) (t : TileId) (st : Fin 6) (img : ChainImage)
  | input (g : Fin 4) (t : TileId) (st : Fin 6) (i : Fin 3) (img : ChainImage)

/-- The checks of R291: its refusals, then the launch. -/
def State.openPort (s : State) (c : Context) (w : Word) (kinds : List Nat) : Except Stop PortRef := do
  let p := portWord w
  let bad : Stop := trapWith .illegalField
  if w.extractLsb' 15 45 ≠ 0 ∨ !kinds.contains p.kind then throw bad
  match c.gslots[p.slot] with
  | none => throw bad
  | some G =>
    if p.kind = 0 then
      if w.extractLsb' 12 3 ≠ 0 then throw bad
      match G.chans[p.n]? with
      | none => throw bad
      | some ch => if c.holds (chanDstt ch.desc).val then .ok (.chan p.slot p.n ch) else throw (trapWith .protect)
    else if h : p.n < 1024 ∧ p.stage < 6 then
      if p.inp = 3 ∨ (p.kind = 1 ∧ p.inp ≠ 0) then throw bad
      if !c.holds p.n then throw (trapWith .protect)
      match s.graphImg c.num p.slot ⟨p.n, h.1⟩ with
      | none => throw bad
      | some img =>
        if eOp (img.elems[p.stage]'h.2) = 0 then throw bad
        if !c.holds p.n then throw (trapWith .protect)
        if p.kind = 1 then .ok (.oper p.slot ⟨p.n, h.1⟩ ⟨p.stage, h.2⟩ img)
        else if hi : p.inp < 3 then .ok (.input p.slot ⟨p.n, h.1⟩ ⟨p.stage, h.2⟩ ⟨p.inp, hi⟩ img) else throw bad
    else throw bad

end Sys2Proof.Machine
end

