-- ==== Sys2Proof/Machine/Stream.lean ====
section
/-! DEFINITION. The lane array in stream mode (R118, R136 to R145, R263 to R271, R383 to R385): the chain-image commands of class 0x2
and the movement of tokens. A step moves one token, one flit or one wave; the moves of a clk are those of tokens that stood in their slots
at its start, into slots that are empty then or that a token leaves in it, and with none left the next clk begins (R384). A stream's happenings
stay owed while it runs; each is enabled where a token can move. -/
namespace Sys2Proof.Machine
open Sys2Proof

/-! ## Reading a running array -/

/-- Whether a lane is enabled. -/
def Stream.on (x : Stream) (L : SlotId) : Bool := x.img.lanes.getLsbD L.val
/-- The enabled lanes. -/
def Stream.active (x : Stream) : List SlotId := (List.finRange 16).filter x.on
/-- Change a lane. -/
def Stream.modLane (x : Stream) (L : SlotId) (f : Lane → Lane) : Stream := { x with lanes := x.lanes.set L (f x.lanes[L]) }
/-- Change an element. -/
def Lane.modElem (l : Lane) (st : Fin 6) (f : ElemSt → ElemSt) : Lane := { l with elems := l.elems.set st (f l.elems[st]) }
def Stream.modElem (x : Stream) (L : SlotId) (st : Fin 6) (f : ElemSt → ElemSt) : Stream := x.modLane L (·.modElem st f)

/-- The plane an element or a router of a lane runs: the shadow plane once it has swapped (R281). -/
def Tile.plane (T : Tile) (x : Stream) (swapped : Bool) : ChainImage := if swapped then T.shadowChain.getD x.img else x.img
/-- The word of an element, and of a router. -/
def Tile.eWord (T : Tile) (x : Stream) (L : SlotId) (st : Fin 6) : BitVec 64 := (T.plane x x.lanes[L].elems[st].swapped).elems[st]
def Tile.rWord (T : Tile) (x : Stream) (L : SlotId) (b : Fin 7) : BitVec 32 := (T.plane x x.lanes[L].swapped[b]).routers[b]

/-- The stage above a boundary, and the boundaries around a stage. -/
def stageAbove (b : Fin 7) : Option (Fin 6) := if h : 0 < b.val then some ⟨b.val - 1, by omega⟩ else none
def bndAbove (st : Fin 6) : Fin 7 := ⟨st.val, by omega⟩
def bndBelow (st : Fin 6) : Fin 7 := ⟨st.val + 1, by omega⟩

/-- A token that can move in the present clk (R384). -/
def ready (o : Option Tok) : Option Tok := o.filter (·.rest == 0)
/-- A token in the slot it has moved into. -/
def Tok.moved (k : Tok) (rest : Nat := 1) : Tok := { k with rest }
/-- The token that stands above a boundary and can move. -/
def Lane.above (l : Lane) (b : Fin 7) : Option Tok := match stageAbove b with | none => l.entry | some st => ready l.elems[st].own
/-- Take it: its producer has its acknowledgement. -/
def Lane.dropAbove (l : Lane) (b : Fin 7) : Lane :=
  match stageAbove b with | none => { l with entry := none } | some st => l.modElem st fun e => { e with own := none }

/-- Port 1 of a boundary: the token of its register, or, where it holds no router, the one above it. A token leaves boundary 6 in the clk in
which it enters the register there (R384). -/
def Tile.port1 (T : Tile) (x : Stream) (L : SlotId) (b : Fin 7) : Option Tok :=
  let l := x.lanes[L]
  match rKind (T.rWord x L b) with
  | 0 => l.above b
  | 1 => if l.side[b] then none else ready l.bnd[b]
  | _ => if b = 6 then l.bnd[b] else ready l.bnd[b]
/-- Whether the element below a boundary reads a port: 1 by select 001, 2 by 100. -/
def Tile.reads (T : Tile) (x : Stream) (L : SlotId) (b : Fin 7) (sel : Nat) : Bool :=
  if h : b.val < 6 then
    let w := T.eWord x L ⟨b.val, h⟩
    (sel == 1 && eOp w == 0) || (List.range (opReads (eOp w))).any fun i => constInput w != some i && eIn w i == sel
  else sel == 1
/-- The ROT has passed a router's input: a router whose other input, the one `other` names, has still to pass it, waits for that; then it
runs its shadow plane (R281). -/
def Lane.pastRot (l : Lane) (b : Fin 7) (other : Bool) : Lane :=
  if other && !l.half[b] then { l with half := l.half.set b true } else { l with swapped := l.swapped.set b true }
/-- Whether a carry brings its VC to port 2 for an element that reads it. -/
def Tile.twoPorts (T : Tile) (x : Stream) (L : SlotId) (b : Fin 7) (other : Nat) : Bool :=
  rKind (T.rWord x L b) == 3 && rSep (T.rWord x L b) && T.reads x L b other
/-- Whether a token of a live graph is a ROT. -/
def Stream.isRot (x : Stream) (k : Option Tok) : Bool := match x.use, k with | .graph _, some k => k.kind == 4 | _, _ => false

/-- Take the token of port 1, or of port 2. -/
def Tile.dropPort1 (T : Tile) (x : Stream) (L : SlotId) (b : Fin 7) : Stream :=
  let rot := x.isRot (T.port1 x L b)
  x.modLane L fun l =>
    let l := if rKind (T.rWord x L b) = 0 then l.dropAbove b else { l with bnd := l.bnd.set b none }
    if rot then l.pastRot b (T.twoPorts x L b 4) else l
def Tile.dropPort2 (T : Tile) (x : Stream) (L : SlotId) (b : Fin 7) : Stream :=
  let rot := x.isRot x.lanes[L].bnd2[b]
  x.modLane L fun l =>
    let l := { l with bnd2 := l.bnd2.set b none }
    if rot then l.pastRot b (T.twoPorts x L b 1) else l

/-- The reduction partner of a lane at a stage (R270). -/
def partnerOf (L : SlotId) (st : Fin 6) : SlotId := ⟨(L.val ^^^ 2 ^ (st.val - 1)) % 16, Nat.mod_lt _ (by decide)⟩

/-- Whether a token of a stage has a consumer in its own lane, and whether its partner below reads it. -/
def Tile.needOwn (T : Tile) (x : Stream) (L : SlotId) (st : Fin 6) : Bool :=
  if h : st.val + 1 < 6 then
    let w := T.eWord x L ⟨st.val + 1, h⟩
    rKind (T.rWord x L (bndBelow st)) != 0 || eOp w == 0 || (List.range (opReads (eOp w))).any fun i => eIn w i == 1
  else true
def Tile.needPart (T : Tile) (x : Stream) (L : SlotId) (st : Fin 6) : Bool :=
  if h : st.val + 1 < 6 then
    let P := partnerOf L ⟨st.val + 1, h⟩
    let w := T.eWord x P ⟨st.val + 1, h⟩
    x.on P && decide (1 ≤ st.val + 1 ∧ st.val + 1 ≤ 4) && (List.range (opReads (eOp w))).any fun i => eIn w i == 2
  else false

/-! ## Flits at the array's edges -/

/-- The token a lane takes of a flit (R267): a control flit gives every lane its whole payload. -/
def Flit.tok (f : Flit) (L : SlotId) : Tok :=
  { kind := f.kind, val := if f.kind = 0 then (f.data.extractLsb' (32 * L.val) 32).setWidth 96 else f.data.setWidth 96 }
/-- The enabled lanes a flit enters (R383). -/
def Stream.lanesOf (x : Stream) (f : Flit) : List SlotId := x.active.filter fun L => f.kind != 0 || f.mask.getLsbD L.val

/-- Where in scratchpad the data flit at a position of a stream buffer holds a lane's word (R266). -/
def Chan.lanePlace (ch : Chan) (pos : Nat) (L : SlotId) : Nat :=
  chanBase ch.desc + 64 * ((ch.seq.take pos).filter Option.isNone).length + 4 * L.val
/-- The entry of a stream buffer a lane reads next (R266): a data flit from scratchpad once its words are present, or a control flit.
Assumption 29 (DEDUCED). -/
def State.bufferTok (s : State) (t : TileId) (vc : SlotId) (pos : Nat) (L : SlotId) : Option Tok :=
  match s.vcChan t vc with
  | none => none
  | some (_, _, ch) =>
    match ch.seq[pos]? with
    | none => none
    | some (some f) => some (f.tok L)
    | some none =>
      let off := ch.lanePlace pos L
      if (s.tile t).present.contains (off / 4) then
        some { kind := 0, val := BitVec.ofNat 96 (leNat (Memory.read (s.tile t).sp off 4)) }
      else none
/-- Where the segment of a stream buffer begins that a lane reads (R266). -/
def State.bufferStart (s : State) (t : TileId) (vc : SlotId) (pos : Nat) : Nat :=
  match s.vcChan t vc with
  | none => 0
  | some (_, _, ch) =>
    ((List.range pos).reverse.find? fun i => match ch.seq[i]? with | some (some f) => f.kind == 1 | _ => false).elim 0 (· + 1)

/-! ## Faults (R137, R285, R340) -/

/-- A token as a fabric record shows it; its acknowledgement is held while it still waits on its arc.
Assumption 163 (DESIGN CHOICE). -/
def Tok.bits (k : Tok) (held : Bool) : Nat :=
  (if k.kind = 0 then k.val.toNat % 2 ^ 32 else k.val.toNat % 2 ^ 48) + k.kind.toNat * 2 ^ 48 + (if held then 2 ^ 51 else 0) + 2 ^ 52

/-- A fault while a region's planes are partly swapped freezes the region (R285). -/
def State.freeze (s : State) (ctx : Nat) (t : TileId) : State :=
  s.modCtx ctx fun c => { c with regions := c.regions.map fun (e : GraphRegion) =>
    (if e.rotating && inBed e.bed t.val && (bedTiles e.bed).any (fun u => !(s.tile u).frontier.isEmpty) then { e with frozen := true } else e) }

/-- Write a fabric record (R340): place, word, plane, waiting tokens with their bits. -/
def State.fabricRecord (s : State) (ctx : Nat) (code : FaultCode) (t : TileId) (stage lane word plane gslot chan : Nat) (toks : List Nat) :
    State :=
  let e := (s.ctx? ctx).bind (·.regionAt t)
  let rot := e.elim 0 (·.rotNum.toNat)
  let frontier := if e.elim false (·.rotating) then 2 else 0
  (s.freeze ctx t).queueRecord ctx (BitVec.ofNat 512 (code.val + 1 * 2 ^ 16 + t.val * 2 ^ 32 + stage * 2 ^ 48 + lane * 2 ^ 56 + word * 2 ^ 64 +
    (plane + frontier + gslot * 4) * 2 ^ 128 + min toks.length 2 * 2 ^ 136 + rot * 2 ^ 144 + chan * 2 ^ 160 +
    (toks.getD 0 0) * 2 ^ 192 + (toks.getD 1 0) * 2 ^ 256 + ctx * 2 ^ 384 + s.tenantOf ctx * 2 ^ 394))

/-- The end of a stream (R137, R142): the array is free, and the changes of the chain image that waited are made. -/
def State.endStream (s : State) (t : TileId) : State :=
  s.modTile t fun T => { T with stream := none, chain := T.chainNext.getD T.chain, chainNext := none }

/-- Add a stream's counts to its task (R137); the counts of an ended task are dropped. -/
def State.flushCounts (s : State) (t : TileId) : State :=
  match (s.tile t).stream with
  | some x =>
    match x.use with
    | .vrun iss _ _ _ _ _ _ =>
      ((List.finRange 16).foldl (fun s i => s.bump iss i x.counts[i].toNat) s).modTile t fun T =>
        { T with stream := T.stream.map fun x => { x with counts := Vector.replicate 16 0 } }
    | .graph _ => s
  | none => s

/-- A fault of an element or a boundary. Under a `vrun` it is late to the task and the run ends; in a graph it is a fabric fault, and
`stop` marks what it stops.
Assumption 38 (DEDUCED).
Assumption 44 (DEDUCED). -/
def State.streamFault (s : State) (t : TileId) (code : FaultCode) (addr : Word) (stage lane word plane : Nat) (toks : List (Tok × Bool))
    (stop : Stream → Stream) : State :=
  match (s.tile t).stream with
  | none => s
  | some x =>
    match x.use with
    | .vrun iss _ _ _ _ _ _ =>
      let s := (s.flushCounts t).endStream t
      let aux : Word := w64 (stage + lane * 256)
      if s.alive iss then
        s.addLate iss.tile iss.slot { code, addr, pc := iss.pc, olog := none, engine := false, aux, access := none }
      else s.engineFails iss code addr aux true
    | .graph ctx =>
      let g := ((s.ctx? ctx).bind (·.liveSlot)).getD 0
      (s.modTile t fun T => { T with stream := T.stream.map stop }).fabricRecord ctx code t stage lane word plane g 0xFFFFFFFF (toks.map fun (k, held) => k.bits held)

/-- Raise counters in an element: those of the run under a `vrun`; in a graph the element keeps them for the COUNT flit of its segment's
end (R145, R286).
Assumption 39 (DEDUCED). -/
def State.streamCount (s : State) (t : TileId) (L : SlotId) (st : Fin 6) (l : List Nat) : State :=
  match (s.tile t).stream with
  | none => s
  | some x =>
    let add := fun (v : Vector (BitVec 32) 16) => addCounts v fun i => l.count i.val
    s.modTile t fun T => { T with stream := some (match x.use with
      | .vrun .. => { x with counts := add x.counts }
      | .graph _ => x.modElem L st fun e => { e with counts := add e.counts }) }

/-- An element forwards an EOT in a graph: its COUNT flit goes to its tile's adder node, where the tile reports (R286). -/
def State.sendCounts (s : State) (t : TileId) (L : SlotId) (st : Fin 6) : State :=
  match (s.tile t).stream with
  | some { use := .graph _, img, lanes, .. } =>
    let n := lanes[L].elems[st].counts
    s.modTile t fun T => { T with
      stream := T.stream.map (·.modElem L st fun e => { e with counts := Vector.replicate 16 0 })
      statSum := if img.stat.getLsbD 31 then addCounts T.statSum fun i => n[i].toNat else T.statSum }
  | _ => s

/-- An element of a die in timing-margin mode may replay its token, one clk later (R144); whether it does is a free value.
Assumption 45 (DESIGN CHOICE). -/
def State.replayElem (s : State) (t : TileId) (L : SlotId) (st : Fin 6) : State :=
  if s.dies[dieOf t].margin then
    let (f, s) := s.draw
    if f.getLsbD 0 then
      let later := fun (k : Tok) => { k with rest := k.rest + 1 }
      (s.modTile t fun T => { T with stream := T.stream.map (·.modElem L st fun e => { e with own := e.own.map later, part := e.part.map later }) }).streamCount
        t L st [8]
    else s
  else s

/-! ## Element arithmetic (R271) -/

/-- The elements of a 32-bit lane token, and a token from elements. -/
def laneFields (t : BitVec 5) (v : BitVec 32) : List Nat :=
  (List.range (32 / tagWidth t)).map fun i => v.toNat / 2 ^ (tagWidth t * i) % 2 ^ tagWidth t
def packLane (t : BitVec 5) (l : List Nat) : BitVec 32 :=
  BitVec.ofNat 32 (l.foldr (fun x acc => x % 2 ^ tagWidth t + 2 ^ tagWidth t * acc) 0)

/-- What the source elements of lane tokens raise (R117, R145).
Assumption 159 (DEDUCED). -/
def tokMarks (t : BitVec 5) (ins : List (BitVec 32)) : List Nat := ins.flatMap fun v => (laneFields t v).flatMap fun x => srcCounts (decodeVal t x)

/-- What a firing gives: its token's value and Boolean, and the counters it raises. -/
structure Fired where
  val : BitVec 32
  bool : Bool := false
  counts : List Nat := []
  deriving DecidableEq, Repr

/-- A group A operation or a special function on lane tokens, element by element. -/
def fireArith (t : BitVec 5) (mode : Nat) (f : Nat → List Val → Val × Bool) (refine : List Nat → Nat) (ins : List (BitVec 32))
    (ds : List Nat) : Fired :=
  let rows := zipAll (ins.map (laneFields t))
  let rs := (rows.zip ds).map fun (codes, d) =>
    let vs := codes.map (decodeVal t)
    if vs.any (· == Val.fallow) then (⟨fallowCode t, []⟩ : Rounded)
    else let (v, st) := f mode vs; roundVal t mode false d st v
  { val := packLane t (rs.map (·.code))
    counts := laneCounts t (rs.flatMap (·.counts)) ++ (rows.flatMap fun r => List.replicate (refine r) 7) ++ tokMarks t ins }
/-- A group B operation. -/
def fireBits (t : BitVec 5) (f : Nat → Nat → Nat → Nat) (ins : List (BitVec 32)) : Fired :=
  let w := tagWidth t
  { val := packLane t ((zipAll (ins.map (laneFields t))).map fun l =>
      if l.all (presentBits t) then f w (l.getD 0 0) (l.getD 1 0) % 2 ^ w else fallowCode t)
    counts := tokMarks t ins }
/-- Tree add: a fallow contributor is the identity, −0.0 (R96, R131).
Assumption 32 (DEDUCED). -/
def fTree (m : Nat) (l : List Val) : Val × Bool :=
  let v := fun (i : Nat) => if arg l i = .fallow then (combId 0).1 else arg l i
  if arg l 0 = .fallow then (v 1, false) else if arg l 1 = .fallow then (v 0, false) else fAdd m l
def fireTree (t : BitVec 5) (mode : Nat) (ins : List (BitVec 32)) (ds : List Nat) : Fired :=
  let rs := ((zipAll (ins.map (laneFields t))).zip ds).map fun (codes, d) =>
    let (v, st) := fTree mode (codes.map (decodeVal t)); roundVal t mode false d st v
  { val := packLane t (rs.map (·.code)), counts := laneCounts t (rs.flatMap (·.counts)) ++ tokMarks t ins }
/-- Compare the lowest elements of two tokens; A goes on with the Boolean. -/
def fireCmp (t : BitVec 5) (cond : Nat) (decide_ : Bool) (a b : BitVec 32) : Fired :=
  let x := (laneFields t a).getD 0 0
  let y := (laneFields t b).getD 0 0
  let marks := srcCounts (decodeVal t x) ++ srcCounts (decodeVal t y)
  if decodeVal t x = .fallow ∨ decodeVal t y = .fallow then { val := a, counts := 6 :: marks }
  else { val := a, bool := cmpVals cond (decodeVal t x) (decodeVal t y)
         counts := (if decide_ && !tagInt t then List.replicate (refines t x y) 7 else []) ++ marks }

/-- The function of a group A operation or a special function. -/
def arithOf : Nat → Option (Nat → List Val → Val × Bool)
  | 0x02 => some fAdd | 0x03 => some fSub | 0x04 => some fMul | 0x05 => some fFma | 0x06 => some fFms | 0x07 => some fMin
  | 0x08 => some fMax | 0x09 => some fClamp | 0x0A => some fAbs | 0x0B => some fNeg
  | 0x17 => some (fSpecial .rcp) | 0x18 => some (fSpecial .rsq) | 0x19 => some (fSpecial .sqrt) | 0x1A => some (fSpecial .exp2)
  | 0x1B => some (fSpecial .log2) | 0x1C => some (fSpecial .tanh) | 0x1D => some (fSpecial .sgm) | 0x1E => some (fSpecial .sin)
  | _ => none
/-- The function of a group B operation. -/
def bitsOf : Nat → Option (Nat → Nat → Nat → Nat)
  | 0x0C => some bAnd | 0x0D => some bOr | 0x0E => some bXor | 0x0F => some bNot | 0x10 => some bShl | 0x11 => some bShr | 0x12 => some bSra
  | _ => none

/-- `cvt` on a token: its lowest element is converted; the bits beside the result are a free value (assumption 20, DESIGN CHOICE).
Assumption 31 (DESIGN CHOICE). -/
def fireCvt (S D : BitVec 5) (mode d : Nat) (free : Word) (a : BitVec 32) : Fired :=
  let v := decodeVal S (a.toNat % 2 ^ tagWidth S)
  let r := roundVal D mode false d false v
  let w := tagWidth D
  { val := BitVec.ofNat 32 (r.code + (if w < 32 then free.toNat % 2 ^ (32 - w) * 2 ^ w else 0)), counts := r.counts ++ srcCounts v }

/-- The byte address an `ld` or `st` names: its constant, sign-extended, plus A·w/8.
Assumption 35 (DEDUCED). -/
def memAddr (t : BitVec 5) (k a : BitVec 32) : Nat := (k.signExtend 64 + w64 (a.toNat * (tagWidth t / 8))).toNat

/-- Operations whose results round (R99): add, sub, mul, fma, fms and the special functions. -/
def opRounds (op : Nat) : Bool := (decide (2 ≤ op) && decide (op ≤ 6)) || (decide (0x17 ≤ op) && decide (op ≤ 0x1E))

/-- One data firing (R271): the result and the state after its draws and its memory access; or the fault with its address. `k` is the
element's constant.
Assumption 24 (DEDUCED).
Assumption 33 (DESIGN CHOICE). -/
def State.fireData (s : State) (t : TileId) (ctx : Nat) (w : BitVec 64) (k : BitVec 32) (ins : List (BitVec 32)) :
    Except (FaultCode × Nat) (Fired × State) :=
  let op := eOp w
  let fmt := eFmt w
  let mode := eMode w
  let a := ins.getD 0 0
  let b := ins.getD 1 0
  let n := 32 / tagWidth fmt
  match arithOf op, bitsOf op with
  | some f, _ =>
    let (ds, s) := s.takeDraws t (if opRounds op && tagFloat fmt then mode else 0) n
    let refine := if eDecide w && !tagInt fmt then (if op = 9 then refineClamp fmt else if op = 7 ∨ op = 8 then refine2 fmt else noRefine) else noRefine
    .ok (fireArith fmt mode f refine ins ds, s)
  | none, some f => .ok (fireBits fmt f ins, s)
  | none, none =>
    match op with
    | 0x13 => .ok (fireCmp fmt mode (eDecide w) a b, s)
    | 0x14 => .ok ({ val := if a.getLsbD 0 then b else ins.getD 2 0 }, s)
    | 0x15 =>
      let (ds, s) := s.takeDraws t mode 1
      let (free, s) := s.draw
      .ok (fireCvt (BitVec.ofNat 5 (eCidx w)) fmt mode (ds.getD 0 0) free a, s)
    | 0x25 =>
      let (ds, s) := s.takeDraws t (if tagFloat fmt then mode else 0) n
      .ok (fireTree fmt mode ins ds, s)
    | 0x23 =>
      let va := memAddr fmt k a
      (s.engineRead ctx t va (tagWidth fmt / 8)).map fun bs => ({ val := BitVec.ofNat 32 (leNat bs) }, s)
    | 0x24 =>
      let va := memAddr fmt k a
      match s.locateRange ctx t va (tagWidth fmt / 8) { write := true, engine := true } with
      | .ok ls =>
        if ls.any (fun (l, _) => match l with | .aper _ => true | _ => false) then .error (.protect, va)
        else if s.eccError then .error (.ecc, va) else
        let (free, s) := s.draw
        .ok ({ val := free.setWidth 32 }, s.writeLocs ls (leBytes (tagWidth fmt / 8) b.toNat))
      | .error e => .error e
    | _ => .ok ({ val := a }, s)

/-- An acc element takes a token: every element of the lane contributes, in order (R132, R271). -/
def accTake (op : Nat) (t : BitVec 5) (c : Cell) (v : BitVec 32) : Cell × List Nat :=
  (laneFields t v).foldl (fun (c, cs) x =>
    let v := decodeVal t x
    let (c', inex, sat) := accumCell false op 0 c [v]
    (c', cs ++ List.replicate inex 1 ++ List.replicate sat 9 ++ srcCounts v)) (c, [])
/-- The token an acc element drains at EOT (R133, R271). -/
def accDrain (kind : Nat) (t : BitVec 5) (mode d : Nat) (iss : Issue) (c : Cell) : Fired :=
  if kind = 2 then { val := BitVec.ofNat 32 c.count.toNat }
  else
    let f : BitVec 5 := if tagFloat t then t else 1
    let r := drainCell f kind mode iss 0 c d
    { val := BitVec.ofNat 32 (r.code + if tagWidth f = 16 then 0xFFFF * 2 ^ 16 else 0), counts := r.counts }
/-- The 33 tokens a qblk element emits for a block (R110). -/
def blockTokens (ty : Nat) (t : BitVec 5) (mode : Nat) (buf : List (BitVec 32)) (ds : List Nat) : List (BitVec 32) × List Nat :=
  let vs := buf.map (fun v => decodeVal t (v.toNat % 2 ^ tagWidth t)) ++ List.replicate (32 - buf.length) Val.fallow
  let (codes, side, counts) := quantBlock ty mode vs ds
  (BitVec.ofNat 32 side :: codes.map (BitVec.ofNat 32), counts)

/-! ## The heads of an element's inputs -/

/-- What an input offers: a token, a value that is always there, or nothing yet. -/
inductive Head where
  | tok (k : Tok)
  | imm (v : BitVec 32)
  | wait
  deriving DecidableEq, Repr

/-- Input i of an element: its constant, its own last output, or a token of an arc.
Assumption 34 (DESIGN CHOICE). -/
def State.inputHead (s : State) (t : TileId) (x : Stream) (L : SlotId) (st : Fin 6) (i : Nat) : Head :=
  let T := s.tile t
  let w := T.eWord x L st
  if constInput w = some i then .imm ((assocGet (T.plane x x.lanes[L].elems[st].swapped).consts (eCidx w)).getD 0)
  else
    match eIn w i with
    | 1 => match T.port1 x L (bndAbove st) with | some k => .tok k | none => .wait
    | 2 => match stageAbove (bndAbove st) with
      | some up => match ready x.lanes[partnerOf L st].elems[up].part with | some k => .tok k | none => .wait
      | none => .wait
    | 3 => .imm ((x.lanes[L].elems[st].last).getD ((Config.freeWord s.draws).setWidth 32))
    | 4 => match ready x.lanes[L].bnd2[bndAbove st] with | some k => .tok k | none => .wait
    | _ => .imm 0
/-- Take the token of input i. -/
def Tile.takeInput (T : Tile) (x : Stream) (L : SlotId) (st : Fin 6) (w : BitVec 64) (i : Nat) : Stream :=
  match eIn w i with
  | 1 => T.dropPort1 x L (bndAbove st)
  | 2 => match stageAbove (bndAbove st) with
    | some up => x.modElem (partnerOf L st) up fun e => { e with part := none }
    | none => x
  | 4 => T.dropPort2 x L (bndAbove st)
  | _ => x
/-- Take several. -/
def Tile.takeInputs (T : Tile) (L : SlotId) (st : Fin 6) (w : BitVec 64) : List Nat → Stream → Stream
  | [], x => x
  | i :: is, x => T.takeInputs L st w is (T.takeInput x L st w i)

/-! ## Placing a token; the operator's port (R293, R296, R297) -/

/-- The operator port that gates an element of the live graph. -/
def State.gate (s : State) (t : TileId) (x : Stream) (st : Fin 6) : Option DPort :=
  match x.use with
  | .vrun .. => none
  | .graph ctx => match (s.ctx? ctx).bind (·.liveSlot) with
    | some g => some (s.port ctx (.oper ctx g t st))
    | none => some { port := .oper ctx 4 t st }

/-- The ticks an arc's feeds take of the segment in service. -/
def DPort.feedNow (P : DPort) (part : Bool) : List (Nat × Nat) :=
  ((P.feeds.filter (·.part == part)).flatMap (·.now)).foldl (fun l (a, b) => joinTicks l a b) []
/-- Whether a feed takes a data token of a service from t0 on: its tick is counted with the words per tick of the consumer's own input
(R297), and is that of its firing (R296) where the consumer has none.
Assumption 41 (DESIGN CHOICE). -/
def Feed.takes (f : Feed) (t0 : Nat) (k : Tok) : Bool := hasTick f.now (if f.w = 0 then k.tick else t0 + k.nth / f.w)
/-- The token an arc receives: a data token where a feed demands its tick; an SOT and an EOT bounding those ticks; nothing where none is. -/
def feedTok (P : Option DPort) (part : Bool) (sent : Nat) (k : Tok) : Option Tok :=
  let eot := fun (tick : Nat) => { k with val := BitVec.ofNat 96 (tick % 2 ^ 48 + sent % 2 ^ 32 * 2 ^ 64) }
  match P with
  | none => some (if k.kind = 2 then eot k.val.toNat else k)
  | some P =>
    let now := P.feedNow part
    let t0 := (P.serving.getD (0, 0)).1
    match k.kind.toNat, now.head?, now.getLast? with
    | 0, _, _ => if P.feeds.any fun f => f.part == part && f.takes t0 k then some k else none
    | 1, some (a, _), _ => some { k with val := BitVec.ofNat 96 a }
    | 2, _, some (_, b) => some (eot b)
    | 1, none, _ => none
    | 2, _, none => none
    | 3, none, _ => none
    | _, _, _ => some k

/-- Place the next token of a firing on the element's arcs. -/
def State.placeTok (s : State) (t : TileId) (x : Stream) (L : SlotId) (st : Fin 6) (plain : Bool) (k : Tok) : Stream :=
  let T := s.tile t
  let P := if plain then none else s.gate t x st
  let e := x.lanes[L].elems[st]
  let k := (if plain then k else { k with nth := e.outs }).moved (if plain || k.kind != 0 then 1 else opClk (eOp (T.eWord x L st)))
  let own := if T.needOwn x L st then (if plain then some k else feedTok P false e.sentOwn k) else none
  let part := if T.needPart x L st then (if plain then some k else feedTok P true e.sentPart k) else none
  let count := fun (o : Option Tok) (n : Nat) => if k.kind = 1 ∨ k.kind = 2 then 0 else if k.kind = 0 ∧ o.isSome then n + 1 else n
  x.modElem L st fun e => { e with
    own, part, sentOwn := count own e.sentOwn, sentPart := count part e.sentPart
    eot := e.eot || (k.kind == 2 && P.isSome)
    outs := if k.kind = 0 ∧ P.isSome then e.outs + 1 else e.outs, upto := if k.kind = 0 ∧ P.isSome then k.tick else e.upto }

/-- Put an array back on its tile. -/
def State.setStream (s : State) (t : TileId) (x : Stream) : State := s.modTile t fun T => { T with stream := some x }

/-- Whether nothing of a stage's output stands between it and boundary 6: not in its own slot, not in a boundary or an element above it. -/
def Stream.clearAbove (x : Stream) (st : Fin 6) : Bool :=
  x.active.all fun L =>
    let l := x.lanes[L]
    ((List.finRange 6).all fun u => decide (u.val < st.val) || l.elems[u].own.isNone) &&
      (List.finRange 7).all fun b => decide (b.val ≤ st.val) || l.bnd[b].isNone

/-- The end of a service (R293): once every enabled lane has forwarded its EOT, and the tokens of the tile's top stage have left at
boundary 6, where they are filtered by what its consumers demanded (R297), the operator is idle.
Assumption 46 (DESIGN CHOICE). -/
def State.endService (s : State) (t : TileId) (st : Fin 6) : State :=
  match (s.tile t).stream with
  | none => s
  | some x =>
    match x.use, s.gate t x st with
    | .graph ctx, some P =>
      if P.serving.isSome ∧ (x.active.all fun L => x.lanes[L].elems[st].eot && x.lanes[L].elems[st].next.isEmpty) ∧
          (topStage x.img ≠ some st ∨ x.clearAbove st) then
        let x := x.active.foldl (fun x L => x.modElem L st fun e => { e with
          sot := false, eot := false, loaded := false, outs := 0, upto := 0, ends := Vector.replicate 3 false
          bareSot := Vector.replicate 3 false, bareIdx := Vector.replicate 3 0 }) x
        ((s.setStream t x).modPort ctx P.port fun p => { p with
          serving := none, init := none, bare := false, feeds := p.feeds.map fun f => { f with now := [] } }).postOnce .portServe
            { ctx, port := P.port }
      else s
    | _, _ => s

/-- Emit the tokens of a firing: the first is placed, the others follow it. -/
def State.emitToks (s : State) (t : TileId) (L : SlotId) (st : Fin 6) (plain : Bool) (ks : List Tok) : State :=
  match (s.tile t).stream, ks with
  | some x, k :: rest =>
    let s := s.setStream t ((s.placeTok t x L st plain k).modElem L st fun e => { e with next := rest })
    (if k.kind = 2 ∧ !plain then s.sendCounts t L st else s).endService t st
  | _, _ => s

/-! ## Cuttings (R299) -/

/-- The tick of the next input-A token of a lane's element. -/
def ElemSt.pos (e : ElemSt) (P : DPort) (W : Nat) : Nat := e.base.getD P.start + e.idx / W

/-- Before a stateful operator absorbs the first token of an input tick, whose output tick is `k` above it: the lane's state enters the
cutting of that tick where one is due. -/
def State.cutAt (s : State) (t : TileId) (x : Stream) (L : SlotId) (st : Fin 6) (P : DPort) (W : Nat) (k : Int) (v : BitVec 32) : State :=
  let pos := x.lanes[L].elems[st].pos P W
  let m := (pos + k).toNat
  let newest := match P.nowVa with
    | some va => match s.locate (portCtx P.port) t va { write := true, engine := true, versioned := true } with
      | .ok (.dev pa _ _) => (s.vword pa).newest.1
      | _ => 2 ^ 48
    | none => 2 ^ 48
  let fresh := x.active.all fun M => let e := x.lanes[M].elems[st]; decide (e.pos P W ≤ pos) && (e.pos P W != pos || e.idx % W == 0)
  let due := decide (0 < m ∧ m < 2 ^ 32 ∧ newest < m) && ((P.nowCad != 0 && m % P.nowCad == 0) || P.cut == some m) && fresh
  let open_ := decide (0 < m) && P.cuts.any (·.tick == m)
  if !open_ && !due then s
  else
    let cuts := if open_ then P.cuts else P.cuts ++ [{ tick := m, lanes := [], written := 0 }]
    let cuts := cuts.map fun c => if c.tick = m then { c with lanes := c.lanes ++ [(L.val, v)] } else c
    (s.modPort (portCtx P.port) P.port fun p => { p with cuts }).postOnce .cuttingWrite { ctx := (portCtx P.port), port := P.port, tile := t }

/-! ## Firing (R263, R268) -/

/-- The place of an element in a fault. -/
def State.elemFault (s : State) (t : TileId) (x : Stream) (L : SlotId) (st : Fin 6) (code : FaultCode) (addr : Nat) (ks : List (Tok × Bool)) : State :=
  let e := x.lanes[L].elems[st]
  (s.setStream t x).streamFault t code (w64 addr) st.val L.val ((s.tile t).eWord x L st).toNat (if e.swapped then 1 else 0) ks
    (·.modElem L st fun e => { e with stopped := true })

/-- The tokens of a control firing (R268, R293): `outs` under no gate, and what the operator's interval makes of it. -/
def ctlTok (kind : BitVec 3) (v : Nat) : Tok := { kind, val := BitVec.ofNat 96 v }

/-- The token an acc element drains before its EOT, or the block a qblk element fills up; the counters; the draws.
Assumption 152 (DEDUCED). -/
def State.closeSegment (s : State) (t : TileId) (w : BitVec 64) (e : ElemSt) : List Tok × List Nat × State :=
  if isAcc (eOp w) then
    let (ds, s) := s.takeDraws t (if eCidx w % 4 = 2 then 0 else eMode w) 1
    let f := accDrain (eCidx w % 4) (eFmt w) (eMode w) (ds.getD 0 0) (s.issueOf t 0) e.cell
    ([{ kind := 0, val := f.val.setWidth 96 }], f.counts, s)
  else if eOp w = 0x16 ∧ e.buf ≠ [] then
    let (ds, s) := s.takeDraws t (eMode w) 32
    let (l, cs) := blockTokens (eCidx w / 16) (eFmt w) (eMode w) e.buf ds
    (l.map fun v => { kind := 0, val := v.setWidth 96 }, cs, s)
  else ([], [], s)

/-- A control token of one kind stands at every input: consume and forward it; inside a block that a qblk element collects it leaves before
the block's output.
Assumption 151 (DESIGN CHOICE). -/
def State.fireCtl (s : State) (t : TileId) (x : Stream) (L : SlotId) (st : Fin 6) (ins : List Nat) (k : Tok) : Option State :=
  let T := s.tile t
  let w := T.eWord x L st
  let e := x.lanes[L].elems[st]
  let took := T.takeInputs L st w ins x
  let set := fun (x : Stream) (f : ElemSt → ElemSt) => s.setStream t (x.modElem L st f)
  match s.gate t x st with
  | none =>
    if k.kind = 2 then
      let (vs, cs, s) := s.closeSegment t w e
      some (((s.setStream t (took.modElem L st fun e => { e with cell := {}, buf := [] })).streamCount t L st cs).emitToks t L st false (vs ++ [k]))
    else some ((s.setStream t took).emitToks t L st false [k])
  | some P =>
    match k.kind.toNat, P.serving with
    | 1, none => some (set took fun e => { e with base := some (k.val.toNat % 2 ^ 48), idx := 0 })
    | 1, some (t0, _) =>
      let s' := set took fun e => { e with base := some (k.val.toNat % 2 ^ 48), idx := 0, sot := true }
      some (if e.sot then s' else s'.emitToks t L st false [ctlTok 1 t0])
    | 2, none => some (set took fun e => { e with base := none, idx := 0, cell := {}, buf := [] })
    | 2, some (t0, t1) =>
      if !e.sot then some ((set x fun e => { e with sot := true }).emitToks t L st false [ctlTok 1 t0])
      else
        let hi := (P.ends.findSome? id).getD 0
        let W := (xferAt (T.plane x e.swapped) w 0).w
        let final := match e.base with
          | some _ => decide (hi ≤ k.val.toNat % 2 ^ 48)
          | none => decide (hi + 1 ≤ P.start + e.idx / W)
        if !final then some (set took fun e => if e.base.isSome then { e with base := none, idx := 0 } else e)
        else if P.cuts ≠ [] then none
        else
          let (vs, cs, s) := s.closeSegment t w e
          some (((s.setStream t (took.modElem L st fun e => { e with base := none, idx := 0, cell := {}, buf := [] })).streamCount t L st cs).emitToks
            t L st false (vs.map (fun k => { k with tick := t1 }) ++ [ctlTok 2 t1]))
    | 3, none => some (s.setStream t took)
    | _, _ => some ((s.setStream t took).emitToks t L st false [k])

/-- What a data firing does with its result: the tick and whether it is emitted (R296). -/
def gateTick (P : Option DPort) (x : Xfer) (e : ElemSt) : Option Nat :=
  match P with
  | none => some 0
  | some P =>
    match P.serving with
    | none => none
    | some (t0, t1) =>
      let ot := x.tick (e.pos P x.w) (e.idx % x.w)
      if (t0 : Int) ≤ ot ∧ ot ≤ t1 then some ot.toNat else none

/-- A data token stands at every input: fire. -/
def State.fireElem (s : State) (t : TileId) (x : Stream) (L : SlotId) (st : Fin 6) (ins : List Nat) (hs : List Head) : Option State :=
  let T := s.tile t
  let w := T.eWord x L st
  let e := x.lanes[L].elems[st]
  let img := T.plane x e.swapped
  let ctx := match x.use with | .vrun i _ _ _ _ _ _ => i.ctx | .graph n => n
  let P := s.gate t x st
  let X := xferAt img w 0
  match P, P.bind (·.serving) with
  | some _, some (t0, _) =>
    if !e.sot then some ((s.setStream t (x.modElem L st fun e => { e with sot := true })).emitToks t L st false [ctlTok 1 t0])
    else go T w e img ctx P X
  | _, _ => go T w e img ctx P X
where
  go (T : Tile) (w : BitVec 64) (e : ElemSt) (img : ChainImage) (ctx : Nat) (P : Option DPort) (X : Xfer) : Option State :=
    -- the lane's state, loaded from the cutting of the service where it has not been yet (R300)
    let last := match P with
      | some p => match p.init with | some l => if e.loaded then e.last else some (l.getD L.val 0) | none => e.last
      | none => e.last
    let s := match P with
      | some p => if X.kind = 4 ∧ e.idx % X.w = 0 ∧ p.serving.isSome then s.cutAt t x L st p X.w X.off1 (last.getD 0) else s
      | none => s
    let tick := gateTick P X e
    let vals := (hs.zipIdx).map fun (h, i) => match h with
      | .tok k => k.val.setWidth 32
      | .imm v => if eIn w i = 3 ∧ constInput w ≠ some i then last.getD v else v
      | .wait => 0
    let took := (T.takeInputs L st w ins x).modElem L st fun e => { e with idx := e.idx + 1, last, loaded := true }
    let s := { s with draws := s.draws + 1 }
    if isAcc (eOp w) then
      let (c, cs) := if tick.isSome then accTake (eOp w - 0x1F) (eFmt w) e.cell (vals.getD 0 0) else (e.cell, [])
      some ((s.setStream t (took.modElem L st fun e => { e with cell := c })).streamCount t L st cs)
    else if eOp w = 0x16 then
      if tick.isNone then some (s.setStream t took)
      else
        let buf := e.buf ++ [vals.getD 0 0]
        if buf.length < 32 then some (s.setStream t (took.modElem L st fun e => { e with buf }))
        else
          let (ds, s) := s.takeDraws t (eMode w) 32
          let (l, cs) := blockTokens (eCidx w / 16) (eFmt w) (eMode w) buf ds
          some (((s.setStream t (took.modElem L st fun e => { e with buf := [], last := l.getLast? })).streamCount t L st cs).emitToks t L st false
            (l.map fun v => { kind := 0, val := v.setWidth 96, tick := tick.getD 0 }))
    else
      match s.fireData t ctx w ((assocGet img.consts (eCidx w)).getD 0) vals with
      | .error (c, va) => some (s.elemFault t x L st c va (hs.filterMap fun h => match h with | .tok k => some (k, true) | _ => none))
      | .ok (f, s) =>
        let s := (s.setStream t (took.modElem L st fun e => { e with last := some f.val })).streamCount t L st f.counts
        some (match tick with
          | some tick => s.emitToks t L st false [{ kind := 0, val := f.val.setWidth 96, bool := f.bool, tick }]
          | none => s)

/-- An interval that demands nothing of input A (R293): the tokens of its other demanded inputs are consumed without firing, and once
their segments have ended the one segment of the interval is emitted. -/
def State.fireBare (s : State) (t : TileId) (x : Stream) (L : SlotId) (st : Fin 6) (P : DPort) (t0 t1 : Nat) : Option State :=
  let T := s.tile t
  let w := T.eWord x L st
  let e := x.lanes[L].elems[st]
  let waits := (List.finRange 3).filter fun i => (P.ends.getD i.val none).isSome && !e.ends[i]
  if e.eot then none
  else if waits.isEmpty then some (s.emitToks t L st false [ctlTok 1 t0, ctlTok 2 t1])
  else waits.findSome? fun (i : Fin 3) =>
    match s.inputHead t x L st i.val with
    | .tok k =>
      let x := T.takeInput x L st w i.val
      let hi := (P.ends.getD i.val none).getD 0
      let lo := (P.starts.getD i.val none).getD 0
      let W := (xferAt (T.plane x e.swapped) w i.val).w
      let final := if e.bareSot[i] then decide (hi ≤ k.val.toNat % 2 ^ 48) else decide (hi + 1 ≤ lo + e.bareIdx[i] / W)
      some (s.setStream t (x.modElem L st fun e => match k.kind.toNat with
        | 0 => { e with bareIdx := e.bareIdx.set i (e.bareIdx[i] + 1) }
        | 1 => { e with bareSot := e.bareSot.set i true }
        | 2 => { e with ends := e.ends.set i (e.ends[i] || final), bareSot := e.bareSot.set i false }
        | _ => e))
    | _ => none

/-! ## Join control (R141) -/

/-- Whether the run over a stream buffer has read all it reads: every lane its EOT, or its count of entries (R137). -/
def State.bufferDone (s : State) (t : TileId) (x : Stream) : Bool :=
  match x.use with
  | .vrun _ _ _ _ (some vc) left _ => s.isBuffer t vc && x.active.all fun M => match left with
    | some n => decide (n ≤ x.lanes[M].srcPos)
    | none => match s.bufferTok t vc (x.lanes[M].srcPos - 1) M with
      | some k => k.kind == 2 && x.lanes[M].srcPos != 0 | none => false
  | _ => false

/-- Take, hold or reset input i as an action says. A reset of the source of a run that had read all it reads goes on with it. -/
def State.joinInput (s : State) (t : TileId) (x : Stream) (L : SlotId) (st : Fin 6) (act : BitVec 2) (i : Fin 2) : Stream :=
  let T := s.tile t
  let w := T.eWord x L st
  let b := bndAbove st
  match act.toNat with
  | 0 => T.takeInput x L st w i.val
  | 2 =>
    -- an input at its end has nothing at its head to take, but what was read behind the segment goes back (R141)
    let held := match s.inputHead t x L st i.val with | .tok _ => 1 | _ => 0
    if rKind (T.rWord x L b) = 3 then
      (T.takeInput x L st w i.val).modLane L fun l => { l with sbPos := l.sbPos.set b (s.bufferStart t (rVc (T.rWord x L b)) (l.sbPos[b] - held)) }
    else match (match x.use with | .vrun _ _ _ _ v _ _ => v | .graph _ => s.edgeVc t x.img) with
    | some v =>
      let x := (T.takeInput x L st w i.val).modLane L fun l => { l with srcPos := s.bufferStart t v (l.srcPos - held) }
      { x with sourceDone := s.bufferDone t x }
    | none => x
  | _ => x

/-- One step of a join: two keys, or a key against an input at its end, are compared and the outcome's action applied; control tokens of
an input are taken one by one. The end tick of the EOT it forwards is the greater of its inputs'.
Assumption 36 (DEDUCED).
Assumption 181 (DESIGN CHOICE).
Assumption 155 (DESIGN CHOICE). -/
def State.fireJoin (s : State) (t : TileId) (x : Stream) (L : SlotId) (st : Fin 6) : Option State :=
  let T := s.tile t
  let w := T.eWord x L st
  let e := x.lanes[L].elems[st]
  let fmt := eFmt w
  let hA := if e.ends[0] then none else some (s.inputHead t x L st 0)
  let hB := if e.ends[1] then none else some (s.inputHead t x L st 1)
  let kindOf := fun (h : Option Head) => match h with | some (.tok k) => some k.kind | _ => none
  let drop := fun (i : Nat) (f : ElemSt → ElemSt) => some (s.setStream t ((T.takeInput x L st w i).modElem L st f))
  let atEnd := fun (i : Fin 3) (k : Tok) =>
    drop i.val fun e => { e with ends := e.ends.set i true, endTick := max e.endTick (k.val.toNat % 2 ^ 48) }
  let isRot := fun (h : Option Head) => kindOf h == some 4
  match hA, hB with
  | some .wait, _ | _, some .wait => none
  | none, none =>
    -- both at their end: one EOT
    (s.fireCtl t (x.modElem L st fun e => { e with ends := Vector.replicate 3 false }) L st [] (ctlTok 2 e.endTick)).map fun s =>
      match (s.tile t).stream with
      | some x => s.setStream t (x.modElem L st fun e => { e with endTick := 0 })
      | none => s
  | some (.tok a), some (.tok b) =>
    if a.kind ≠ 0 ∧ b.kind = a.kind ∧ a.kind ≠ 2 then s.fireCtl t x L st [0, 1] a
    else if a.kind = 2 then atEnd 0 a
    else if b.kind = 2 then atEnd 1 b
    else if isRot hA then (if b.kind = 0 then orphan T w 1 [a, b] else drop 1 id)
    else if isRot hB then (if a.kind = 0 then orphan T w 0 [a, b] else drop 0 id)
    else if a.kind ≠ 0 then drop 0 id
    else if b.kind ≠ 0 then drop 1 id
    else compare T w e fmt (some a) (some b)
  | some (.tok a), none =>
    -- a ROT waits for the other input's (R281)
    if a.kind = 4 then (match s.inputHead t x L st 1 with | .tok b => if b.kind = 4 then s.fireCtl t x L st [0, 1] a else none | _ => none)
    else if a.kind = 2 then atEnd 0 a else if a.kind ≠ 0 then drop 0 id else compare T w e fmt (some a) none
  | none, some (.tok b) =>
    if b.kind = 4 then (match s.inputHead t x L st 0 with | .tok a => if a.kind = 4 then s.fireCtl t x L st [0, 1] b else none | _ => none)
    else if b.kind = 2 then atEnd 1 b else if b.kind ≠ 0 then drop 1 id else compare T w e fmt none (some b)
  | some (.tok a), some (.imm v) =>
    if a.kind = 2 then atEnd 0 a else if a.kind ≠ 0 then s.fireCtl t x L st [0] a
    else compare T w e fmt (some a) (some { kind := 0, val := v.setWidth 96 })
  | some (.imm v), some (.tok b) =>
    if b.kind = 2 then atEnd 1 b else if b.kind ≠ 0 then s.fireCtl t x L st [1] b
    else compare T w e fmt (some { kind := 0, val := v.setWidth 96 }) (some b)
  | _, _ => none
where
  orphan (T : Tile) (w : BitVec 64) (i : Nat) (ks : List Tok) : Option State :=
    let x := T.takeInput x L st w i
    let s := (s.setStream t x).streamCount t L st [14]
    some (if eStrict w then s.elemFault t ((s.tile t).stream.getD x) L st .rotOrphan 0 (ks.map fun k => (k, k.kind == 4)) else s)
  compare (T : Tile) (w : BitVec 64) (e : ElemSt) (fmt : BitVec 5) (a b : Option Tok) : Option State :=
    let key := fun (k : Tok) => (laneFields fmt (k.val.setWidth 32)).getD 0 0
    let absent : Option Tok → Bool := fun o => match o with | some k => decodeVal fmt (key k) == .fallow | none => false
    if absent a then some ((s.setStream t (T.takeInput x L st w 0)).streamCount t L st [3])
    else if absent b then some ((s.setStream t (T.takeInput x L st w 1)).streamCount t L st [3])
    else
      let va := a.map fun k => decodeVal fmt (key k)
      let vb := b.map fun k => decodeVal fmt (key k)
      let act : BitVec 6 := match va, vb with
        | some p, some q => if ltVal false p q then eLt w else if ltVal false q p then eGt w else eEq w
        | some _, none => eLt w
        | none, _ => eGt w
      let hits := match a, b with
        | some p, some q => if eDecide w && !tagInt fmt then List.replicate (refines fmt (key p) (key q)) 7 else []
        | _, _ => []
      let P := s.gate t x st
      let tick := gateTick P (xferAt (T.plane x e.swapped) w 0) e
      let apply := fun (x : Stream) (here : Bool) (act : BitVec 2) (i : Fin 2) =>
        if here then s.joinInput t x L st act i
        else if act = 2#2 then (s.joinInput t x L st act i).modElem L st fun e => { e with ends := e.ends.set i.val false (by omega) }
        else x
      let x1 := apply x a.isSome (act.extractLsb' 0 2) 0
      let x2 := apply x1 b.isSome (act.extractLsb' 2 2) 1
      let x3 := if a.isSome ∧ act.extractLsb' 0 2 = 0#2 then x2.modElem L st fun e => { e with idx := e.idx + 1 } else x2
      let out := match (act.extractLsb' 4 2).toNat with | 1 => a | 2 => b | _ => none
      let s := (s.setStream t (match out with
        | some k => x3.modElem L st fun e => { e with last := some (k.val.setWidth 32) }
        | none => x3)).streamCount t L st hits
      some (match out, tick with
        | some k, some tick => s.emitToks t L st false [{ kind := 0, val := k.val, tick }]
        | _, _ => s)

end Sys2Proof.Machine
end

