-- ==== Sys2Proof/Machine/Route.lean ====
section
/-! DEFINITION. Routing in stream mode (R138 to R140, R263, R267, R383, R384): the array's edges, its steers, merges, carries and
multicasts, the statistics network (R286, R287), and the happenings that move tokens. -/
namespace Sys2Proof.Machine
open Sys2Proof

/-! ## One element's step -/

/-- The orphans of heads that disagree (R268): the data tokens are discarded and counted; with the strict bit the element faults. -/
def State.orphans (s : State) (t : TileId) (x : Stream) (L : SlotId) (st : Fin 6) (hs : List (Head × Nat)) (rot : Bool) : State :=
  let T := s.tile t
  let w := T.eWord x L st
  let data := hs.filterMap fun (h, i) => match h with | .tok k => if k.kind = 0 then some i else none | _ => none
  let s := (s.setStream t (T.takeInputs L st w data x)).streamCount t L st (data.map fun _ => 14)
  if eStrict w then
    s.elemFault t ((s.tile t).stream.getD x) L st (if rot then .rotOrphan else .illegalField) 0
      (hs.filterMap fun (h, _) => match h with | .tok k => some (k, k.kind != 0) | _ => none)
  else s

/-- The region with shadow words that the tile of a live graph lies in. -/
def State.regionOf (s : State) (t : TileId) (x : Stream) : Option GraphRegion :=
  match x.use with | .graph ctx => (s.ctx? ctx).bind (·.regionAt t) | .vrun .. => none
/-- Whether that region rotates, or is frozen half rotated (R281, R285). -/
def State.rotates (s : State) (t : TileId) (x : Stream) : Bool := (s.regionOf t x).elim false (·.rotating)
def State.frozenAt (s : State) (t : TileId) (x : Stream) : Bool := (s.regionOf t x).elim false (·.frozen)

/-- An element moves: a token of its last firing is placed, or it fires (R263, R268, R271), with a replay where timing margin is on. -/
def State.elementStep (s : State) (t : TileId) (x : Stream) (L : SlotId) (st : Fin 6) : Option State :=
  let T := s.tile t
  let w := T.eWord x L st
  let e := x.lanes[L].elems[st]
  if !x.on L || e.stopped || e.own.isSome || e.part.isSome then none
  else if e.next ≠ [] then some (s.emitToks t L st false e.next)
  else if e.eot then none
  else if eOp w = 0 then
    match T.port1 x L (bndAbove st) with
    | none => none
    | some k =>
      let x := T.dropPort1 x L (bndAbove st)
      some ((s.setStream t (if k.kind = 5 then x.modElem L st fun e => { e with stopped := true } else x)).emitToks t L st true [k])
  else
    let hs := (List.range (opReads (eOp w))).map fun i => (s.inputHead t x L st i, i)
    let toks := hs.filterMap fun (h, i) => match h with | .tok k => some (k, i) | _ => none
    match toks.find? fun (k, _) => k.kind == 5 with
    | some (k, i) =>
      some ((s.setStream t ((T.takeInput x L st w i).modElem L st fun e => { e with stopped := true })).emitToks t L st true [k])
    | none =>
      match (s.gate t x st).bind fun P => if P.bare then P.serving.map fun (a, b) => (P, a, b) else none with
      | some (P, a, b) => s.fireBare t x L st P a b
      | none => (fires T w e hs toks).map (·.replayElem t L st)
where
  /-- what the heads of an element's inputs make it do -/
  fires (T : Tile) (w : BitVec 64) (e : ElemSt) (hs : List (Head × Nat)) (toks : List (Tok × Nat)) : Option State :=
        if !toks.isEmpty && (toks.all fun (k, _) => k.kind == 4) && s.rotates t x && !e.swapped then none
        else if eOp w = 0x22 then s.fireJoin t x L st
        else if hs.any (·.1 == .wait) then none
        else if toks.all fun (k, _) => k.kind == 0 then s.fireElem t x L st (toks.map (·.2)) (hs.map (·.1))
        else
          match toks.find? fun (k, _) => k.kind != 0 with
          | none => none
          | some (c, _) =>
            if toks.all fun (k, _) => k.kind == c.kind then s.fireCtl t x L st (toks.map (·.2)) c
            else if toks.any fun (k, _) => k.kind == 0 then some (s.orphans t x L st hs (toks.any fun (k, _) => k.kind == 4))
            else some (s.elemFault t x L st .illegalField 0 (toks.map fun (k, _) => (k, true)))

/-! ## Rotation (R281) -/

/-- Inputs of an element that arcs feed. -/
def arcInputs (w : BitVec 64) : List Nat := (List.range (opReads (eOp w))).filter fun i => constInput w != some i && [1, 2, 4].contains (eIn w i)

/-- An element that holds ROT on every input it selects swaps its planes, forwards ROT and sets its bit of the frontier (R281, step 3). -/
def State.swapElem (s : State) (t : TileId) (x : Stream) (L : SlotId) (st : Fin 6) : Option State :=
  let T := s.tile t
  let w := T.eWord x L st
  let e := x.lanes[L].elems[st]
  if !x.on L || !s.rotates t x || e.swapped || e.stopped || e.own.isSome || e.part.isSome || !e.next.isEmpty then none
  else
    let toks := (arcInputs w).map fun i => match s.inputHead t x L st i with | .tok k => if k.kind = 4 then some k else none | _ => none
    match toks with
    | some k :: rest =>
      if rest.any Option.isNone then none
      else
        let x := (T.takeInputs L st w (arcInputs w) x).modElem L st fun e => { e with swapped := true }
        let s := s.setStream t x
        let s := s.modTile t fun T => { T with frontier := T.frontier ++ [st.val * 16 + L.val] }
        some (s.emitToks t L st true [k])
    | _ => none

/-! ## Boundaries -/

/-- Whether no token is left in a lane. -/
def Lane.empty (l : Lane) : Bool :=
  l.entry.isNone && (l.elems.toList.all fun e => e.own.isNone && e.part.isNone && e.next.isEmpty) &&
  l.bnd.toList.all Option.isNone && l.bnd2.toList.all Option.isNone && l.bypass.toList.all Option.isNone

/-- A lane's tokens have left, but for what its carries have taken ahead. -/
def Stream.drained (x : Stream) (T : Tile) : Bool :=
  x.active.all fun L => ((List.finRange 7).foldl (fun (l : Lane) b => if rKind (T.rWord x L b) = 3 then
    { l with bnd := l.bnd.set b none, bnd2 := l.bnd2.set b none } else l) x.lanes[L]).empty

/-- Whether a lane's source stream buffer stands at the end of a segment, with no lane ahead of it. -/
def State.bufferAtEnd (s : State) (t : TileId) (x : Stream) (vc : SlotId) (L : SlotId) : Bool :=
  let n := x.lanes[L].srcPos
  (n == 0 || (match s.bufferTok t vc (n - 1) L with | some k => k.kind == 2 | none => true)) && x.active.all fun M => decide (x.lanes[M].srcPos ≤ n)

/-- Whether the source of a channel `vrun` stands at the end of a segment while its context is saved: it takes no further one (R146, R354). -/
def State.sourcePauses (s : State) (t : TileId) (x : Stream) (L : SlotId) : Bool :=
  match x.use with
  | .vrun iss _ _ _ (some vc) _ _ =>
    ((s.ctx? iss.ctx).map (·.saving.isSome)).getD false && (if s.isBuffer t vc then s.bufferAtEnd t x vc L else !x.inSeg)
  | _ => false

/-- The flits of a VC that a router may take: those that no steer has sent in the present clk (R383). -/
def State.standing (s : State) (t : TileId) (x : Stream) (vc : SlotId) : List Flit :=
  let q := (s.vchan t vc).q
  q.take (q.length - x.steered[vc])
/-- The flit at the head of a VC that a carry could take, or has taken in the present clk, and whether it has a token for a lane (R140, R383). -/
def State.carried (s : State) (t : TileId) (x : Stream) (w : BitVec 32) (L : SlotId) (b : Fin 7) : Bool :=
  if s.isBuffer t (rVc w) then (s.bufferTok t (rVc w) x.lanes[L].sbPos[b] L).elim false fun k => !(k.kind == 4 && s.rotates t x)
  else match x.carTook[b], s.standing t x (rVc w) with
    | some m, _ => m.getLsbD L.val
    | none, f :: _ => (x.lanesOf f).contains L && !(f.kind == 4 && s.rotates t x)
    | none, [] => false

/-- A token in the register of a boundary. -/
def Lane.put (l : Lane) (b : Fin 7) (k : Tok) : Lane := { l with bnd := l.bnd.set b (some k.moved), took6 := l.took6 || b == 6 }
/-- Whether the register of a boundary is free for a token; that of boundary 6, which its token leaves at once, for one in a clk. -/
def Lane.free (l : Lane) (b : Fin 7) : Bool := l.bnd[b].isNone && !(b == 6 && l.took6)

/-- An upstream token enters the register of a carry, or of a multicast (R140, R272).
Assumption 27 (DESIGN CHOICE). -/
def State.boundaryStep (s : State) (t : TileId) (x : Stream) (L : SlotId) (b : Fin 7) : Option State :=
  let T := s.tile t
  let w := T.rWord x L b
  let l := x.lanes[L]
  match l.above b with
  | none => none
  | some k =>
    if !x.on L then none
    else if rKind w = 3 then
      if l.bnd[b].isSome ∨ (!rSep w && s.carried t x w L b) ∨ (!rSep w && k.kind == 4 && s.rotates t x) then none
      else some (s.setStream t (x.modLane L fun l => (l.dropAbove b).put b k))
    else if rKind w = 4 then
      let targets := x.active.filter fun M => (rMask w).getLsbD M.val
      if L = rSrc w then
        let all := if targets.contains L then targets else L :: targets
        if all.any fun M => !(x.lanes[M].free b) then none
        else some (s.setStream t (all.foldl (fun x M => x.modLane M (·.put b k)) (x.modLane L (·.dropAbove b))))
      else if targets.contains L then some (s.setStream t (x.modLane L (·.dropAbove b)))
      else if !l.free b then none
      else some (s.setStream t (x.modLane L fun l => (l.dropAbove b).put b k))
    else none

/-- Whether a merge of the image names a steer's id (R383). -/
def ChainImage.paired (c : ChainImage) (id : Fin 4) : Bool := c.routers.toList.any fun w => rKind w == 2 && rTarget w == id.val

/-- One step of a steer in a lane (R138): a token enters its register with its decision; in a later clk a false token, or the copy of a control
token, leaves for the side path. The false tokens for a VC that can leave in a clk leave together, as one flit with their lanes' mask (R383). -/
def State.steerStep (s : State) (t : TileId) (x : Stream) (L : SlotId) (b : Fin 7) : Option State :=
  let T := s.tile t
  let w := T.rWord x L b
  let l := x.lanes[L]
  let id := rId w
  if !x.on L || rKind w != 1 then none
  else
    match l.bnd[b] with
    | none =>
      match l.above b with
      | none => none
      | some k =>
        let named := x.img.paired id
        if named && decide (64 ≤ l.decisions[id].length) then none
        else
          let toVc := rTarget w == 7
          let entry : Option Bool := if k.kind = 0 then some k.bool else if toVc then some true else none
          let side := if k.kind = 0 then !k.bool else !toVc
          some (s.setStream t (x.modLane L fun l =>
            { (l.dropAbove b).put b k with
              side := l.side.set b side
              decisions := if named then l.decisions.set id (l.decisions[id] ++ [entry]) else l.decisions }))
    | some k =>
      if !l.side[b] || k.rest != 0 then none
      else if rTarget w ≠ 7 then
        if l.bypass[b].isSome then none
        else some (s.setStream t (x.modLane L fun l => { l with
          bypass := l.bypass.set b (some k.moved), bypassTo := l.bypassTo.set b (rTarget w), side := l.side.set b false, bnd := if k.kind = 0 then l.bnd.set b none else l.bnd }))
      else if !s.vcRoom t (rVc w) then none
      else
        let out := x.active.filter fun M => x.lanes[M].side[b] && rKind (T.rWord x M b) == 1 && (ready x.lanes[M].bnd[b]).isSome
        let data := out.foldl (fun (d : Nat) M => d + ((x.lanes[M].bnd[b]).elim 0 fun k => k.val.toNat % 2 ^ 32) * 2 ^ (32 * M.val)) 0
        let mask := out.foldl (fun (m : Nat) M => m + 2 ^ M.val) 0
        let x := out.foldl (fun x M => x.modLane M fun l => { l with bnd := l.bnd.set b none, side := l.side.set b false }) x
        let x := { x with steered := x.steered.set (rVc w) (x.steered[rVc w] + 1) }
        some ((s.setStream t x).landFlit t (rVc w) { kind := 0, data := BitVec.ofNat 512 data, mask := BitVec.ofNat 16 mask })

/-- The flits of a merge's VC from the one a lane takes next, with its index. -/
def nextFlit (L : SlotId) : List Flit → Nat → Nat → Option (Flit × Nat)
  | [], _, _ => none
  | f :: fs, i, skip => if i < skip ∨ (f.kind = 0 ∧ !f.mask.getLsbD L.val) then nextFlit L fs (i + 1) skip else some (f, i)

/-- Drop flits every enabled lane has taken. -/
def State.trimVc (s : State) (t : TileId) (b : Fin 7) (vc : SlotId) : Nat → State
  | 0 => s
  | n + 1 =>
    match (s.tile t).stream, (s.vchan t vc).q with
    | some x, f :: _ =>
      if (x.active.all fun L => decide (0 < x.lanes[L].taken[b]) || (f.kind == 0 && !f.mask.getLsbD L.val)) then
        let x := x.active.foldl (fun x L => x.modLane L fun l => { l with taken := l.taken.set b (l.taken[b] - 1) }) x
        ((s.setStream t x).modVc t vc VChan.dropFlit).trimVc t b vc n
      else s
    | _, _ => s

/-- The second input of a merge in a lane: the bypass that ends there, or its VC; and how it is taken. A bypass that ends at a boundary without
such a merge keeps its token.
Assumption 184 (DESIGN CHOICE). -/
def State.in2 (s : State) (t : TileId) (x : Stream) (L : SlotId) (b : Fin 7) : Option (Tok × (Stream → Stream)) :=
  let T := s.tile t
  let w := T.rWord x L b
  if rIn2Vc w then
    (nextFlit L (s.standing t x (rVc w)) 0 (x.lanes[L].taken[b])).map fun (f, i) =>
      (f.tok L, fun x => x.modLane L fun l => { l with taken := l.taken.set b (i + 1) })
  else
    ((List.finRange 7).filter fun (y : Fin 7) => x.lanes[L].bypassTo[y] = b.val).findSome? fun (y : Fin 7) =>
      (ready x.lanes[L].bypass[y]).map fun k => (k, fun x => x.modLane L fun l => { l with bypass := l.bypass.set y none })

/-- A merge forwards a token: an EOT with the number of data tokens it has forwarded in the segment (R139, R268). -/
def Lane.forward (l : Lane) (b : Fin 7) (k : Tok) : Lane :=
  let n := l.merged[b]
  { l.put b (if k.kind = 2 then { k with val := BitVec.ofNat 96 (k.val.toNat % 2 ^ 48 + n % 2 ^ 32 * 2 ^ 64) } else k) with
    merged := l.merged.set b (if k.kind = 0 then n + 1 else if k.kind = 1 ∨ k.kind = 2 then 0 else n) }

/-- One step of a merge in a lane (R139): by its steer's decisions, or first come. Of two control tokens the one at the stage input goes on.
Different control tokens at its inputs are a fault (R268).
Assumption 180 (DESIGN CHOICE). -/
def State.mergeStep (s : State) (t : TileId) (x : Stream) (L : SlotId) (b : Fin 7) : Option State :=
  let T := s.tile t
  let w := T.rWord x L b
  let l := x.lanes[L]
  if !x.on L || rKind w != 2 || !l.free b || l.dead[b] then none
  else
    let a := l.above b
    let c := (s.in2 t x L b).filter fun (k, _) => !(k.kind == 1 && rIn2Vc w && s.sourcePauses t x L && x.drained T)
    let put := fun (k : Tok) (x : Stream) => x.modLane L (·.forward b k)
    let done := fun (x : Stream) => some ((s.setStream t x).trimVc t b (rVc w) (if rIn2Vc w then 64 else 0))
    let one := a.map fun k => put k (x.modLane L (·.dropAbove b))
    let two := c.map fun (k, f) => put k (f x)
    let both := match a, c with
      | some k, some (_, f) => some (put k (f (x.modLane L (·.dropAbove b))))
      | _, _ => none
    let kill := fun (x : Stream) => x.modLane L fun l => { l with dead := l.dead.set b true }
    let kindA := a.map (·.kind)
    let kindC := c.map (·.1.kind)
    if h : rTarget w < 4 then
      let id : Fin 4 := ⟨rTarget w, h⟩
      let pop := fun (x : Stream) => x.modLane L fun l => { l with decisions := l.decisions.set id (l.decisions[id].drop 1) }
      match l.decisions[id] with
      | [] => none
      | some true :: _ => one.bind (done ∘ pop)
      | some false :: _ => two.bind (done ∘ pop)
      | none :: _ =>
        match kindA, kindC with
        | some p, some q =>
          if p = 0 ∨ q = 0 then none
          else if p = q then both.bind (done ∘ pop)
          else some (s.streamFault t .illegalField 0 (6 + b.val) L.val w.toNat (if l.swapped[b] then 1 else 0)
            ((a.toList ++ (c.map (·.1)).toList).map fun k => (k, true)) kill)
        | _, _ => none
    else
      match kindA, kindC with
      | some 0#3, _ => one.bind done
      | _, some 0#3 => two.bind done
      | some p, some q =>
        if p = q then both.bind done
        else if p = 5 then one.bind done
        else if q = 5 then two.bind done
        else some (s.streamFault t .illegalField 0 (6 + b.val) L.val w.toNat (if l.swapped[b] then 1 else 0)
            ((a.toList ++ (c.map (·.1)).toList).map fun k => (k, true)) kill)
      | _, _ => none

/-- The read of a stream buffer's data flit meets an uncorrectable error (R19): a fault of the boundary that reads it for its lane, which
takes no further token there.
Assumption 167 (DEDUCED). -/
def State.bufferFault (s : State) (t : TileId) (x : Stream) (L : SlotId) (b : Fin 7) (vc : SlotId) (pos : Nat) : State :=
  let addr := (s.vcChan t vc).elim 0 fun (_, _, ch) => Config.ownSpBase + ch.lanePlace pos L
  s.streamFault t .ecc (w64 addr) (6 + b.val) L.val ((s.tile t).rWord x L b).toNat (if x.lanes[L].swapped[b] then 1 else 0) []
    fun x => x.modLane L fun l => { l with dead := l.dead.set b true }

/-- A carry takes the flit at the head of its VC (R140, R383): one in a clk, sent before it, in one step, once every lane of its mask has room; a
ROT of a rotation together with the upstream ROT of every lane (R281). From a stream buffer each lane reads by itself.
Assumption 28 (DEDUCED).
Assumption 37 (DEDUCED). -/
def State.carryStep (s : State) (t : TileId) (x : Stream) (L : SlotId) (b : Fin 7) : Option State :=
  let T := s.tile t
  let w := T.rWord x L b
  if rKind w ≠ 3 then none
  else
    let full := fun (M : SlotId) => if rSep w then (x.lanes[M].bnd2[b]).isSome else (x.lanes[M].bnd[b]).isSome
    let put := fun (k : Tok) (l : Lane) => if rSep w then { l with bnd2 := l.bnd2.set b (some k.moved) } else l.put b k
    if s.isBuffer t (rVc w) then
      match s.bufferTok t (rVc w) x.lanes[L].sbPos[b] L with
      | some k =>
        let joint := k.kind == 4 && s.rotates t x && !rSep w
        if !x.on L || full L || x.lanes[L].dead[b] || (joint && (x.lanes[L].above b).elim true (·.kind != 4)) then none
        else if s.eccError && k.kind == 0 then some (s.bufferFault t x L b (rVc w) x.lanes[L].sbPos[b])
        else some (s.setStream t (x.modLane L fun l =>
          let l := put k (if joint then l.dropAbove b else l)
          { l with sbPos := l.sbPos.set b (l.sbPos[b] + 1) }))
      | none => none
    else
      match x.carTook[b], s.standing t x (rVc w) with
      | some _, _ | none, [] => none
      | none, f :: _ =>
        let across := x.lanesOf f
        let x := { x with carTook := x.carTook.set b (some (if f.kind = 0 then f.mask else 0xFFFF)) }
        if across.any full || (f.kind == 1 && s.sourcePauses t x L && x.drained T) then none
        else if f.kind = 4 ∧ s.rotates t x ∧ !rSep w then
          if across.all fun M => match x.lanes[M].above b with | some k => k.kind == 4 | none => false then
            some ((s.setStream t (across.foldl (fun x M => x.modLane M fun l => put (f.tok M) (l.dropAbove b)) x)).modVc t (rVc w) VChan.dropFlit)
          else none
        else some ((s.setStream t (across.foldl (fun x M => x.modLane M (put (f.tok M))) x)).modVc t (rVc w) VChan.dropFlit)

/-! ## The input edge -/

/-- A wave enters the lanes it has tokens for, each token into the slot at boundary 0 in this same step (R137, R384): none where a lane's slot
takes none. A token that stops its element by a fault waits at it (R285). -/
def State.enterWave (s : State) (t : TileId) (tok : SlotId → Tok) : List SlotId → Option State
  | [] => some s
  | L :: Ls =>
    match (s.tile t).stream with
    | none => some s
    | some x =>
      let x := x.modLane L fun l => { l with entry := some (tok L), fed := true, srcPos := l.srcPos + 1 }
      match (if rKind ((s.tile t).rWord x L 0) = 0 then (s.setStream t x).elementStep t x L 0 else (s.setStream t x).boundaryStep t x L 0) with
      | none => none
      | some s' => if (s'.tile t).stream.any fun y => (y.lanes[L].entry).isSome && !y.lanes[L].elems[0].stopped then none else s'.enterWave t tok Ls
/-- Whether boundary 0 may take a wave in the present clk. -/
def Stream.takesWave (x : Stream) : Bool := x.active.all fun L => !x.lanes[L].fed && (x.lanes[L].entry).isNone

/-- A lane reads its next entry of a stream buffer. -/
def State.bufferStep (s : State) (t : TileId) (x : Stream) (L : SlotId) (vc : SlotId) : Option State :=
  match s.bufferTok t vc x.lanes[L].srcPos L with
  | none => none
  | some k =>
    if !x.on L || x.lanes[L].fed || (x.lanes[L].entry).isSome || x.lanes[L].dead[0] then none
    else if s.eccError && k.kind == 0 then some (s.bufferFault t x L 0 vc x.lanes[L].srcPos)
    else (s.enterWave t (fun _ => k) [L]).map fun s =>
      match (s.tile t).stream with
      | some y => s.setStream t { y with sourceDone := s.bufferDone t y }
      | none => s

/-- Boundary 0 takes a wave (R137, R265), one in a clk (R384): a register of the block, or the flit at the head of the source VC; `until EOT`
ends at an EOT, and a BLIGHT ends the source.
Assumption 25 (DESIGN CHOICE).
Assumption 26 (DEDUCED). -/
def State.sourceStep (s : State) (t : TileId) (x : Stream) (L : SlotId) : Option State :=
  let src := match x.use with | .vrun _ _ _ _ v _ _ => v | .graph _ => s.edgeVc t x.img
  if x.sourceDone || s.sourcePauses t x L then none
  else
    match src with
    | some vc =>
      if s.isBuffer t vc then s.bufferStep t x L vc
      else if !x.takesWave then none
      else
        match (s.vchan t vc).q with
        | [] => none
        | f :: _ => (s.enterWave t f.tok (x.lanesOf f)).map fun s => (upd s (taken f)).modVc t vc VChan.dropFlit
    | none =>
      if !x.takesWave then none
      else
        match x.use, x.rotIn with
        | .vrun _ [] _ _ _ _ _, _ => some (s.setStream t { x with sourceDone := true })
        | .vrun iss (d :: rest) dst dvc _ left tag, _ =>
          (s.enterWave t ({ kind := 0, data := d } : Flit).tok x.active).map fun s =>
            upd s fun y => { y with use := .vrun iss rest dst dvc none left tag, sourceDone := rest.isEmpty }
        | .graph _, some n =>
          (s.enterWave t (fun _ => { kind := 4, val := n.setWidth 96 }) x.active).map fun s => upd s fun y => { y with rotIn := none }
        | .graph _, none => none
where
  upd (s : State) (f : Stream → Stream) : State := match (s.tile t).stream with | some y => s.setStream t (f y) | none => s
  taken (f : Flit) (y : Stream) : Stream :=
    match y.use with
    | .vrun iss waves dst dvc srcVc left tag => { y with
        use := .vrun iss waves dst dvc srcVc (left.map (· - 1)) tag, inSeg := f.kind != 2
        sourceDone := f.kind == 5 || (match left with | none => f.kind == 2 | some n => decide (n ≤ 1)) }
    | .graph _ => y

/-! ## Statistics (R286, R287) -/

/-- The statistics record of the root: words 1 to 8, then word 0, each a `stv` of version k issued by the root's tile. -/
def State.statRecord (s : State) (ctx : Nat) (t : TileId) (va : Nat) (sum : Vector (BitVec 32) 16) (final : Bool) : State :=
  match s.ctx? ctx with
  | none => s
  | some c =>
    let k := c.statK + 1
    let s := s.modCtx ctx fun c => { c with statK := k }
    let iss : Issue := { ctx, tile := t, slot := 0, pc := 0, job := c.graphJob, epoch := 0, x := Vector.replicate 32 0, auto := true, engine := 7 }
    let words := ((List.finRange 8).map fun i => (va + 8 * (i.val + 1), sum[2 * i.val]'(by omega) ++ sum[2 * i.val + 1]'(by omega)))
    let words := words.map fun (a, (w : BitVec 64)) => (a, (w >>> 32) ||| (w <<< 32))
    (words ++ [(va, w64 (k % 2 ^ 32 + if final then 2 ^ 32 else 0))]).foldl (fun s (a, w) =>
      match s.tryLocate iss (.stv k w) [{ va := a, len := 8 }] true with
      | .ok locs =>
        let id := (s.tile t).nextAcc
        (s.modTile t fun T => { T with
          accesses := T.accesses ++ [{ id, iss, olog := none, kind := .stv k w, pieces := [{ va := a, len := 8 }], locs := locs.getD [], parked := false }]
          nextAcc := id + 1 }).post .stvHomeWrite { tile := t, id }
      | .error (c, a) => s.engineFails iss c (w64 a) 7 true) s

/-- The adder node of a tile at an EOT its tile forwards: its sum goes to the parent's node, or into the record at the root, and clears. -/
def State.statForward (s : State) (ctx : Nat) (t : TileId) (word : BitVec 32) (final : Bool) : State :=
  if !word.getLsbD 31 then s
  else
    let sum := (s.tile t).statSum
    let s := s.modTile t fun T => { T with statSum := Vector.replicate 16 0 }
    if word.getLsbD 30 then
      match (s.ctx? ctx).bind (fun c => c.liveSlot.bind c.graph?) with
      | some G => if G.statrec = 0 then s else s.statRecord ctx t G.statrec sum final
      | none => s
    else
      let p : TileId := ⟨(word.extractLsb' 20 10).toNat, (word.extractLsb' 20 10).isLt⟩
      s.modTile p fun T => { T with statSum := addCounts T.statSum fun i => sum[i].toNat }

/-! ## The output edge -/

/-- A data token leaves boundary 6 in a lane of a run into registers (R137, R384): into its lane of the destination block. -/
def State.exitStep (s : State) (t : TileId) (x : Stream) (L : SlotId) : Option State :=
  let T := s.tile t
  match x.use, T.port1 x L 6 with
  | .vrun iss _ dst none _ _ _, some k =>
    if !x.on L || x.frozen || k.kind != 0 then none
    else
      let n := x.lanes[L].left
      let s := s.setStream t ((T.dropPort1 x L 6).modLane L fun l => { l with left := n + 1 })
      some (match dst[n]? with
        | some r =>
          let v := T.vreg r
          let d := (v.data &&& ~~~((0xFFFFFFFF : Wave) <<< (32 * L.val))) ||| ((k.val.setWidth 32).setWidth 512 <<< (32 * L.val))
          s.modTile t (·.setV r { v with data := d })
        | none => s.setStat iss 17)
  | _, _ => none

/-- The channels that leave boundary 6 of a tile in the live graph, with their indexes; one whose consumer tile is not the context's
leads nowhere.
Assumption 40 (DESIGN CHOICE). -/
def State.edgeChans (s : State) (ctx : Nat) (t : TileId) : List (Nat × Chan) :=
  match s.ctx? ctx with
  | none => []
  | some c => (c.liveChans.zipIdx.filter fun (ch, _) => isEdge ch.desc && srcTile ch.desc == t && (s.tile (chanDstt ch.desc)).owner == some ctx).map fun (ch, j) => (j, ch)

/-- The lanes' tokens at boundary 6 form one flit (R267); lanes that deliver unequal numbers leave it waiting.
Assumption 156 (DESIGN CHOICE). -/
def Tile.pack (T : Tile) (x : Stream) : Option (Except Unit (Tok × Flit)) :=
  let outs := x.active.map fun L => (L, T.port1 x L 6)
  if outs.any (·.2.isNone) then none
  else
    match outs with
    | (_, some k) :: _ =>
      let ks := outs.filterMap (·.2)
      if ks.any (fun q => q.kind != k.kind) || (k.kind != 0 && ks.any fun q => q.val != k.val) then some (.error ())
      else if k.kind = 0 then
        let data := outs.foldl (fun (d : Nat) (L, q) => d + (q.elim 0 fun k => k.val.toNat % 2 ^ 32) * 2 ^ (32 * L.val)) 0
        some (.ok (k, { kind := 0, data := BitVec.ofNat 512 data }))
      else some (.ok (k, { kind := k.kind, data := k.val.setWidth 512 }))
    | _ => none

/-- What a channel that leaves boundary 6 receives of a flit of the operator that serves from t0 on (R297): a data flit whose tick its feed
has demanded; SOT and EOT bounding those ticks, with its own count; nothing of a segment where it has demanded none. -/
def edgeFlit (feeds : List Feed) (t0 : Nat) (sink : PortId) (sent : Nat) (k : Tok) (f : Flit) : Option Flit :=
  let q : Feed := (feeds.find? fun q => q.dest == sink && !q.part).getD { dest := sink, part := false }
  match k.kind.toNat, q.now.head?, q.now.getLast? with
  | 0, _, _ => if q.takes t0 k then some f else none
  | 1, some (a, _), _ => some (sotFlit a)
  | 1, none, _ => none
  | 2, _, some (_, b) => some (eotFlit b sent)
  | 2, _, none => none
  | 3, none, _ => none
  | _, _, _ => some f

/-- The control tokens that wait at boundary 6 of a run into registers (R137, R267): none while a lane may still bring one; whether they agree. -/
def Tile.meet (T : Tile) (x : Stream) : Option Bool :=
  let outs := x.active.map fun L => T.port1 x L 6
  let late := fun (L : SlotId) => match T.port1 x L 6 with | some k => k.kind == 0 | none => !(x.sourceDone && x.lanes[L].empty)
  if outs.all Option.isNone || x.active.any late then none
  else some (outs.all fun o => match o, outs.headD none with | some a, some b => a.kind == b.kind && a.val == b.val | _, _ => false)

/-- The flit that the lanes' tokens at boundary 6 form leaves, and the tokens with it (R236, R265, R276, R286): to the destination
VC of a `vrun`; in a graph to every channel of boundary 6, each
accepting it once it has room; the next flit waits until all have. Lanes that disagree are a fault of boundary 6. -/
def State.packStep (s : State) (t : TileId) (x : Stream) : Option State :=
  let T := s.tile t
  let out := fun (L : SlotId) => T.port1 x L 6
  let clear := fun (x : Stream) => x.active.foldl (fun x L => if (out L).isSome then T.dropPort1 x L 6 else x) x
  let swapped := x.active.any fun L => x.lanes[L].swapped[6]
  let disagree := s.streamFault t .illegalField 0 12 0xFF ((T.plane x swapped).routers[6]).toNat (if swapped then 1 else 0)
    (((x.active.filterMap out).take 2).map fun k => (k, true)) fun x => { x with frozen := true }
  if x.frozen then none
  else if let .vrun _ _ _ none srcVc _ _ := x.use then
    match T.meet x with
    | none => none
    | some false => some disagree
    | some true =>
      let s' := s.setStream t (clear x)
      some (if srcVc.isSome && x.active.any (fun L => (out L).any (·.kind == 2)) then s'.flushCounts t else s')
  else
    match T.pack x with
    | none => none
    | some (.error _) => some disagree
    | some (.ok (k, f)) =>
      match x.use with
      | .vrun _ _ _ dvc srcVc _ _ =>
        match dvc with
        | none => none
        | some vc =>
          if !s.vcRoom t vc then none
          else
            let s := s.setStream t (clear x)
            let s := if k.kind = 2 ∧ srcVc.isSome then s.flushCounts t else s
            some (s.sendVc t vc f)
      | .graph ctx =>
        let outs := s.edgeChans ctx t
        let g := ((s.ctx? ctx).bind (·.liveSlot)).getD 0
        let oper := (topStage x.img).map fun st => s.port ctx (.oper ctx g t st)
        let sentOf := fun (j : Nat) => (assocGet x.sent j).getD 0
        let takes := fun (j : Nat) => match oper with
          | some P => edgeFlit P.feeds (P.serving.getD (0, 0)).1 (.sink ctx g j) (sentOf j) k f
          | none => some f
        let flits := outs.filterMap fun (j, ch) => (takes j).map fun f => (j, ch, f)
        let inside := fun (ch : Chan) => (s.regionOf t x).elim false fun e => inBed e.bed (chanDstt ch.desc).val
        -- a ROT is absorbed at the region's outputs (R281)
        let flits := if f.kind = 4 then flits.filter fun (_, ch, _) => inside ch else flits
        let due := flits.filter fun (j, _, _) => !x.took.contains j
        let (ready, held) := due.partition fun (_, ch, _) => s.vcFree (chanDstt ch.desc) (chanVc ch.desc)
        let hold := fun (s : State) => held.foldl (fun s (_, ch, _) => match branchOf outs ch with
          | some i => (s.leadBranch t i (chanDstt ch.desc) (chanVc ch.desc)).holdBranch t i | none => s) s
        let all := held.isEmpty
        if !all && ready.isEmpty then
          if held.all (fun (_, ch, _) => match branchOf outs ch with | some i => (s.tile t).holds[i].isSome | none => true) then none else some (hold s)
        else
          let sent := ready.foldl (fun m (j, _, _) =>
            assocSet m j (if k.kind = 0 then sentOf j + 1 else if k.kind = 1 ∨ k.kind = 2 then 0 else sentOf j)) x.sent
          let x' := if all then { clear x with sent := sent, took := [] } else { x with sent := sent, took := x.took ++ ready.map (·.1) }
          let s := hold (s.setStream t x')
          let s := ready.foldl (fun s (_, ch, f) =>
            match branchOf outs ch with
            | some i => (s.leadBranch t i (chanDstt ch.desc) (chanVc ch.desc)).sendOne (chanDstt ch.desc) (chanVc ch.desc) { f with branch := some (t, i) }
            | none => s.sendOne (chanDstt ch.desc) (chanVc ch.desc) f) s
          let s := if all && k.kind = 2 then s.statForward ctx t x.img.stat false else s
          some (match topStage x.img with | some st => if all then s.endService t st else s | none => s)
where
  /-- the branch a channel of a multicast group is (R237, R276) -/
  branchOf (outs : List (Nat × Chan)) (ch : Chan) : Option (Fin 4) :=
    if chanGroup ch.desc = 0 then none
    else
      ((outs.filter fun q => chanGroup q.2.desc == chanGroup ch.desc).findIdx? fun q => q.2.desc == ch.desc).bind fun i =>
        if h : i < 4 then some ⟨i, h⟩ else none

/-! ## Happenings -/

/-- A move of a kind: at a place of a tile's array, a unit of a lane. -/
abbrev StreamMove := State → TileId → Stream → SlotId → Nat → Option State
/-- Do one move of a kind, at the first place where one is possible. -/
def firstMove (units : List Nat) (move : StreamMove) (s : State) (t : TileId) (x : Stream) : Option State :=
  (units.flatMap fun u => (List.finRange 16).map fun L => (u, L)).findSome? fun (u, L) => move s t x L u

/-- ELEMENT_FIRE (R263, R384). Units 0 to 5 are the stages; 6 to 12 the entry of a token into the register of boundary 0 to 6; 13 the
input edge; 14 the output edge of a lane; 15 the packing of a flit at boundary 6. -/
def State.fireStep (s : State) (t : TileId) (x : Stream) (L : SlotId) (u : Nat) : Option State :=
  if h : u < 6 then s.elementStep t x L ⟨u, h⟩
  else if h : u < 13 then s.boundaryStep t x L ⟨u - 6, by omega⟩
  else if u = 13 then s.sourceStep t x L
  else if u = 14 then s.exitStep t x L
  else s.packStep t x
def fireUnits : List Nat := [15, 14, 12, 5, 11, 4, 10, 3, 9, 2, 8, 1, 7, 0, 6, 13]
/-- A move of the router of boundary `u`. -/
def atRouter (f : State → TileId → Stream → SlotId → Fin 7 → Option State) : StreamMove :=
  fun s t x L u => if h : u < 7 then f s t x L ⟨u, h⟩ else none
/-- The swap of the element of stage `u` (R281). -/
def atElem : StreamMove := fun s t x L u => if h : u < 6 then s.swapElem t x L ⟨u, h⟩ else none

/-- Whether a token, a flit or a wave can still move in the present clk. -/
def State.anyMove (s : State) (t : TileId) (x : Stream) : Bool :=
  (firstMove fireUnits State.fireStep s t x).isSome || (firstMove (List.range 7) (atRouter State.steerStep) s t x).isSome ||
  (firstMove (List.range 7) (atRouter State.mergeStep) s t x).isSome || (firstMove (List.range 7) (atRouter State.carryStep) s t x).isSome ||
  (s.rotates t x && (firstMove (List.range 6) atElem s t x).isSome)

/-- The tokens of an array, each changed. -/
def Lane.mapToks (l : Lane) (f : Tok → Tok) : Lane := { l with
  elems := l.elems.map fun e => { e with own := e.own.map f, part := e.part.map f }
  bnd := l.bnd.map (·.map f), bnd2 := l.bnd2.map (·.map f), bypass := l.bypass.map (·.map f) }
/-- The next clk of an array begins, or with `n` the n-th: what has moved stands in its slot (R384). -/
def Stream.nextClk (x : Stream) (n : Nat := 1) : Stream := { x with
  lanes := x.lanes.map fun l => { l.mapToks fun k => { k with rest := k.rest - n } with fed := false, took6 := false }
  steered := Vector.replicate 16 0, carTook := Vector.replicate 7 none }
/-- Whether something of an array has moved in the present clk, or has still to stay in its slot. -/
def Stream.marked (x : Stream) : Bool :=
  x.steered.toList.any (· != 0) || x.carTook.toList.any Option.isSome || x.lanes.toList.any fun l =>
    let rests := fun (o : Option Tok) => o.any (·.rest != 0)
    l.fed || l.took6 || l.elems.toList.any (fun e => rests e.own || rests e.part) || l.bnd.toList.any rests || l.bnd2.toList.any rests ||
      l.bypass.toList.any rests

/-- Do a move in the present clk; or, where nothing of the array can move in it any more, in the next one, `n` at most (R384). -/
def State.moveIn (s : State) (t : TileId) (move : State → Stream → Option State) : Nat → Stream → Option State
  | 0, x => move s x
  | n + 1, x =>
    match move s x with
    | some s' => some s'
    | none => if !x.marked || s.anyMove t x then none else (s.setStream t x.nextClk).moveIn t move n x.nextClk

/-- A happening of a stream: at the place the focus names (a unit below 16), or, for one the device still owes, at the first place where
a token can move; the owed one stays owed while the stream runs. In a frozen region nothing moves (R285). -/
def streamHappening (i : Instr) (units : List Nat) (move : StreamMove) (s : State) : Out :=
  happening i (fun s =>
    let t := s.focus.tile
    match s.here.stream with
    | none => some s
    | some x =>
      if s.frozenAt t x then none
      else if s.focus.unit < 16 then s.moveIn t (fun s x => move s t x s.focus.lane s.focus.unit) 6 x
      else (s.moveIn t (fun s x => firstMove units move s t x) 6 x).map fun s' => s'.postOnce i { tile := t, unit := 255 }) s

def execElementFire (s : State) : Out := streamHappening .elementFire fireUnits State.fireStep s

/-- STEER_ROUTE (R138): the steer of boundary `unit` moves a token in lane `lane`. -/
def execSteerRoute (s : State) : Out := streamHappening .steerRoute (List.range 7) (atRouter State.steerStep) s

/-- MERGE_TAKE (R139): the merge of boundary `unit` takes a token in lane `lane`. -/
def execMergeTake (s : State) : Out := streamHappening .mergeTake (List.range 7) (atRouter State.mergeStep) s

/-- CARRY_TAKE (R140): the carry of boundary `unit` takes the flit at the head of its VC. -/
def execCarryTake (s : State) : Out := streamHappening .carryTake (List.range 7) (atRouter State.carryStep) s

/-- The VCs of a loop inside the array (R383): a steer of the image sends to them and a carry of it takes from them. -/
def ChainImage.loops (c : ChainImage) : List SlotId :=
  c.routers.toList.filterMap fun w =>
    if rKind w = 1 ∧ rTarget w = 7 ∧ (c.routers.toList.any fun v => rKind v == 3 && rVc v == rVc w) then some (rVc w) else none

/-- A register of a run's destination as the run's end leaves it: its tag, and a side word of 0 for every format but Q4 (R95). -/
def VReg.tagged (v : VReg) (tag : BitVec 5) : VReg := { v with tag, side := if tag = 6 then v.side else 0 }

/-- Whether a save may write the image with a `vrun` on a tile (R146, R354): it is fed from a channel and has reached its segment's end. -/
def State.vrunSettled (s : State) (t : TileId) : Bool :=
  match (s.tile t).stream with
  | some x => match x.use with
    | .vrun _ _ _ _ none _ _ => false
    | .vrun .. => !x.sourceDone && x.active.all (s.sourcePauses t x) && x.drained (s.tile t)
    | .graph _ => true
  | none => true

/-- VRUN_END (R137): the last token has left boundary 6. The counts are added, dst takes its tag, and the array is free.
Assumption 157 (DEDUCED). -/
def execVrunEnd (s : State) : Out :=
  happening .vrunEnd (fun s =>
    let t := s.focus.tile
    match s.here.stream with
    | none => some s
    | some x =>
      match x.use with
      | .graph _ => some s
      | .vrun _ _ dst _ _ _ tag =>
        if x.sourceDone && (x.active.all fun L => x.lanes[L].empty) && (x.img.loops.all fun v => (s.vchan t v).q.isEmpty) then
          let s := (s.flushCounts t).modTile t fun T => dst.foldl (fun T r => T.setV r ((T.vreg r).tagged tag)) T
          some (offerAll (s.endStream t) t)
        else none) s
where
  /-- the slots whose VCs the run had taken may start again -/
  offerAll (s : State) (t : TileId) : State := (List.finRange 16).foldl (fun s v => if (s.vchan t v).q.isEmpty then s else s.offerStart t v) s

end Sys2Proof.Machine
end

