-- ==== Sys2Proof/Machine/Copy.lean ====
section
/-! DEFINITION. Copies and multicasts (R226 to R237): `cpy`, `cpym`, `mcst`, templated copies, and what the copy channels do. -/
namespace Sys2Proof.Machine
open Sys2Proof

/-! ## Operands -/

def copyLen (c : Cmd) (iss : Issue) : Nat := iss.xOrImm c.s3 0
def copySrc (c : Cmd) (iss : Issue) : Nat := (iss.getX (slotX c.s2)).toNat

/-- The x registers a versioned reply reads beside its slot (R228). -/
def replyRegs (s : BitVec 16) : List XReg := if isX s then [slotX s + 1] else []
/-- The reply a reply slot names (R228). -/
def replyOf (iss : Issue) (s : BitVec 16) : Reply :=
  if isVc s then .vc iss.tile (slotN s)
  else if isX s then .ver (iss.getX (slotX s)).toNat ((iss.getX (slotX s + 1)).toNat % 2 ^ 32)
  else .none
/-- Check a reply as its command issues, and reserve its version (R228). -/
def State.openReply (s : State) (iss : Issue) (r : Reply) : Except Stop State :=
  match r with | .ver va v => s.reserveReply iss va v | _ => .ok s

/-- A range wholly in scratchpads (R229); a range of no bytes still names its address.
Assumption 141 (DEDUCED). -/
def inSpad (va n : Nat) : Bool :=
  (decide (Config.spBase ≤ va) && decide (va + max n 1 ≤ Config.spEnd)) ||
    (decide (Config.ownSpBase ≤ va) && decide (va + max n 1 ≤ Config.vaEnd))

/-- The tile and VC a copy channel is bound to, for a delivery the context issues (R226). -/
def State.delivery (s : State) (iss : Issue) (n : Fin 64) : Except Stop (TileId × SlotId) :=
  match s.dies[dieOf iss.tile].ch[n].bind with
  | none => .error (trapWith .protect)
  | some (t, vc) => if (s.tile t).owner = some iss.ctx then .ok (t, vc) else .error (trapWith .protect)

/-- The checks of R230 on a list of rows; `chan` for a channel destination. -/
def checkRows (rows : List CopyRow) (chan spadOnly : Bool) : Except Stop Unit := do
  let meets := fun (r q : CopyRow) => decide (r.src < q.dst + q.len) && decide (q.dst < r.src + r.len) && r.len != 0 && q.len != 0
  need (chan || !rows.any fun r => rows.any (meets r)) .illegalField
  need (!chan || rows.all fun r => r.len % 64 == 0) .illegalField
  match if chan then rows.find? (fun r => r.src % 4 != 0) else none with
  | some r => .error (.trap .misaligned (w64 r.src) 0)
  | none =>
    match if spadOnly then rows.find? (fun r => !inSpad r.src r.len || !(chan || inSpad r.dst r.len)) else none with
    | some r => .error (.trap .protect (w64 (if inSpad r.src r.len then r.dst else r.src)) 0)
    | none => .ok ()

/-! ## cpy (R230) -/

/-- The one row of a `cpy`. -/
def cpyRow (c : Cmd) (iss : Issue) : CopyRow :=
  { src := copySrc c iss, dst := if isX c.s1 then (iss.getX (slotX c.s1)).toNat else 0, len := copyLen c iss }
/-- The channel of a `cpy`. -/
def cpyChan (c : Cmd) : Fin 64 := slotCc (if isX c.s1 then c.s4 else c.s1)

def chkCpy (c : Cmd) (iss : Issue) (s : State) : Except Stop Unit := do
  if !isX c.s1 then let _ ← s.delivery iss (cpyChan c)
  need (decide (copyLen c iss ≤ 2 ^ 32)) .illegalField
  checkRows [cpyRow c iss] (!isX c.s1) (c.hint == 5)
  let _ ← s.openReply iss (replyOf iss c.s5)

/-- A copy enters its channel, and owes its first happening. -/
def State.startCopy (s : State) (n : Fin 64) (k : Copy) : State :=
  let k := { k with id := s.nextCopy, rows := k.rows.filter (·.len != 0) }
  (s.addCopy (dieOf k.iss.tile) n k).offerCopy k

def effCpy (c : Cmd) (iss : Issue) (s : State) : Except Stop State := do
  let s ← s.openReply iss (replyOf iss c.s5)
  .ok (s.startCopy (cpyChan c) {
    id := 0, iss, dst := if isX c.s1 then .mem else .chan, rows := [cpyRow c iss], count := 0, reply := replyOf iss c.s5 })
/-- `cpy [xd], [xs], len, ccN` and `cpy ccN, [xs], len`. -/
def execCpy (c : Cmd) (s : State) : Out := issueCommand (.cpy c) c (replyRegs c.s5) (chkCpy c) (effCpy c) s

/-! ## cpym (R233) -/

/-- The channel operands of a command. -/
def ccSlots (c : Cmd) : List (BitVec 16) := [c.s1, c.s2, c.s3, c.s4, c.s5].filter isCc
/-- Class 0x4 `mls`, `mst`, `msc`, `mnm` or `mint.dot`. -/
def mayFollow (w : Cmd128) : Bool :=
  w.extractLsb' 122 6 == 0x3F#6 && w.extractLsb' 118 4 == 4#4 && [0, 2, 3, 4, 5].contains (w.extractLsb' 110 8).toNat
/-- The x registers and predicates of the follow-on, read when the `cpym` issues (R72, R233). -/
def followRegs (w : Cmd128) : List XReg :=
  let c := cmdFields w
  (slotRegs [c.s1, c.s2, c.s3, c.s4, c.s5]).1

/-- The checks of `cpym`. -/
def chkCpym (c : Cmd) (w : Cmd128) (iss : Issue) (s : State) : Except Stop Unit := do
  let (t, vc) ← s.delivery iss (slotCc c.s1)
  need (t == iss.tile) .protect
  need (mayFollow w) .illegalOp
  let f := cmdFields w
  need (f.ga == 0 && f.gb == 0 && f.comb == 0) .illegalField
  need ((ccSlots f).any fun q => slotCc q == slotCc c.s1) .illegalField
  let len := copyLen c iss
  need (len != 0 && len % 64 == 0 && decide (len ≤ 64 * s.vcDepth t vc)) .illegalField
  checkRows [cpyRow c iss] true (c.hint == 5)
  let _ ← s.openReply iss (replyOf iss c.s5)
def effCpym (c : Cmd) (w : Cmd128) (iss : Issue) (s : State) : Except Stop State := do
  let s ← s.openReply iss (replyOf iss c.s5)
  .ok (s.startCopy (slotCc c.s1) {
    id := 0, iss, dst := .chan, rows := [cpyRow c iss], count := 0, reply := replyOf iss c.s5, follow := some w })
/-- `cpym ccN, [xs], len` with its follow-on. -/
def execCpym (c : Cmd) (w : Cmd128) (s : State) : Out :=
  issueCommand (.cpym c w) c (replyRegs c.s5 ++ followRegs w) (chkCpym c w) (effCpym c w) s

/-! ## mcst (R235) -/

/-- Entry k of a branch list. -/
def branchWord (x : Word) (k : Nat) : BitVec 16 := x.extractLsb' (16 * k) 16
/-- The valid branches of a branch list. -/
def mcstBranches (x : Word) : List (Fin 4 × TileId × SlotId) :=
  (List.finRange 4).filterMap fun k =>
    let b := branchWord x k.val
    if b.getLsbD 15 then
      some (k, ⟨(b.extractLsb' 5 10).toNat, (b.extractLsb' 5 10).isLt⟩, ⟨(b.extractLsb' 0 4).toNat, (b.extractLsb' 0 4).isLt⟩)
    else none

/-- Whether a graph replication is live at a tile's switch box (R276). -/
def State.replicates (s : State) (t : TileId) : Bool :=
  match s.tileCtx t with
  | none => false
  | some c => c.liveChans.any fun ch => chanBox ch.desc == some t && chanGroup ch.desc != 0

def chkMcst (c : Cmd) (iss : Issue) (s : State) : Except Stop Unit := do
  let xl := iss.getX (slotX c.s1)
  let bs := mcstBranches xl
  need (!bs.isEmpty) .illegalField
  need (decide ((bs.map (·.2)).eraseDups.length = bs.length)) .illegalField
  need ((List.range 4).all fun k => !(branchWord xl k).getLsbD 4) .illegalField
  need (bs.all fun (_, t, _) => (s.tile t).owner == some iss.ctx) .protect
  need (decide (copyLen c iss ≤ 2 ^ 32)) .illegalField
  checkRows [{ cpyRow c iss with dst := 0 }] true (c.hint == 5)
  let _ ← s.openReply iss (replyOf iss c.s5)
  if (s.tile iss.tile).mcst.isSome || s.replicates iss.tile then .error (.block .engineBusy) else .ok ()
def effMcst (c : Cmd) (iss : Issue) (s : State) : Except Stop State := do
  if (s.tile iss.tile).mcst.isSome || s.replicates iss.tile then .error (.block .engineBusy)
  else
    let s ← s.openReply iss (replyOf iss c.s5)
    let s := s.modTile iss.tile fun T => { T with mcst := some { copy := s.nextCopy, branches := mcstBranches (iss.getX (slotX c.s1)) } }
    .ok (s.startCopy (slotCc c.s4) {
      id := 0, iss, dst := .mcst, rows := [{ cpyRow c iss with dst := 0 }], count := 0, reply := replyOf iss c.s5 })
/-- `mcst xl, [xs], len, ccN`. -/
def execMcst (c : Cmd) (s : State) : Out := issueCommand (.mcst c) c (replyRegs c.s5) (chkMcst c) (effMcst c) s

/-! ## The engine -/

/-- A copy of a die, with its channel. -/
def State.copy? (s : State) (d : DieId) (id : Nat) : Option (Fin 64 × Copy) :=
  (List.finRange 64).findSome? fun n => (s.dies[d].ch[n].q.find? (·.id == id)).map fun k => (n, k)
/-- Change a copy. -/
def State.modCopy (s : State) (d : DieId) (id : Nat) (f : Copy → Copy) : State :=
  s.modDie d fun D => { D with ch := D.ch.map fun c => { c with q := c.q.map fun k => if k.id = id then f k else k } }
/-- Drop a copy. -/
def State.dropCopy (s : State) (d : DieId) (id : Nat) : State :=
  s.modDie d fun D => { D with ch := D.ch.map fun c => { c with q := c.q.filter (·.id != id) } }
/-- Every copy before one on its channel has placed its end-of-tile token (R227).
Assumption 47 (DEDUCED). -/
def State.copyTurn (s : State) (d : DieId) (n : Fin 64) (id : Nat) : Bool :=
  (s.dies[d].ch[n].q.takeWhile (·.id != id)).all (·.ended)

/-- A happening of the copy in focus. -/
def copyHappening (i : Instr) (eff : Fin 64 → Copy → State → Option State) (s : State) : Out :=
  happening i (fun s =>
    match s.copy? s.focus.die s.focus.id with
    | none => some s
    | some (n, k) => eff n k s) s

/-- Change a copy and let it owe its next happening. -/
def State.stepCopy (s : State) (d : DieId) (k : Copy) : State := (s.modCopy d k.id fun _ => k).offerCopy k

/-- COPY_START (R227): a copy starts once those before it on its channel have issued all their requests; an `mcst` clears the branch
counters (R237). -/
def execCopyStart (s : State) : Out :=
  copyHappening .copyStart (fun n k s =>
    if k.started || k.blighted then some s
    else if k.templ.isSome || !s.copyTurn s.focus.die n k.id then none
    else
      let s := match (s.tile k.iss.tile).mcst with
        | some m =>
          if k.dst = CopyDst.mcst then s.modTile k.iss.tile fun (T : Tile) => { T with
            mcb := Vector.replicate 4 0
            holds := Vector.replicate 4 none
            branches := Vector.ofFn fun i : Fin 4 => m.branches.findSome? fun (b, u) => if b = i then some u else none }
          else s
        | none => s
      some (s.stepCopy s.focus.die { k with started := true })) s

/-- The bytes of one request: up to 64, within one page of each side. -/
def CopyRow.chunk (r : CopyRow) : Nat := min (min r.len 64) (min (65536 - r.src % 65536) (65536 - r.dst % 65536))
/-- The rows left past n bytes. -/
def passRows (n : Nat) : List CopyRow → List CopyRow
  | [] => []
  | r :: rs => if r.len ≤ n then rs else { src := r.src + n, dst := r.dst + n, len := r.len - n } :: rs

/-- Copy n bytes in the engine domain (R230). -/
def State.copyBytes (s : State) (iss : Issue) (r : CopyRow) (n : Nat) : Except (FaultCode × Nat) State :=
  match s.copyRead iss.ctx iss.tile r.src n with
  | .error e => .error e
  | .ok bs =>
    match s.locateRange iss.ctx iss.tile r.dst n { write := true, engine := true, copy := true } with
    | .error e => .error e
    | .ok ls =>
      if ls.any (fun (l, _) => match l with | .aper _ => true | _ => false) then .error (.protect, r.dst) else .ok (s.writeLocs ls bs)

/-- A fault ends a copy: no further request, a BLIGHT token, a cancelled reply; its job is blighted (R230, R351, R399). For a copy to
memory the record's index is a free value.
Assumption 48 (DESIGN CHOICE). -/
def State.copyFails (s : State) (d : DieId) (n : Fin 64) (k : Copy) (code : FaultCode) (addr : Nat) : State :=
  let (w, s) := s.draw
  let idx := if k.dst = .mem then w.toNat % 2 ^ 32 else k.count % 2 ^ 32
  let k := { k with rows := [], blighted := true, code := code.val, follow := none, templ := none }
  (s.stepCopy d k).engineFails k.iss code (w64 addr) (w64 (1 + n.val * 256 + idx * 65536)) false

/-- Whether the context of a copy is being saved, which stops a delivery at its next flit (R243). -/
def State.savingCtx (s : State) (ctx : Nat) : Bool := match s.ctx? ctx with | some c => c.saving.isSome | none => false

/-- Whether an `mls` that a save waits for takes the flits of a VC (R170): a delivery to it goes on. -/
def Tile.mlsWants (T : Tile) (vc : SlotId) : Bool :=
  !T.matSettled && T.matQ.any fun q => (match q.instr with | .mls _ => true | _ => false) && q.vcs.contains vc

/-- COPY_FLIT_DELIVER (R230): a copy that has started writes its next bytes, or delivers its next flit once its channel has room. -/
def execCopyFlitDeliver (s : State) : Out :=
  copyHappening .copyFlitDeliver (fun n k s =>
    let d := s.focus.die
    if !k.started then some (s.offerCopy k) else
    match k.rows with
    | [] => some (s.offerCopy k)
    | r :: _ =>
      match k.dst with
      | .mcst => some s
      | .mem =>
        let len := r.chunk
        match s.copyBytes k.iss r len with
        | .ok s => some (s.stepCopy d { k with rows := passRows len k.rows, count := k.count + len })
        | .error (c, a) => some (s.copyFails d n k c a)
      | .chan =>
        match s.dies[d].ch[n].bind with
        | none => none
        | some (t, vc) =>
          if !s.vcRoom t vc || (s.savingCtx k.iss.ctx && !(s.tile t).mlsWants vc) then none
          else
            match s.copyRead k.iss.ctx k.iss.tile r.src 64 with
            | .error (c, a) => some (s.copyFails d n k c a)
            | .ok bs =>
              let s := s.sendSeg t vc { kind := 0, data := BitVec.ofNat 512 (leNat bs) }
              some (s.stepCopy d { k with rows := passRows 64 k.rows, count := k.count + 1 })) s

/-- The end-of-tile token of a copy that delivered `count` flits (R227). -/
def tileEndFlit (count : Nat) : Flit := { eotFlit 0 count with tileEnd := true }
/-- The token a delivery ends with. -/
def Copy.endFlit (k : Copy) : Flit := if k.blighted then blightFlit k.code k.iss.job else tileEndFlit k.count

/-- Where a copy's end token goes: its delivery, or every branch of its multicast. -/
def State.copyOuts (s : State) (d : DieId) (n : Fin 64) (k : Copy) : List (TileId × SlotId) :=
  match k.dst with
  | .mem => []
  | .chan => (s.dies[d].ch[n].bind).toList
  | .mcst => match (s.tile k.iss.tile).mcst with | some m => if m.copy = k.id then m.branches.map (·.2) else [] | none => []

/-- COPY_END_OF_TILE (R227, R236): the end-of-tile token follows the last data, or a BLIGHT token ends a faulted copy. -/
def execCopyEndOfTile (s : State) : Out :=
  copyHappening .copyEndOfTile (fun n k s =>
    let d := s.focus.die
    if k.ended then (if k.replied && k.follow.isNone then some (s.dropCopy d k.id) else some (s.offerCopy k))
    else if !k.rows.isEmpty || k.templ.isSome || !s.copyTurn d n k.id || (k.dst == .mcst && !k.started && !k.blighted) then none
    else
      let s := (s.copyOuts d n k).foldl (fun s (t, vc) => s.sendSeg t vc k.endFlit) s
      let s := if k.dst = .mcst then s.modTile k.iss.tile fun T => { T with mcst := T.mcst.filter (·.copy != k.id) } else s
      some (s.stepCopy d { k with ended := true })) s

/-- The status and count of a copy's reply (R228). -/
def Copy.word (k : Copy) : Word := replyWord (if k.blighted then 1 else 0) k.count

/-- Every copy before one on its channel has sent its reply (R245). -/
def State.replyTurn (s : State) (d : DieId) (n : Fin 64) (id : Nat) : Bool :=
  (s.dies[d].ch[n].q.takeWhile (·.id != id)).all (·.replied)

/-- COPY_REPLY (R228, R245): the reply leaves behind those of the copies before it on its channel; a versioned one that cannot be written blights the job. A copy whose follow-on is still held
stays until that has issued. -/
def execCopyReply (s : State) : Out :=
  copyHappening .copyReply (fun n k s =>
    let d := s.focus.die
    if !k.ended || k.replied then some s
    else if !s.replyTurn d n k.id then none
    else
      let s := match s.sendReply k.iss k.reply k.word with
        | .ok s => s
        | .error c =>
          match k.reply with
          | .ver va v =>
            let s := s.dropReply k.iss.ctx va v
            if k.blighted then s else s.engineFails k.iss c (w64 va) (w64 (1 + n.val * 256 + k.count % 2 ^ 32 * 65536)) false
          | _ => s
      some (if k.follow.isNone then s.dropCopy d k.id else s.modCopy d k.id fun k => { k with replied := true })) s

/-! ## Templated copies (R231, R232) -/

/-- What a template asks for. -/
structure Template where
  toChan : Bool
  rows : List CopyRow
  spadOnly : Bool
  reply : Reply
  deriving DecidableEq, Repr

/-- A 32-bit field read signed. -/
def signed32 (n : Nat) : Int := (BitVec.ofNat 32 n).toInt

/-- The fields of a template entry with the bias of its store, or none where a field is not allowed; the reply address is a multiple of 8 whatever
the entry asks for.
Assumption 178 (DEDUCED). -/
def templateOf (bs : List Byte) (data : Word) (iss : Issue) : Option Template :=
  let f := fun (o n : Nat) => leNat ((bs.drop o).take n)
  let ctl := f 32 2
  let toChan := ctl % 2 == 1
  let bias : Int := (data.extractLsb' 16 48).toInt
  let dirn := ctl / 2 % 4
  let src : Int := f 8 8 + (if dirn % 2 = 1 then bias else 0)
  let dst : Int := f 0 8 + (if dirn / 2 = 1 then bias else 0)
  let rows := f 20 4
  let versioned := ctl / 256 % 2 == 1
  if rows = 0 ∨ (toChan ∧ f 0 8 ≠ 0) ∨ 6 ≤ ctl / 8 % 16 ∨ ctl / 512 ≠ 0 ∨ f 34 2 / 16 ≠ 0 ∨ f 40 8 % 8 ≠ 0 ∨ leNat (bs.drop 48) ≠ 0 then none
  else some {
    toChan
    rows := (List.range rows).map fun (r : Nat) =>
      { src := wrap64 (src + (r : Int) * signed32 (f 28 4)), dst := if toChan then 0 else wrap64 (dst + (r : Int) * signed32 (f 24 4)), len := f 16 4 }
    spadOnly := ctl / 8 % 16 == 5
    reply := if ctl / 128 % 2 = 0 then .none
      else if versioned then .ver (f 40 8) (f 36 4) else .vc iss.tile ⟨f 34 2 % 16, Nat.mod_lt _ (by decide)⟩ }

/-- Read and check the template a store names (R232): a violation is an engine fault.
Assumption 53 (DEDUCED). -/
def State.readTemplate (s : State) (iss : Issue) (n : Fin 64) (data : Word) : Except Stop (Template × State) := do
  let (cptab, cpcnt) := match s.ctx? iss.ctx with | some c => (c.cptab.toNat, c.cpcnt.toNat) | none => (0, 0)
  let idx := (data.extractLsb' 0 12).toNat
  let va := cptab + 64 * idx
  needAt (decide (idx < cpcnt)) .illegalField va
  match s.engineRead iss.ctx iss.tile va 64 with
  | .error (c, a) => .error (.trap c (w64 a) 0)
  | .ok bs =>
    match templateOf bs data iss with
    | none => .error (.trap .illegalField (w64 va) 0)
    | some T => do
      if T.toChan then let _ ← s.delivery iss n
      checkRows T.rows T.toChan T.spadOnly
      let s ← s.openReply iss T.reply
      .ok (T, s)

/-- TEMPLATE_COPY (R231, R232): an aperture store reaches the engine, which reads the template as it then stands. -/
def execTemplateCopy (s : State) : Out :=
  happening .templateCopy (fun s =>
    let t := s.focus.tile
    match s.here.access? s.focus.id with
    | none => some s
    | some a =>
      if !storeReady s.here a || !commitReady s.here a then none
      else
        match a.kind with
        | .aperture id =>
          let d := dieOf t
          let s' := s.modTile t fun T => T.dropAccess a.id
          match s.copy? d id with
          | none => some s'
          | some (n, k) =>
            match s'.readTemplate k.iss n (k.templ.getD 0) with
            | .error (.trap c addr _) => some (s'.copyFails d n k c addr.toNat)
            | .error (.block _) => none
            | .ok (T, s) =>
              some (s.stepCopy d { k with
                templ := none, dst := if T.toChan then .chan else .mem, rows := T.rows.filter (·.len != 0), reply := T.reply })
        | _ => some s) s

/-! ## The follow-on of a cpym (R234) -/

/-- The checks of a follow-on at its queue entry. -/
def followCheck (i : Instr) (iss : Issue) (s : State) : Except Stop Cmd :=
  match i with
  | .mls c => (chkMls c iss s).map fun _ => c
  | .mst c => (chkMst c iss s).map fun _ => c
  | .msc c => (chkMsc c iss s).map fun _ => c
  | .mnm c => (chkMnm c iss s).map fun _ => c
  | .mintDot c => (chkSparse c iss s).map fun _ => c
  | _ => .error (trapWith .illegalField)

/-- Whether the data flits of a copy channel stand in its tile's pool: no graft node holds one, and none waits for a slot (R234). -/
def State.flitsLanded (s : State) (by_ : TileId) (n : Fin 64) : Bool :=
  match s.dies[dieOf by_].ch[n].bind with
  | none => true
  | some (t, vc) => (s.vchan t vc).waiting.all (·.kind != 0) && (match s.vcChan t vc with | some (_, _, ch) => ch.graftQ.all (·.kind != 0) | none => true)

/-- CPYM_FOLLOW_ON (R234): once the last flit of the copy has landed, the follow-on enters the matrix queue with the registers the
`cpym` read; one that faults blights its job (R171). -/
def execCpymFollowOn (s : State) : Out :=
  copyHappening .cpymFollowOn (fun n k s =>
    match k.follow with
    | none => some s
    | some w =>
      let d := s.focus.die
      let iss := { k.iss with follow := true }
      let i := decodeCommand w 0
      let done := fun (s : State) => if k.replied then s.dropCopy d k.id else s.modCopy d k.id fun k => { k with follow := none }
      if !k.started || !k.rows.isEmpty || !s.flitsLanded iss.tile n || 4 ≤ (s.tile iss.tile).matQ.length then none
      else
        match followCheck i iss s with
        | .error (.block _) => none
        | .error (.trap c addr _) => some ((done s).engineFails iss c addr 3 false)
        | .ok c =>
          match effMat i c iss s with
          | .ok s => some (done s)
          | .error _ => none) s

/-! ## Multicasts (R236, R237) -/

/-- MCST_FLIT_ACCEPT (R236): the replication point offers its flit to every branch; those with room accept it; once all have, the next
flit is read. -/
def execMcstFlitAccept (s : State) : Out :=
  happening .mcstFlitAccept (fun s =>
    let t := s.focus.tile
    match s.here.mcst with
    | none => some s
    | some m =>
      let d := dieOf t
      match s.copy? d m.copy with
      | none => some s
      | some (n, k) =>
        match k.rows with
        | [] => some (s.offerCopy k)
        | r :: _ =>
          if !k.started then none
          else
            match match m.flit with
              | some f => Except.ok f
              | none => (s.copyRead k.iss.ctx t r.src 64).map fun bs => BitVec.ofNat 512 (leNat bs) with
            | .error (c, a) => some (s.copyFails d n k c a)
            | .ok f =>
              if m.accepted.isEmpty && s.savingCtx k.iss.ctx then none
              else
                let due := m.branches.filter fun b => !m.accepted.contains b.1
                let (ready, held) := due.partition fun (_, u, vc) => s.vcFree u vc
                let next : Mcst := { m with flit := some f, accepted := m.accepted ++ ready.map (·.1) }
                if ready.isEmpty then
                  if m.flit.isSome then none
                  else some ((held.foldl (fun s (b, _, _) => s.holdBranch t b) (s.modTile t fun T => { T with mcst := some next })).postOnce
                    .mcstFlitAccept s.focus)
                else
                  let s := held.foldl (fun s (b, _, _) => s.holdBranch t b) s
                  let s := ready.foldl (fun s (b, u, vc) => s.sendOne u vc { kind := 0, data := f, branch := some (t, b) }) s
                  if held.isEmpty then
                    let s := s.modTile t fun T => { T with mcst := some { m with flit := none, accepted := [] } }
                    some (s.stepCopy d { k with rows := passRows 64 k.rows, count := k.count + 1 })
                  else some ((s.modTile t fun T => { T with mcst := some next }).postOnce .mcstFlitAccept s.focus)) s

end Sys2Proof.Machine
end

