-- ==== Sys2Proof/Machine/AddrGen.lean ====
section
/-! DEFINITION. Address generators (R238 to R243, R390): `gath`, `scat`, `agc`, `seg`, and the return of a node's values. -/
namespace Sys2Proof.Machine
open Sys2Proof

/-! ## Nodes -/

/-- A node of a tile. -/
def State.agNode (s : State) (t : TileId) (n : Fin 4) : AgNode := (s.tile t).ag[n]
/-- Change a node. -/
def State.modAg (s : State) (t : TileId) (n : Fin 4) (f : AgNode → AgNode) : State :=
  s.modTile t fun T => { T with ag := T.ag.set n (f T.ag[n]) }
/-- The node an immediate slot names, and the node a command names. -/
def immNode (w : BitVec 16) : Fin 4 := ⟨immN w % 4, Nat.mod_lt _ (by decide)⟩
def agNodeOf (c : Cmd) : Fin 4 := ⟨((slotVal c.s5).extractLsb' 0 2).toNat, ((slotVal c.s5).extractLsb' 0 2).isLt⟩
def agNodeAt : Instr → Option (Fin 4)
  | .gath c | .scat c => some (agNodeOf c)
  | .agc c | .seg c => some (immNode c.s1)
  | _ => none

/-- Whether it is a command's turn on a node (R238): every other one that waits for it was issued later. -/
def Tile.agTurn (T : Tile) (n : Fin 4) (iss : Issue) : Bool :=
  let held := T.held.any (·.iss == iss)
  let waits := T.ag[n].line.filter fun (k, e, _) => (T.slot k).epoch == e &&
    ((T.slot k).status == .ready || (T.slot k).status == .running || ((T.slot k).status == .blocked && (T.slot k).wait == .agNode n))
  let mine := if held then iss.no else ((waits.find? (·.1 == iss.slot)).map (·.2.2)).getD iss.no
  waits.all (fun (k, _, m) => (!held && k == iss.slot) || decide (mine < m)) &&
  T.held.all fun h => !h.released || h.iss == iss || agNodeAt h.instr != some n || decide (mine < h.iss.no)
/-- A command waits while its node is busy, in issue order (R238). -/
def nodeFree (iss : Issue) (n : Fin 4) (s : State) : Except Stop Unit :=
  if (s.agNode iss.tile n).cmd.isSome || !(s.tile iss.tile).agTurn n iss then .error (.block (.agNode n)) else .ok ()
/-- A node runs a command, and owes its next value. -/
def State.runNode (s : State) (t : TileId) (n : Fin 4) (a : AgCmd) : State :=
  (s.modAg t n fun N => { N with cmd := some a }).postOnce .agValueReturn { tile := t, unit := n.val }
/-- A command that has its turn on a node leaves the node's line. -/
def State.leaveLine (s : State) (n : Fin 4) (iss : Issue) : State :=
  let held := (s.tile iss.tile).held.any (·.iss == iss)
  s.modAg iss.tile n fun N => { N with line := N.line.filter fun (k, _, _) => held || k != iss.slot }
/-- A command starts on a node. -/
def State.startNode (s : State) (n : Fin 4) (a : AgCmd) : State := (s.leaveLine n a.iss).runNode a.iss.tile n a
/-- A node becomes free. -/
def State.freeNode (s : State) (t : TileId) (n : Fin 4) : State := s.modAg t n fun N => { N with cmd := none }

/-- The reply and the bound of a `gath` or `scat` (R229). -/
def agReply (c : Cmd) (iss : Issue) : Reply :=
  if (slotVal c.s5).getLsbD 8 then .vc iss.tile ⟨((slotVal c.s5).extractLsb' 4 4).toNat, ((slotVal c.s5).extractLsb' 4 4).isLt⟩ else .none
def agBound (c : Cmd) (iss : Issue) : Option Nat := if c.s4 = 0 then none else some (iss.xOrImm c.s4 0)
/-- Bytes of an element. -/
def elemBytes (t : BitVec 5) : Nat := tagWidth t / 8

/-! ## gath (R239) -/

/-- Where a `gath` delivers. -/
def gathOut (c : Cmd) (iss : Issue) (s : State) : Except Stop (TileId × SlotId) :=
  if isCc c.s1 then s.delivery iss (slotCc c.s1) else .ok (iss.tile, slotN c.s1)
/-- A coordinate block carries the crd tag. -/
def crdOk (c : Cmd) (slot : BitVec 16) (iss : Issue) (s : State) : Except Stop Unit :=
  need (!isV slot || (s.block iss c slot).all fun v => v.tag == 0x10) .formatMismatch
/-- The elements of a block under a format. -/
def blockElems (c : Cmd) (slot : BitVec 16) (t : BitVec 5) (iss : Issue) (s : State) : List Nat :=
  if isV slot then (s.block iss c slot).flatMap (elems t) else []
/-- The channels among slots. -/
def agVcs (slots : List (BitVec 16)) : List SlotId := (slots.filter isVc).map slotN

def gathBase (c : Cmd) (iss : Issue) : Nat := (iss.getX (slotX c.s2)).toNat
def chkGath (c : Cmd) (iss : Issue) (s : State) : Except Stop Unit := do
  checkBlocks c [c.s3] iss s
  crdOk c c.s3 iss s
  needAt (gathBase c iss % elemBytes c.tag == 0) .misaligned (gathBase c iss)
  let _ ← gathOut c iss s
  nodeFree iss (agNodeOf c) s
def effGath (c : Cmd) (iss : Issue) (s : State) : Except Stop State := do
  nodeFree iss (agNodeOf c) s
  let out ← gathOut c iss s
  .ok (s.startNode (agNodeOf c) {
    instr := .gath c, iss, fmt := c.tag, crd := blockElems c c.s3 0x10 iss s, vcs := agVcs [c.s3], out := some out
    base := gathBase c iss, bound := agBound c iss, spadOnly := c.hint == 5, started := isV c.s3 })
/-- `gath.fmt dst, [xb], crd, bound`. -/
def execGath (c : Cmd) (s : State) : Out := issueCommand (.gath c) c [] (chkGath c) (effGath c) s

/-! ## scat (R240) -/

def scatBase (c : Cmd) (iss : Issue) : Nat := (iss.getX (slotX c.s1)).toNat
/-- The checks of `scat` at issue; a mixed pair of sources is refused (assumption 58, DEDUCED). -/
def chkScat (c : Cmd) (iss : Issue) (s : State) : Except Stop Unit := do
  need (isV c.s2 == isV c.s3) .illegalField
  checkBlocks c [c.s2, c.s3] iss s
  crdOk c c.s2 iss s
  need (!isV c.s3 || (s.block iss c c.s3).all fun v => v.tag == c.tag) .formatMismatch
  needAt (scatBase c iss % elemBytes c.tag == 0) .misaligned (scatBase c iss)
  nodeFree iss (agNodeOf c) s
def effScat (c : Cmd) (iss : Issue) (s : State) : Except Stop State := do
  nodeFree iss (agNodeOf c) s
  .ok (s.startNode (agNodeOf c) {
    instr := .scat c, iss, fmt := c.tag, crd := blockElems c c.s2 0x10 iss s, vals := blockElems c c.s3 c.tag iss s
    vcs := agVcs [c.s2, c.s3], reply := agReply c iss, base := scatBase c iss, bound := agBound c iss, spadOnly := c.hint == 5
    started := isV c.s2 })
/-- `scat.fmt [xb], crd, val, bound`. -/
def execScat (c : Cmd) (s : State) : Out := issueCommand (.scat c) c [] (chkScat c) (effScat c) s

/-! ## Descriptors (R241) -/

/-- The fields of a descriptor. -/
structure AgDesc where
  base : Nat
  mode : Nat
  pad : Nat
  tag : BitVec 5
  tile : TileId
  vc : SlotId
  ticks : Nat
  l0 : Nat
  l1 : Nat
  l2 : Nat
  l3 : Nat
  s0 : Int
  s1 : Int
  s2 : Int
  s3 : Int
  h : Nat
  w : Nat
  c : Nat
  kh : Nat
  kw : Nat
  sy : Nat
  sx : Nat
  py : Nat
  px : Nat
  n : Nat
  deriving DecidableEq, Repr

/-- A field of n bytes at byte o. -/
def descField (d : Wave) (o n : Nat) : Nat := d.toNat / 2 ^ (8 * o) % 2 ^ (8 * n)

/-- A descriptor from its 64 bytes. -/
def agDescOf (d : Wave) : AgDesc where
  base := descField d 0 8
  mode := descField d 8 2 % 4
  pad := descField d 8 2 / 4 % 4
  tag := BitVec.ofNat 5 (descField d 8 2 / 16)
  tile := ⟨descField d 10 2 % 1024, Nat.mod_lt _ (by decide)⟩
  vc := ⟨descField d 10 2 / 1024 % 16, Nat.mod_lt _ (by decide)⟩
  ticks := descField d 12 4
  l0 := descField d 16 2
  l1 := descField d 18 2
  l2 := descField d 20 2
  l3 := descField d 22 2
  s0 := signed32 (descField d 24 4)
  s1 := signed32 (descField d 28 4)
  s2 := signed32 (descField d 32 4)
  s3 := signed32 (descField d 36 4)
  h := descField d 40 2
  w := descField d 42 2
  c := descField d 44 2
  kh := descField d 46 1
  kw := descField d 47 1
  sy := descField d 48 1
  sx := descField d 49 1
  py := descField d 50 1
  px := descField d 51 1
  n := descField d 52 2

/-- The field checks of R241. -/
def agDescOk (d : Wave) (holds : Nat → Bool) : Bool :=
  let a := agDescOf d
  decide (a.base < 2 ^ 52) && agTag a.tag && a.base % elemBytes a.tag == 0 && decide (a.mode ≤ 1) && a.pad != 3 &&
  descField d 8 2 / 512 == 0 && holds a.tile.val && descField d 10 2 / 16384 == 0 && a.ticks != 0 && descField d 54 10 == 0 &&
  (if a.mode = 0 then
    a.pad == 0 && a.l0 != 0 && a.l1 != 0 && a.l2 != 0 && a.l3 != 0 && descField d 40 14 == 0
   else
    a.l0 == 0 && a.l1 == 0 && a.l2 == 0 && a.l3 != 0 && a.s3 == 0 &&
    a.h != 0 && a.w != 0 && a.c != 0 && a.kh != 0 && a.kw != 0 && a.sy != 0 && a.sx != 0 && a.n != 0 &&
    decide (a.py < a.kh ∧ a.px < a.kw ∧ a.kh ≤ a.h + 2 * a.py ∧ a.kw ≤ a.w + 2 * a.px))

/-- The descriptor at an address, in the order of R241's checks. -/
def readAgDesc (xd : Nat) (iss : Issue) (s : State) : Except Stop Wave := do
  needAt (xd % 64 == 0) .misaligned xd
  match ownOffset iss xd with
  | none => .error (.trap .protect (w64 xd) 0)
  | some off =>
    needAt (decide (off + 64 ≤ Config.spShare (s.tile iss.tile).split)) .protect xd
    needAt (!s.eccError) .ecc xd
    let d : Wave := BitVec.ofNat 512 (leNat (Memory.read (s.tile iss.tile).sp off 64))
    needAt (agDescOk d fun t => match s.ctx? iss.ctx with | some c => c.holds t | none => false) .illegalField xd
    .ok d

def agcAddr (c : Cmd) (iss : Issue) : Nat := (iss.getX (slotX c.s2)).toNat
def chkAgc (c : Cmd) (iss : Issue) (s : State) : Except Stop Unit := do
  let _ ← readAgDesc (agcAddr c iss) iss s
  nodeFree iss (immNode c.s1) s
def effAgc (c : Cmd) (iss : Issue) (s : State) : Except Stop State := do
  nodeFree iss (immNode c.s1) s
  let d ← readAgDesc (agcAddr c iss) iss s
  .ok ((s.leaveLine (immNode c.s1) iss).modAg iss.tile (immNode c.s1) fun N => { N with desc := some d, next := 0 })
/-- `agc n, [xd]`. -/
def execAgc (c : Cmd) (s : State) : Out := issueCommand (.agc c) c [] (chkAgc c) (effAgc c) s

/-! ## seg (R242) -/

/-- What an index of a segment emits. -/
inductive AgElem where
  | mem (a : Nat)
  | zero
  | fallow
  deriving DecidableEq, Repr

/-- Output size of a convolution. -/
def AgDesc.oh (d : AgDesc) : Nat := (d.h + 2 * d.py - d.kh) / d.sy + 1
def AgDesc.ow (d : AgDesc) : Nat := (d.w + 2 * d.px - d.kw) / d.sx + 1
/-- Elements of one image. -/
def AgDesc.perImage (d : AgDesc) : Nat := d.oh * d.ow * d.kh * d.kw * d.c

/-- Elements of the segment of outer index j. -/
def AgDesc.size (d : AgDesc) (j : Nat) : Nat :=
  if d.mode = 0 then d.l0 * d.l1 * d.l2 else min d.l3 (d.n - j * d.l3) * d.perImage

/-- Clamp an index to 0 … n − 1. -/
def clampIx (i : Int) (n : Nat) : Int := max 0 (min i (n - 1))

/-- Element k of the segment of outer index j. -/
def AgDesc.elem (d : AgDesc) (j k : Nat) : AgElem :=
  if d.mode = 0 then
    let i0 := k % d.l0
    let i1 := k / d.l0 % d.l1
    let i2 := k / d.l0 / d.l1
    .mem (wrap64 (d.base + j * d.s3 + i2 * d.s2 + i1 * d.s1 + i0 * d.s0))
  else
    let img := j * d.l3 + k / d.perImage
    let r := k % d.perImage
    let ch := r % d.c
    let kx := r / d.c % d.kw
    let ky := r / d.c / d.kw % d.kh
    let ox := r / d.c / d.kw / d.kh % d.ow
    let oy := r / d.c / d.kw / d.kh / d.ow
    let iy : Int := oy * d.sy + ky - d.py
    let ix : Int := ox * d.sx + kx - d.px
    let at_ := fun (iy ix : Int) => AgElem.mem (wrap64 (d.base + img * d.s2 + iy * d.s1 + ix * d.s0 + (ch * elemBytes d.tag : Nat)))
    if 0 ≤ iy ∧ iy < d.h ∧ 0 ≤ ix ∧ ix < d.w then at_ iy ix
    else if d.pad = 0 then .zero
    else if d.pad = 1 then .fallow
    else at_ (clampIx iy d.h) (clampIx ix d.w)

def segTick (c : Cmd) (iss : Issue) : Nat := (iss.getX (slotX c.s2)).toNat
def segCount (c : Cmd) (iss : Issue) : Nat := iss.xOrImm c.s3 0

/-- The field checks of `seg` against a node's descriptor and next outer index. -/
def segFields (c : Cmd) (iss : Issue) (desc : Option Wave) (next : Nat) : Except Stop AgDesc :=
  match desc with
  | none => .error (trapWith .illegalField)
  | some w => do
    let d := agDescOf w
    let n := segCount c iss
    need (n != 0 && decide (segTick c iss + n * d.ticks ≤ 2 ^ 48)) .illegalField
    need (d.mode != 0 || decide (next + n ≤ d.l3)) .illegalField
    .ok d
/-- The checks of `seg`, which look at the node once it is free. -/
def segCheck (c : Cmd) (iss : Issue) (s : State) : Except Stop AgDesc := do
  nodeFree iss (immNode c.s1) s
  segFields c iss (s.agNode iss.tile (immNode c.s1)).desc (s.agNode iss.tile (immNode c.s1)).next
/-- A node's descriptor and next outer index once it is free and the commands held for the open clause have taken their effects. -/
def State.nodeAhead (s : State) (iss : Issue) (n : Fin 4) : Option Wave × Nat :=
  let N := s.agNode iss.tile n
  let owed := match N.cmd with | some a => a.segsLeft | none => 0
  (s.tile iss.tile).held.foldl (fun p h => match h.instr with
    | .agc c => if immNode c.s1 = n then (match readAgDesc (agcAddr c h.iss) h.iss s with | .ok w => (some w, 0) | .error _ => p) else p
    | .seg c => if immNode c.s1 = n then (p.1, p.2 + segCount c h.iss) else p
    | _ => p) (N.desc, N.next + owed)
/-- In an open clause `seg` is checked against the node as it will stand. -/
def chkSeg (c : Cmd) (iss : Issue) (s : State) : Except Stop Unit := do
  if iss.wave = 0xFF then nodeFree iss (immNode c.s1) s
  let p := if iss.wave = 0xFF then ((s.agNode iss.tile (immNode c.s1)).desc, (s.agNode iss.tile (immNode c.s1)).next)
    else s.nodeAhead iss (immNode c.s1)
  let _ ← segFields c iss p.1 p.2
def effSeg (c : Cmd) (iss : Issue) (s : State) : Except Stop State := do
  let d ← segCheck c iss s
  .ok (s.startNode (immNode c.s1) {
    instr := .seg c, iss, fmt := d.tag, out := some (d.tile, d.vc), spadOnly := c.hint == 5, segsLeft := segCount c iss, tick := segTick c iss
    started := false })
/-- `seg n, xt, count`. -/
def execSeg (c : Cmd) (s : State) : Out := issueCommand (.seg c) c [] (chkSeg c) (effSeg c) s

/-! ## The values of a node -/

/-- A fault on an element ends the command: a BLIGHT token in place of the EOT, the cancelled reply, its job blighted (R238). -/
def State.agFails (s : State) (t : TileId) (n : Fin 4) (a : AgCmd) (code : FaultCode) (addr : Nat) : State :=
  let s := s.freeNode t n
  let s := match a.out with | some (u, vc) => s.sendSeg u vc (blightFlit code.val a.iss.job) | none => s
  let s := match a.reply with | .vc u vc => s.sendWord u vc (replyWord 1 a.count) | _ => s
  s.engineFails a.iss code (w64 addr) (w64 (2 + n.val * 256 + a.k % 2 ^ 32 * 65536)) false

/-- A flit of elements, padded with fallow. -/
def agFlit (t : BitVec 5) (buf : List Nat) : Flit :=
  { kind := 0, data := packFields (tagWidth t) (buf ++ List.replicate (tagCount t - buf.length) (fallowCode t)) }
/-- Send the elements a node holds. -/
def State.agFlush (s : State) (t : TileId) (n : Fin 4) (a : AgCmd) (u : TileId) (vc : SlotId) : State :=
  (s.sendSeg u vc (agFlit a.fmt a.buf)).runNode t n { a with buf := [] }
/-- Emit an element: a full flit leaves. -/
def State.agEmit (s : State) (t : TileId) (n : Fin 4) (a : AgCmd) (u : TileId) (vc : SlotId) (v : Nat) : State :=
  let a := { a with buf := a.buf ++ [v], k := a.k + 1, count := a.count + 1 }
  if a.buf.length = tagCount a.fmt then s.agFlush t n a u vc else s.runNode t n a

/-- The bytes of one element, for reading.
Assumption 57 (DEDUCED). -/
def State.agRead (s : State) (a : AgCmd) (va : Nat) : Except (FaultCode × Nat) Nat :=
  if a.spadOnly && !inSpad va (elemBytes a.fmt) then .error (.protect, va)
  else (s.engineRead a.iss.ctx a.iss.tile va (elemBytes a.fmt)).map leNat
/-- Store one element. -/
def State.agWrite (s : State) (a : AgCmd) (va v : Nat) : Except (FaultCode × Nat) State :=
  if a.spadOnly && !inSpad va (elemBytes a.fmt) then .error (.protect, va)
  else
    match s.locateRange a.iss.ctx a.iss.tile va (elemBytes a.fmt) { write := true, engine := true } with
    | .error e => .error e
    | .ok ls =>
      if ls.any (fun (l, _) => match l with | .aper _ => true | _ => false) then .error (.protect, va)
      else if s.eccError && decide (elemBytes a.fmt < 8) then .error (.ecc, va)
      else .ok (s.writeLocs ls (leBytes (elemBytes a.fmt) v))

/-- One coordinate of a `gath` (R239). -/
def gathElem (t : TileId) (n : Fin 4) (a : AgCmd) (u : TileId) (vc : SlotId) (c : Nat) (s : State) : State :=
  if c = 0xFFFFFFFF then (s.agEmit t n a u vc (fallowCode a.fmt)).bump a.iss cFallowIn 1
  else if (match a.bound with | some b => decide (b ≤ c) | none => false) = true then s.agEmit t n a u vc (fallowCode a.fmt)
  else
    match s.agRead a (a.base + c * elemBytes a.fmt) with
    | .ok v => s.agEmit t n a u vc v
    | .error (code, va) => s.agFails t n a code va

/-- Whether the producer of a channel sends no further SOT: the channel's graph is live and being stopped (R284). -/
def State.sourceHeld (s : State) (t : TileId) (vc : SlotId) : Bool :=
  match s.tileCtx t, s.vcChan t vc with
  | some c, some (g, _, _) => c.stopping.isSome && c.liveSlot == some g.val
  | _, _ => false

/-- One step of a `gath` (R239): a coordinate, a control token, or the end. The end tick of an EOT that follows no SOT is a free value.
Assumption 54 (DEDUCED). -/
def gathStep (t : TileId) (n : Fin 4) (a : AgCmd) (u : TileId) (vc : SlotId) (s : State) : Option State :=
  match a.vcs with
  | [] =>
    match a.crd with
    | c :: rest => some (gathElem t n { a with crd := rest } u vc c s)
    | [] =>
      if !a.buf.isEmpty then some (s.agFlush t n a u vc)
      else
        let (w, s) := s.draw
        some ((s.freeNode t n).sendSeg u vc (eotFlit w.toNat a.count))
  | v :: _ =>
    match (s.vchan t v).head with
    | .empty => none
    | .data c => some (gathElem t n a u vc c.toNat (s.modVc t v VChan.dropTok))
    | .ctl kind p =>
      if kind = 1 ∧ s.sourceHeld u vc then none
      else if kind = 1 ∨ kind = 3 then
        if !a.buf.isEmpty then some (s.agFlush t n a u vc)
        else some (((s.modVc t v VChan.dropTok).sendSeg u vc { kind, data := p }).runNode t n a)
      else if kind = 2 then
        if !a.buf.isEmpty then some (s.agFlush t n a u vc)
        else some (((s.modVc t v VChan.dropTok).freeNode t n).sendSeg u vc (eotFlit p.toNat a.count))
      else some (s.agFails t n a .illegalField 0)

/-- One pair of a `scat` (R240). -/
def scatPair (t : TileId) (n : Fin 4) (a : AgCmd) (c v : Nat) (s : State) : State :=
  let next := { a with k := a.k + 1 }
  if c = 0xFFFFFFFF then (s.runNode t n next).bump a.iss cFallowIn 1
  else if (match a.bound with | some b => decide (b ≤ c) | none => false) = true then s.runNode t n next
  else
    match s.agWrite a (a.base + c * elemBytes a.fmt) v with
    | .ok s => s.runNode t n { next with count := a.count + 1 }
    | .error (code, va) => s.agFails t n a code va

/-- A `scat` ends: the node is free, and the reply leaves. -/
def scatEnd (t : TileId) (n : Fin 4) (a : AgCmd) (s : State) : State :=
  let s := s.freeNode t n
  match a.reply with | .vc u vc => s.sendWord u vc (replyWord 0 a.count) | _ => s

/-- The value a channel's token carries: its low bits; the upper half of a 64-bit element, which no token holds, is a free value.
Assumption 55 (DESIGN CHOICE). -/
def scatValue (t : BitVec 5) (v : BitVec 32) (s : State) : Nat × State :=
  if tagWidth t ≤ 32 then (v.toNat % 2 ^ tagWidth t, s)
  else
    let (w, s) := s.draw
    (v.toNat + w.toNat % 2 ^ 32 * 2 ^ 32, s)

/-- One step of a `scat` (R240).
Assumption 56 (DEDUCED). -/
def scatStep (t : TileId) (n : Fin 4) (a : AgCmd) (s : State) : Option State :=
  match a.vcs with
  | vA :: vB :: _ =>
    match (s.vchan t vA).head, (s.vchan t vB).head with
    | .ctl 1 _, _ => some ((s.modVc t vA VChan.dropTok).runNode t n a)
    | _, .ctl 1 _ => some ((s.modVc t vB VChan.dropTok).runNode t n a)
    | .empty, _ | _, .empty => none
    | .data c, .data v =>
      let (x, s) := scatValue a.fmt v s
      some (scatPair t n a c.toNat x ((s.modVc t vA VChan.dropTok).modVc t vB VChan.dropTok))
    | .ctl p _, .ctl q _ =>
      if p = 2 ∧ q = 2 then some (scatEnd t n a ((s.modVc t vA VChan.dropTok).modVc t vB VChan.dropTok))
      else some (s.agFails t n a .illegalField 0)
    | _, _ => some (s.agFails t n a .illegalField 0)
  | _ =>
    match a.crd, a.vals with
    | c :: cs, v :: vs => some (scatPair t n { a with crd := cs, vals := vs } c v s)
    | _, _ => some (scatEnd t n a s)

/-- One step of a `seg` (R242, R243): a segment's SOT, an element, its last flit, its EOT; between segments it stops for a save. -/
def segStep (t : TileId) (n : Fin 4) (a : AgCmd) (d : AgDesc) (u : TileId) (vc : SlotId) (s : State) : Option State :=
  let j := (s.agNode t n).next
  if !a.started then
    if a.segsLeft = 0 then some (s.freeNode t n)
    else if s.savingCtx a.iss.ctx || s.sourceHeld u vc then none
    else if 2 ^ 32 - 1 < d.size j then some (s.agFails t n a .illegalField 0)
    else some ((s.sendSeg u vc (sotFlit a.tick)).runNode t n { a with started := true, k := 0, count := 0 })
  else if a.k < d.size j then
    match d.elem j a.k with
    | .zero => some (s.agEmit t n a u vc 0)
    | .fallow => some (s.agEmit t n a u vc (fallowCode a.fmt))
    | .mem va =>
      match s.agRead a va with
      | .ok v => some (s.agEmit t n a u vc v)
      | .error (code, va) => some (s.agFails t n a code va)
  else if !a.buf.isEmpty then some (s.agFlush t n a u vc)
  else
    let s := (s.sendSeg u vc (eotFlit (a.tick + d.ticks - 1) a.count)).modAg t n fun N => { N with next := N.next + 1 }
    some (s.runNode t n { a with started := false, segsLeft := a.segsLeft - 1, tick := a.tick + d.ticks })

/-- AG_VALUE_RETURN (R238): the next value of a node, in coordinate order, once its destination has room. -/
def execAgValueReturn (s : State) : Out :=
  happening .agValueReturn (fun s =>
    let t := s.focus.tile
    if h : s.focus.unit < 4 then
      let n : Fin 4 := ⟨s.focus.unit, h⟩
      match (s.agNode t n).cmd with
      | none => some s
      | some a =>
        -- a command fed from channels begins no segment while its context is saved (R243)
        let fed := { a with started := true }
        let rests := !a.started && s.savingCtx a.iss.ctx
        match a.out with
        | some (u, vc) =>
          if !s.vcRoom u vc then none
          else
            match a.instr, (s.agNode t n).desc with
            | .seg _, some w => segStep t n a (agDescOf w) u vc s
            | _, _ => if rests then none else gathStep t n fed u vc s
        | none => if rests then none else scatStep t n fed s
    else some s) s

end Sys2Proof.Machine
end

