-- ==== Sys2Proof/Machine/Atomic.lean ====
section
/-! DEFINITION. Atomics (R213 to R225): `amo`, `vamo`, and their execution at the read-modify-write node. -/
namespace Sys2Proof.Machine
open Sys2Proof

/-- A value of s bits as a signed number. -/
def signedOf (s v : Nat) : Int := if v < 2 ^ (s - 1) then v else (v : Int) - 2 ^ s

/-- The new word and the value of rd of an integer `amo` (R218): operation code, bits, old word, operand, comparand. -/
def amoInt (op s old b cmp : Nat) : Nat × Nat :=
  match op with
  | 0 => ((old + b) % 2 ^ s, old)
  | 1 => (old &&& b, old)
  | 2 => (old ||| b, old)
  | 3 => (old ^^^ b, old)
  | 4 => (if signedOf s b < signedOf s old then b else old, old)
  | 5 => (if signedOf s old < signedOf s b then b else old, old)
  | 6 => (min old b, old)
  | 7 => (max old b, old)
  | 8 => (b, old)
  | 9 => (if old = cmp then b else old, old)
  | _ => let i := b % s; (old ||| 2 ^ i, old / 2 ^ i % 2)

/-- `amo.fadd` (R219): the new word and the counters raised. -/
def amoFadd (t : BitVec 5) (old b : Nat) : Nat × List Nat :=
  if !presentBits t b then (old, [3])
  else if !presentBits t old then (b, [])
  else
    let r := roundVal t 0 false 0 false (exactAdd 0 (decodeVal t old) (decodeVal t b))
    (r.code, r.counts)

/-- What an `amo` of `size` bytes makes of the old value (R218, R219): the new value, what goes to rd, and the counters it raises. -/
def amoStep (op : BitVec 4) (size old : Nat) (b cmp : Word) : Nat × Nat × List Nat :=
  let m := 2 ^ (8 * size)
  if op = 11 then
    let (n, cs) := amoFadd (if size = 4 then 1 else 2) old (b.toNat % m)
    (n, old, cs)
  else
    let (n, o) := amoInt op.toNat (8 * size) old (b.toNat % m) (cmp.toNat % m)
    (n, o, [])

/-- An `amo` of the management core, on device memory (R337; assumption 12, DESIGN CHOICE); an uncorrectable error leaves memory as it is and rd
a free value (assumption 173, DESIGN CHOICE). -/
def State.sysAmo (s : State) (op : BitVec 4) (size : Nat) (d : XReg) (a : Nat) (b : Word) : State :=
  if inHbm a size && !s.eccError then
    let (new, out, _) := amoStep op size (leNat (s.devBytes a size)) b (s.getX d)
    (s.putPlain a (leBytes size new)).setX d (w64 out)
  else let (v, s) := s.draw; s.setX d v

/-- The body of an `amo` (R217). -/
def amoBody (op : BitVec 4) (d a b : XReg) (sz ord : BitVec 2) (s : State) : Except Stop State :=
  if s.sysMode then .ok (s.sysAmo op (2 ^ sz.toNat) d (s.getX a).toNat (s.getX b))
  else if s.memWaits then .error (.block .fullPort)
  else
    let va := (s.getX a).toNat
    let size := 2 ^ sz.toNat
    if va % size ≠ 0 then .error (.trap .misaligned (w64 va) 0)
    else
      match s.issueAccess s.issue (.amo op size ord d (s.getX b) (s.getX d)) [{ va, len := size }] none with
      | .ok t => .ok (if d = 0 then t else t.modCur fun k => { k with pendX := k.pendX ++ [d.toNat] })
      | .error e => .error e

/-- An `amo` word. -/
def runAmo (op : BitVec 4) (d a b : XReg) (sz ord : BitVec 2) (g : PReg) (s : State) : Out :=
  runWord g [d, a, b] [] (amoBody op d a b sz ord) s

/-- `amo.op.size[.ord] rd, [ra], rb` (R218, R219). -/
def execAmoAdd (d a b : XReg) (sz o : BitVec 2) (g : PReg) (s : State) : Out := runAmo 0 d a b sz o g s
def execAmoAnd (d a b : XReg) (sz o : BitVec 2) (g : PReg) (s : State) : Out := runAmo 1 d a b sz o g s
def execAmoOr (d a b : XReg) (sz o : BitVec 2) (g : PReg) (s : State) : Out := runAmo 2 d a b sz o g s
def execAmoXor (d a b : XReg) (sz o : BitVec 2) (g : PReg) (s : State) : Out := runAmo 3 d a b sz o g s
def execAmoMin (d a b : XReg) (sz o : BitVec 2) (g : PReg) (s : State) : Out := runAmo 4 d a b sz o g s
def execAmoMax (d a b : XReg) (sz o : BitVec 2) (g : PReg) (s : State) : Out := runAmo 5 d a b sz o g s
def execAmoMinn (d a b : XReg) (sz o : BitVec 2) (g : PReg) (s : State) : Out := runAmo 6 d a b sz o g s
def execAmoMaxn (d a b : XReg) (sz o : BitVec 2) (g : PReg) (s : State) : Out := runAmo 7 d a b sz o g s
def execAmoSwap (d a b : XReg) (sz o : BitVec 2) (g : PReg) (s : State) : Out := runAmo 8 d a b sz o g s
def execAmoCas (d a b : XReg) (sz o : BitVec 2) (g : PReg) (s : State) : Out := runAmo 9 d a b sz o g s
def execAmoTas (d a b : XReg) (sz o : BitVec 2) (g : PReg) (s : State) : Out := runAmo 10 d a b sz o g s
def execAmoFadd (d a b : XReg) (sz o : BitVec 2) (g : PReg) (s : State) : Out := runAmo 11 d a b sz o g s

/-! ## vamo (R221 to R223) -/

/-- The operation of a `vamo`. -/
def vamoOp (c : Cmd) : BitVec 3 := c.s4.extractLsb' 5 3
/-- The formats an operation accepts. -/
def vamoFmt (op : Nat) (t : BitVec 5) : Bool := if op < 3 then t == 0x0A || t == 0x0E || t == 1 else t == 0x11

/-- The elements of a `vamo` to perform, and how many values among them are fallow. -/
def vamoElems (c : Cmd) (iss : Issue) (s : State) (t : BitVec 5) : List (Nat × Nat × BitVec 32) × Nat :=
  let base := (iss.getX (slotX c.s1)).toNat
  let vs := (s.block iss c c.s2).flatMap fun v => fields 32 v.data
  let ix := if c.s3 = 0 then List.range vs.length else (s.block iss c c.s3).flatMap fun v => fields 32 v.data
  let all := ((vs.zip ix).zipIdx.map fun ((v, i), k) => (k, i, v)).filter fun (_, i, _) => c.s3 = 0 ∨ i ≠ 0xFFFFFFFF
  let (there, gone) := all.partition fun (_, _, v) => presentBits t v
  (there.map fun (k, i, v) => (k, base + 4 * i, BitVec.ofNat 32 v), gone.length)

/-- Under hint 5 every element lies in the tile's own scratchpad (R40). -/
def vamoPlaces (c : Cmd) (iss : Issue) (s : State) (t : BitVec 5) : Except Stop Unit :=
  match if c.hint = 5 then ((vamoElems c iss s t).1).find? fun (_, a, _) => !State.checkAccess.inOwn iss { va := a, len := 4 } else none with
  | some (_, a, _) => .error (.trap .protect (w64 a) 0)
  | none => .ok ()

def chkVamo (c : Cmd) (iss : Issue) (s : State) : Except Stop Unit := do
  checkBlocks c (if c.s3 = 0 then [c.s2] else [c.s2, c.s3]) iss s
  let t ← checkTags c (s.block iss c c.s2)
  need (vamoFmt (vamoOp c).toNat t) .formatMismatch
  need (c.s3 == 0 || ((s.block iss c c.s3).all fun v => v.tag == 0x0E)) .formatMismatch
  needAt ((iss.getX (slotX c.s1)).toNat % 4 == 0) .misaligned (iss.getX (slotX c.s1)).toNat
  if !(s.tile iss.tile).owesV (namedV (.vamo c) c) then vamoPlaces c iss s t
  if (s.tile iss.tile).freeLog.isNone then .error (.block .operandLog) else .ok ()

def effVamo (c : Cmd) (iss : Issue) (s : State) : Except Stop State := do
  let t ← checkTags c (s.block iss c c.s2)
  vamoPlaces c iss s t
  match (s.tile iss.tile).freeLog with
  | none => .error (.block .operandLog)
  | some e =>
    let (elems, gone) := vamoElems c iss s t
    let id := (s.tile iss.tile).nextAcc
    let reply := if c.s5 = 0 then Reply.none else .vc iss.tile (slotN c.s5)
    let a : Access := { id, iss, olog := some e, entry := some e, kind := .vamo (vamoOp c) t elems 0 reply, pieces := [], parked := false }
    let s := s.modTile iss.tile fun T => { T with accesses := T.accesses ++ [a], nextAcc := id + 1 }
    .ok ((s.bump iss cFallowIn gone).post .atomicAtNode { tile := iss.tile, id })

/-- `vamo.op.fmt [xb], vs[, vidx]` (R222). -/
def execVamo (c : Cmd) (s : State) : Out := issueCommand (.vamo c) c [] (chkVamo c) (effVamo c) s

/-- One element at its node: the new word and the counters raised. -/
def vamoStep (op : Nat) (t : BitVec 5) (old v : Nat) : Nat × List Nat :=
  match op with
  | 3 => (old &&& v, [])
  | 4 => (old ||| v, [])
  | 5 => (old ^^^ v, [])
  | _ =>
    if !presentBits t old then (v, [])
    else
      let a := decodeVal t old
      let b := decodeVal t v
      let r := roundVal t 0 false 0 false (match op with | 0 => exactAdd 0 a b | 1 => minVal a b | _ => maxVal a b)
      (r.code, laneCounts t r.counts)

/-- An `amo` may execute: it stands as a store in its task's order, the tile's dirty bytes of its line are written back (R216), and a
release has performed (R220). -/
def amoReady (T : Tile) (a : Access) (ord : BitVec 2) : Bool :=
  storeReady T a && barKept T a.iss a.bar && (!ord.getLsbD 1 || releasedAt T a.iss a.id true) &&
  !T.storePath.any fun b => overlaps b.locs (a.locs.map fun (l, n) => match l with
    | .dev pa v sc => (.dev (pa / 64 * 64) v sc, 64)
    | _ => (l, n))

/-- ATOMIC_AT_NODE (R214, R218, R219, R222): an atomic, or the next element of a `vamo`, executes as one step at the node that owns its
word. -/
def execAtomicAtNode (s : State) : Out :=
  happening .atomicAtNode (fun s =>
    let t := s.focus.tile
    match s.here.access? s.focus.id with
    | none => none
    | some a =>
      match a.kind with
      | .amo op size ord rd b cmp =>
        if !amoReady s.here a ord then none
        else if s.eccError then some (s.accessFails a .ecc a.va 0 (some a) false)
        else
          let s := if ord.getLsbD 0 then s.acquireL1 t else s.dropL1 t (plainLines a.locs)
          let old := leNat (s.readLocs a.locs)
          let (new, out, counts) := amoStep op size old b cmp
          let s := (s.modTile t fun T => T.dropAccess a.id).writeLocs a.locs (leBytes size new)
          some ((s.bumpAll a.iss counts).retire a.iss rd (w64 out))
      | .vamo op fmt elems done reply =>
        if a.parked || s.here.accesses.any fun b => sameTask b.iss a.iss && decide (b.id < a.id) && b.kind.isVamo then none
        else
          match elems with
          | [] =>
            let s := s.modTile t fun T => T.dropAccess a.id
            some (match reply with | .vc u vc => s.sendWord u vc (w64 done) | _ => s)
          | (_, va, v) :: rest =>
            let ps : List Piece := [{ va, len := 4 }]
            match s.tryLocate a.iss a.kind ps false with
            | .ok (some locs) =>
              if s.eccError then some ((s.modTile t fun T => T.dropAccess a.id).engineFails a.iss .ecc (w64 va) a.kind.vamoAux false) else
              let old := leNat (s.readLocs locs)
              let (new, counts) := vamoStep op.toNat fmt old v.toNat
              let s := (s.writeLocs locs (leBytes 4 new)).bumpAll a.iss counts
              some ((s.modTile t fun T => T.modAccess a.id fun a => { a with kind := .vamo op fmt rest (done + 1) reply }).post
                .atomicAtNode s.focus)
            | .ok none =>
              -- a miss of the micro-TLB parks the element (R180)
              let pooled := s.needsWalk a.iss ps
              if pooled && s.poolFull t then none
              else some ((s.modTile t fun T => T.modAccess a.id fun a => { a with parked := true, pooled, pieces := ps }).post .pageWalkDone s.focus)
            | .error (code, va) => some (s.accessFails a code va a.kind.vamoAux (some a) true)
      | _ => none) s

end Sys2Proof.Machine
end

