-- ==== Sys2Proof/Machine/Chain.lean ====
section
/-! DEFINITION. The commands of class 0x2 (R136 to R142, R385): `vcfg`, the edits of the chain image, and `vrun`. -/
namespace Sys2Proof.Machine
open Sys2Proof

/-! ## The chain image -/

/-- No check beyond an encoding's. -/
def chkNothing (_ : Issue) (_ : State) : Except Stop Unit := .ok ()

/-- Count a chained command that does not fuse (R41). -/
def unfused (c : Cmd) (iss : Issue) (s : State) : State := if c.chain = 1 then s.setStat iss 16 else s

/-- Change the chain image of a tile, or, while the array runs a stream, the image that follows it (R142). -/
def State.editChain (s : State) (t : TileId) (f : ChainImage → ChainImage) : State :=
  s.modTile t fun T => if T.stream.isSome then { T with chainNext := some (f (T.chainNext.getD T.chain)) } else { T with chain := f T.chain }

/-- Put a router word at a boundary. -/
def ChainImage.setRouter (c : ChainImage) (b : Nat) (w : BitVec 32) : ChainImage :=
  if h : b < 7 then { c with routers := c.routers.set b w } else c
/-- Remove the router of a kind at a boundary. -/
def ChainImage.dropRouter (c : ChainImage) (b kind : Nat) : ChainImage :=
  if h : b < 7 then (if rKind c.routers[b] = kind then { c with routers := c.routers.set b 0 } else c) else c

/-- An immediate 0, which removes a steer or a carry. -/
def isZeroImm (s : BitVec 16) : Bool := isImm s && immN s == 0

/-- `vstr b, t, id` (R138, R272): a steer at boundary b with its target and id. -/
def vstrEdit (c : Cmd) (i : ChainImage) : ChainImage :=
  let b := immN c.s1
  let id := immN c.s3 % 4
  if isZeroImm c.s2 then i.dropRouter b 1
  else if isVc c.s2 then i.setRouter b (BitVec.ofNat 32 (1 * 2 ^ 29 + 7 * 2 ^ 26 + (slotN c.s2).val * 2 ^ 22 + id * 2 ^ 20))
  else i.setRouter b (BitVec.ofNat 32 (1 * 2 ^ 29 + immN c.s2 % 8 * 2 ^ 26 + id * 2 ^ 20))
/-- `vmrg b, in2, pair` (R139, R272). -/
def vmrgEdit (c : Cmd) (i : ChainImage) : ChainImage :=
  let b := immN c.s1
  let pair := immN c.s3
  if pair = 7 then i.dropRouter b 2
  else i.setRouter b (BitVec.ofNat 32 (2 * 2 ^ 29 + pair * 2 ^ 26 + (if c.s2 = 0 then 0 else (slotN c.s2).val * 2 ^ 22 + 2 ^ 21)))
/-- `vcar b, vcN` (R140, R272). -/
def vcarEdit (c : Cmd) (i : ChainImage) : ChainImage :=
  if isVc c.s2 then i.setRouter (immN c.s1) (BitVec.ofNat 32 (3 * 2 ^ 29 + (slotN c.s2).val * 2 ^ 22)) else i.dropRouter (immN c.s1) 3
/-- `vjoin s, ltq, gtq` (R141, R270): the J field of the element of a stage; both slots 0x0000 remove it. -/
def vjoinEdit (c : Cmd) (i : ChainImage) : ChainImage :=
  let st := immN c.s1
  let j : BitVec 18 := if c.s2 = 0 ∧ c.s3 = 0 then 0 else BitVec.ofNat 6 (immN c.s3) ++ BitVec.ofNat 12 (immN c.s2)
  if h : st < 6 then { i with elems := i.elems.set st (i.elems[st].extractLsb' 39 25 ++ j ++ i.elems[st].extractLsb' 0 21) } else i

/-- An edit of the chain image takes its effect (R142). -/
def effEdit (f : Cmd → ChainImage → ChainImage) (c : Cmd) (iss : Issue) (s : State) : Except Stop State :=
  .ok ((unfused c iss s).editChain iss.tile (f c))
def effVstr (c : Cmd) : Issue → State → Except Stop State := effEdit vstrEdit c
def effVmrg (c : Cmd) : Issue → State → Except Stop State := effEdit vmrgEdit c
def effVcar (c : Cmd) : Issue → State → Except Stop State := effEdit vcarEdit c
def effVjoin (c : Cmd) : Issue → State → Except Stop State := effEdit vjoinEdit c
def execVstr (c : Cmd) (s : State) : Out := issueCommand (.vstr c) c [] chkNothing (effVstr c) s
def execVmrg (c : Cmd) (s : State) : Out := issueCommand (.vmrg c) c [] chkNothing (effVmrg c) s
def execVcar (c : Cmd) (s : State) : Out := issueCommand (.vcar c) c [] chkNothing (effVcar c) s
def execVjoin (c : Cmd) (s : State) : Out := issueCommand (.vjoin c) c [] chkNothing (effVjoin c) s

/-- Constants an image names (R385). -/
def ChainImage.named (c : ChainImage) : List Nat :=
  c.elems.toList.filterMap fun w => if eOp w = 0 ∨ opNoConst (eOp w) ∨ eCidx w = 0x3F then none else some (eCidx w)

/-- The image `vcfg` loads, or why it does not (R136, R385): alignment, the tile's own scratchpad, res0 fields. -/
def readVcfg (xa : Nat) (iss : Issue) (s : State) : Except Stop ChainImage := do
  needAt (decide (xa % 16 = 0)) .misaligned xa
  let share := Config.spShare (s.tile iss.tile).split
  match ownOffset iss xa with
  | none => .error (.trap .protect (w64 xa) 0)
  | some off =>
    needAt (decide (off + 80 ≤ share)) .protect xa
    needAt (!s.eccError) .ecc xa
    let sp := (s.tile iss.tile).sp
    let bs := Memory.read sp off 80
    let img := chainOf bs [] [] 0
    let far := img.named.find? fun e => decide (share < off + 128 + 4 * e + 4)
    match far with
    | some e => .error (.trap .protect (w64 (xa + 128 + 4 * e)) 0)
    | none =>
      needAt (img.res0 && leNat (bs.drop 78) == 0) .illegalField xa
      .ok { img with consts := img.named.eraseDups.map fun e => (e, BitVec.ofNat 32 (leNat (Memory.read sp (off + 128 + 4 * e) 4))) }

/-- Every stage free and no stream (R119). -/
def arrayFree (T : Tile) : Except Stop Unit :=
  if T.stream.isSome ∨ T.stages.toList.any Option.isSome then .error (.block .engineBusy) else .ok ()

def vcfgAddr (c : Cmd) (iss : Issue) : Nat := (iss.getX (slotX c.s1)).toNat
/-- `vcfg [xa]`: the image is loaded; the array is held until it is valid (R146). -/
def chkVcfg (c : Cmd) (iss : Issue) (s : State) : Except Stop Unit := do
  let _ ← readVcfg (vcfgAddr c iss) iss s
  arrayFree (s.tile iss.tile)
def effVcfg (c : Cmd) (iss : Issue) (s : State) : Except Stop State := do
  arrayFree (s.tile iss.tile)
  let img ← readVcfg (vcfgAddr c iss) iss s
  let s := (unfused c iss s).modTile iss.tile fun T => { T with chain := img, stages := Vector.replicate 6 (some iss.no) }
  .ok ((List.range 6).foldl (fun s u => s.post .laneStageResult { tile := iss.tile, unit := u }) s)
def execVcfg (c : Cmd) (s : State) : Out := issueCommand (.vcfg c) c [] (chkVcfg c) (effVcfg c) s

/-! ## vrun -/

/-- The chain image a `vrun` will run (R142): as it stands once a running stream has ended, and, in an open clause, after the edits and
`vcfg` commands held before it. -/
def State.chainAhead (s : State) (iss : Issue) : ChainImage :=
  let T := s.tile iss.tile
  let i := T.chainNext.getD T.chain
  if iss.wave = 0xFF then i
  else T.held.foldl (fun i h => match h.instr with
    | .vstr c => vstrEdit c i
    | .vmrg c => vmrgEdit c i
    | .vcar c => vcarEdit c i
    | .vjoin c => vjoinEdit c i
    | .vcfg c => match readVcfg (vcfgAddr c h.iss) h.iss s with | .ok j => j | .error _ => i
    | _ => i) i

/-- The source VC of a `vrun`, and its wave count: none until EOT. -/
def vrunSrc (c : Cmd) : Option SlotId := if isVc c.s2 then some (slotN c.s2) else none
def vrunCount (c : Cmd) (iss : Issue) : Option Nat := let n := iss.xOrImm c.s3 0; if n = 0 then none else some n

/-- The happenings a stream owes while it runs. -/
def State.postStream (s : State) (t : TileId) : State :=
  [Instr.elementFire, .steerRoute, .mergeTake, .carryTake].foldl (fun s i => s.postOnce i { tile := t, unit := 255 }) s

/-- The checks of `vrun` (R67, R104, R137): extents, no q6 source, the x count, a consistent image, a free array. -/
def chkVrun (c : Cmd) (iss : Issue) (s : State) : Except Stop Unit := do
  checkBlocks c [c.s1, c.s2] iss s
  need (!isV c.s2 || (s.block iss c c.s2).all (·.tag != 7)) .formatMismatch
  need (!isX c.s3 || (isVc c.s2 && decide ((iss.getX (slotX c.s3)).toNat < 2 ^ 32))) .illegalField
  need ((s.chainAhead iss).ok (s.isBuffer iss.tile) (vrunSrc c)) .illegalField
  arrayFree (s.tile iss.tile)

/-- `vrun.tag dst, src[, n]`: the array runs the image as it stands (R137, R142). -/
def effVrun (c : Cmd) (iss : Issue) (s : State) : Except Stop State := do
  arrayFree (s.tile iss.tile)
  need ((s.tile iss.tile).chain.ok (s.isBuffer iss.tile) (vrunSrc c)) .illegalField
  let src := if isV c.s2 then s.block iss c c.s2 else []
  let tag : BitVec 5 := if c.tag ≠ 0 then c.tag else if isV c.s2 then (src.head?.map (·.tag)).getD 0 else 0x11
  let dst := if isV c.s1 then blockRegs c (slotV c.s1) else []
  let dvc := if isVc c.s1 then some (slotN c.s1) else none
  let x : Stream := { use := .vrun iss (src.map (·.data)) dst dvc (vrunSrc c) (vrunCount c iss) tag, img := (s.tile iss.tile).chain }
  let s := (unfused c iss s).setStream iss.tile x
  .ok ((s.postStream iss.tile).postOnce .vrunEnd { tile := iss.tile })
def execVrun (c : Cmd) (s : State) : Out := issueCommand (.vrun c) c [] (chkVrun c) (effVrun c) s

end Sys2Proof.Machine
end

