-- ==== Sys2Proof/Machine/System.lean ====
section
/-! DEFINITION. Control registers (R344 to R346), `trap`, `brk`, `wdg`, the context words and what runs a save and a restore (R353 to
R357), the return from a fault (R342), fault records (R338), engine faults (R343, R399), the watchdog (R350). -/
namespace Sys2Proof.Machine
open Sys2Proof

/-! ## csr -/

/-- Which mesh links a tile's router has (R12, R345). -/
def linksOf (t : TileId) : Nat :=
  (if rowOf t = 0 then 0 else 1) + (if colOf t = 63 then 0 else 2) + (if rowOf t = 15 then 0 else 4) + (if colOf t = 0 then 0 else 8)

/-- The `lrect` register (R314). -/
def Context.lrect (c : Context) : Nat :=
  match c.launch with
  | some (b, sp) => b.toNat + (if sp then 65536 else 0) + c.tenant % 512 * 2 ^ 17
  | none => c.tenant % 512 * 2 ^ 17

/-- The `mc` register of a slot (R314). -/
def mcOf (t : TileId) (bed : BitVec 16) : Nat :=
  t.val + bed.toNat * 2 ^ 10 + ((rowOf t - bedOrigin bed / 64) * bedWidth bed + (colOf t - bedOrigin bed % 64)) % 1024 * 2 ^ 26

/-- The control registers of R345; a tile without a context reads its context registers as 0. -/
def State.csrRead (s : State) (n : Nat) : Option Word :=
  let k := s.cur
  let c := fun (f : Context → Nat) => some (w64 (((s.tileCtx s.focus.tile).map f).getD 0))
  if n = 0x000 then some k.stat
  else if n = 0x001 then some (w64 k.cls.bits)
  else if n = 0x002 then some (k.win.setWidth 64)
  else if n = 0x003 then some (s.here.lfsr.setWidth 64)
  else if n = 0x004 then c Context.lrect
  else if n = 0x005 then some (w64 (mcOf s.focus.tile k.bed))
  else if n = 0x006 then some (w64 (s.mpend s.focus.tile))
  else if n = 0x007 then c (·.pairto.toNat)
  else if n = 0x008 then c (·.vto.toNat)
  else if n = 0x009 then c (·.cptab.toNat)
  else if n = 0x00A then c (·.cpcnt.toNat)
  else if h : 0x00B ≤ n ∧ n ≤ 0x00E then some (s.mcbWord s.focus.tile ⟨n - 0x00B, by omega⟩)
  else if n = 0x00F then some (w64 (linksOf s.focus.tile))
  else if n = 0x010 then c (·.wdgl)
  else if n = 0x011 then c (·.wdgc)
  else if n = 0x012 then c (·.num)
  else if n = 0x013 then some (s.here.phase.setWidth 64)
  else if n = 0x014 then some (w64 k.job)
  else if h : 0x020 ≤ n ∧ n ≤ 0x02F then some ((k.cnt[n - 0x020]'(by omega)).setWidth 64)
  else none

/-- The registers a task may write (R345). -/
def csrWritable (n : Nat) : Bool :=
  n == 0x000 || n == 0x003 || n == 0x007 || n == 0x008 || n == 0x009 || n == 0x00A || (decide (0x020 ≤ n) && decide (n ≤ 0x02F))

/-- A write of the seed register (R101): 0 turns into 1. -/
def State.setSeed (s : State) (t : TileId) (v : Word) : State :=
  let w := v.extractLsb' 0 32
  s.modTile t fun T => { T with lfsr := if w = 0 then 1 else w }

/-- SEED_WRITE (R101): the seed register of the tile in focus is written. -/
def execSeedWrite (v : Word) (s : State) : Out := .next (s.setSeed s.focus.tile v)

/-- Write a control register: its res0 bits are cleared, its other fields checked against their limits (R344, R345). -/
def State.csrWrite (s : State) (n : Nat) (v : Word) : Except Stop State :=
  let ctx := s.ctxNum
  let within := fun (lo hi : Nat) (f : Context → Context) =>
    if lo ≤ v.toNat ∧ v.toNat ≤ hi then .ok (s.modCtx ctx f) else .error (trapWith .illegalField)
  if n = 0x000 then .ok (s.modCur fun k => { k with stat := v &&& 0x7FFFF })
  else if n = 0x003 then .ok (s.setSeed s.focus.tile v)
  else if n = 0x007 then within 256 (2 ^ 24) fun c => { c with pairto := v }
  else if n = 0x008 then within 4096 (2 ^ 28) fun c => { c with vto := v }
  else if n = 0x009 then
    if v.toNat % 64 = 0 then .ok (s.modCtx ctx fun c => { c with cptab := v &&& 0xFFFFFFFFFFFFF }) else .error (trapWith .illegalField)
  else if n = 0x00A then
    if v.toNat % 8192 ≤ 4096 then .ok (s.modCtx ctx fun c => { c with cpcnt := v &&& 0x1FFF }) else .error (trapWith .illegalField)
  else if h : 0x020 ≤ n ∧ n ≤ 0x02F then
    .ok (s.modCur fun k => { k with cnt := k.cnt.set (n - 0x020) (v.extractLsb' 0 32) (by omega) })
  else .ok s

/-- A `csr` of the management core, whose control registers are not described (R337): rd takes a free value.
Assumption 12 (DESIGN CHOICE). -/
def State.sysCsr (s : State) (d : XReg) : State := let (v, s) := s.draw; s.setX d v

/-- The body of a writing `csr`: `f` makes the new value from the old one and x[ra] (R344). -/
def csrBody (f : Word → Word → Word) (d a : XReg) (n : BitVec 11) (s : State) : Except Stop State :=
  if s.sysMode then .ok (s.sysCsr d)
  else
    match s.csrRead n.toNat with
    | none => .error (trapWith .illegalField)
    | some old =>
      if !csrWritable n.toNat then .error (trapWith .protect)
      else (s.csrWrite n.toNat (f old (s.getX a))).map (·.setX d old)

/-- `csr.r rd, name`. -/
def execCsrR (d : XReg) (n : BitVec 11) (g : PReg) (s : State) : Out :=
  runWord g [d] [] (fun s =>
    if s.sysMode then .ok (s.sysCsr d)
    else match s.csrRead n.toNat with
    | none => .error (trapWith .illegalField)
    | some old => .ok (s.setX d old)) s
/-- `csr.w rd, name, ra`. -/
def execCsrW (d a : XReg) (n : BitVec 11) (g : PReg) (s : State) : Out := runWord g [d, a] [] (csrBody (fun _ x => x) d a n) s
/-- `csr.s rd, name, ra`. -/
def execCsrS (d a : XReg) (n : BitVec 11) (g : PReg) (s : State) : Out := runWord g [d, a] [] (csrBody (fun o x => o ||| x) d a n) s
/-- `csr.c rd, name, ra`. -/
def execCsrC (d a : XReg) (n : BitVec 11) (g : PReg) (s : State) : Out := runWord g [d, a] [] (csrBody (fun o x => o &&& ~~~x) d a n) s

/-! ## trap, brk, wdg -/

/-- `trap ra, code` (R347): the word's effect is to stop the task precisely. -/
def execTrap (a : XReg) (c : BitVec 10) (g : PReg) (s : State) : Out :=
  runWord g [a] [] (fun s => .error (.trap (.soft c) 0 (s.getX a))) s

/-- Whether debugging is enabled for the context in focus (R348). -/
def State.debugging (s : State) : Bool := match s.tileCtx s.focus.tile with | some c => c.debug | none => false

/-- `brk code` (R348): it carries no guard. -/
def execBrk (c : BitVec 16) (s : State) : Out :=
  runWord 0 [] [] (fun s => if !s.sysMode && s.debugging then .error (.trap .brk 0 (c.setWidth 64)) else .ok s) s

/-- `wdg rd, ra` (R349). -/
def execWdg (d a : XReg) (g : PReg) (s : State) : Out :=
  runWord g [d, a] [] (fun s =>
    if s.sysMode then .ok s
    else
      match s.tileCtx s.focus.tile with
      | none => .ok (s.setX d 0)
      | some c =>
        let v := (s.getX a).toNat
        if a = 0 then .ok (s.setX d (w64 c.wdgl))
        else if v < 2 ^ 16 ∨ c.wdCeiling < v then .error (trapWith .illegalField)
        else .ok ((s.modCtx c.num fun c => { c with wdgl := v }).setX d (w64 c.wdgl))) s

/-! ## kil -/

/-- `kil.j rd, ra` (R352): blights a job of the issuing context; naming the task's own job ends the task. -/
def execKilJ (d a : XReg) (g : PReg) (s : State) : Out :=
  runWord g [d, a] [] (fun s =>
    if s.sysMode then .ok s
    else
      let n := (s.getX a).toNat % 2 ^ 48
      match s.tileCtx s.focus.tile with
      | none => .error (trapWith .illegalField)
      | some c =>
        if n = 0 ∨ c.lastJob < n then .error (trapWith .illegalField)
        else
          match c.job? n with
          | none => .ok (s.setX d 0)
          | some j =>
            if !j.incomplete then .ok (s.setX d 0)
            else
              let s := s.setX d 1
              let e : EngineFault := { id := 0, iss := { s.issue with job := n }, code := .blighted, addr := 0, aux := 6, toTask := false }
              .ok ((s.engineRecord e (some s.focus.slot) false 4).blightJob c.num n .blighted)) s

/-- A word that only system mode runs: in a task it traps (R337, R353). -/
def runPrivileged (g : PReg) (xs : List XReg) (body : State → Except Stop State) (s : State) : Out :=
  runWord g xs [] (fun s => if s.sysMode then body s else .error (trapWith .protect)) s

/-- `kil.c rd, ra` (R353, R358). -/
def execKilC (d a : XReg) (g : PReg) (s : State) : Out :=
  runPrivileged g [d, a] (fun s =>
    let n := (s.getX a).toNat % 1024
    match s.ctx? n with
    | some c => if c.live then .ok ((s.killContext n none 3).setX d 0) else .ok (s.setX d 2)
    | none => .ok (s.setX d 2)) s

/-! ## Saving and restoring a context -/

/-- What a save still waits for in a tile (R354, steps 2 to 7); what a FAULTED slot has still to report is saved with it. -/
def Tile.quiet (T : Tile) : Bool :=
  T.accesses.isEmpty && T.slots.toList.all (fun k => k.late.isEmpty || k.status == .faulted) &&
  T.stages.toList.all Option.isNone && !T.held.any (·.released) &&
  (match T.mcst with | some m => m.accepted.isEmpty | none => true) &&
  T.ag.toList.all (fun n => match n.cmd with | some a => !a.started | none => true) && T.matSettled

/-- Whether a blight of a context has steps left (R351, R354): a cancelled job whose reply is owed, or a graph it stops. -/
def Context.blighting (c : Context) : Bool :=
  c.jobs.any (fun j => j.state == .cancelled && !j.replied) || (match c.stopping with | some x => x.force | none => false)

/-- Whether a context's save may write its image: its units have finished what R354 lets them finish. -/
def State.saveReady (s : State) (c : Context) : Bool :=
  !c.blighting &&
  c.tiles.all (fun t => (s.tile t).quiet && !s.canIssue t && s.vrunSettled t) &&
  !s.allCopies.any (fun k => k.iss.ctx == c.num && (k.dst == .mem || k.blighted)) &&
  !s.walks.any (fun w => w.iss.ctx == c.num) && !s.engineFaults.any (fun e => e.iss.ctx == c.num) &&
  c.ports.all (fun p => p.serving.isNone || p.faulted || p.stuck) && !c.loading && c.regions.all (fun e => !e.rotating || e.frozen) && c.starting.isNone

/-- The header of an image (R355), without its valid bit. -/
def imageHeader (c : Context) (len : Nat) : List Byte :=
  leBytes 4 0x58435A4C ++ leBytes 2 1 ++ leBytes 2 c.num ++ leBytes 8 0 ++ leBytes 8 len ++ leBytes 8 (c.lrect % 2 ^ 26) ++ leBytes 32 0

/-- A tile as an image holds it: no L1 line and no translation, a pair timeout by what is left of it since the save began, and the stall of a
multicast's branch by how long it has lasted (R237, R354, R355, R360). -/
def Tile.atRest (T : Tile) (c : Context) (clk : Nat) : Tile :=
  { T with l1 := [], utlb := [], lastWord := false, holds := T.holds.map (·.map (clk - ·)), pairDeadline := T.pairDeadline.map fun d => min (d - ((c.saving.getD 0) - c.saveLimit)) c.pairto.toNat }

/-- Write a context's image and clear its tiles (R354, R355, R359); the length is a free value.
Assumption 115 (DESIGN CHOICE). -/
def State.writeImage (s : State) (c : Context) : State :=
  let ts := c.tiles
  let copies := (List.finRange 8).flatMap fun d => (List.finRange 64).filterMap fun n =>
    let ch := s.dies[d].ch[n]
    let mine := ch.q.filter fun k => k.iss.ctx == c.num
    let bind := match ch.bind with | some (t, _) => ts.contains t | none => false
    if mine.isEmpty && !bind then none else some (d.val, n.val, { ch with q := mine, bind := if bind then ch.bind else none })
  let flits := s.demand.filter fun d => match d.port with | .sink k .. | .oper k .. | .source k .. | .soft k .. => k == c.num
  let (len, s) := s.draw
  let img : SavedImage := {
    addr := c.saveArea, ctx := { c with saving := none, submits := [] }, tiles := ts.map fun t => (t, (s.tile t).atRest c s.clk), copies
    reservations := s.reservations.filter (·.ctx == c.num), demand := flits, valid := true }
  let s := { s with
    saved := s.saved.filter (fun (x : SavedImage) => x.addr != c.saveArea) ++ [img]
    reservations := s.reservations.filter (·.ctx != c.num)
    mem := Memory.set (Memory.write s.mem c.saveArea (imageHeader c len.toNat)) (c.saveArea + 8) 1 }
  ((s.purge c.num ts).clearTiles ts).modCtx c.num fun c => { c with saving := none, resident := false }

/-- A save begins (R354, R356): its limit counts, and each sequencer that is within a word stops behind it (R73). -/
def State.beginSave (s : State) (c : Context) : State :=
  let s := s.modCtx c.num fun c => { c with saving := some (s.clk + c.saveLimit) }
  c.tiles.foldl (fun s t => s.modTile t fun T => { T with lastWord := T.slots.toList.any (·.status == .running) }) s

/-- One attempt at a save (R353, R354): the status, or none while it has still to wait. -/
def State.trySave (s : State) (n : Nat) : Option Nat × State :=
  match s.ctx? n with
  | none => (some 2, s)
  | some c =>
    match c.saveResult with
    | some r => (some r, s.modCtx n fun c => { c with saveResult := none })
    | none =>
      if !c.live || !c.resident then (some 2, s)
      else
        let s := if c.saving.isSome then s
          else (s.beginSave c).postOnce .saveLimitExpiry { ctx := n }
        let c := (s.ctx? n).getD c
        -- a save past its limit ends by the kill alone (R356)
        let late := match c.saving with | some d => decide (d ≤ s.clk) | none => false
        if !late && s.saveReady c then (some 0, s.writeImage c) else (none, s)

/-- The core in focus is BLOCKED at a word (R353): the word stays before the others it holds and is tried again. -/
def State.holdCore (s : State) (w : Word32) : State :=
  let s := s.modCore fun c => { c with words := w :: c.words, pc := c.pc - 4 }
  if s.pending.contains (.core s.focus.die) then s else { s with pending := s.pending ++ [.core s.focus.die] }

/-- `ctxs rd, ra` (R353, R354): its core is BLOCKED until the status is there. -/
def execCtxs (d a : XReg) (g : PReg) (s : State) : Out :=
  runPrivileged g [d, a] (fun s =>
    match s.trySave ((s.getX a).toNat % 1024) with
    | (some r, s) => .ok (s.setX d (w64 r))
    | (none, s) => .ok (match encodeWord (.ctxs d a g) with | some w => s.holdCore w | none => s)) s

/-- SAVE_LIMIT_EXPIRY (R356): a save that has run past its limit kills its context. -/
def execSaveLimitExpiry (s : State) : Out :=
  happening .saveLimitExpiry (fun s =>
    match s.ctx? s.focus.ctx with
    | none => none
    | some c =>
      match c.saving with
      | some d => if d ≤ s.clk then some (s.killContext c.num (some .saveLimit) 1) else none
      | none => none) s

/-- The header bytes of an image as memory holds them now. -/
def State.imageWord (s : State) (a off n : Nat) : Nat := leNat (Memory.read s.mem (a + off) n)

/-- A barrier's state. -/
def Context.barrier (c : Context) (bed : BitVec 16) (id : Nat) : Barrier :=
  (c.barriers.find? fun b => b.bed == bed && b.id == id).getD { bed, id, gen := 0, arrivals := [] }
/-- Replace a barrier. -/
def Context.setBarrier (c : Context) (b : Barrier) : Context :=
  { c with barriers := c.barriers.filter (fun x => !(x.bed == b.bed && x.id == b.id)) ++ [b] }
/-- A barrier holds a unit entry while an arrival is outstanding (R328). -/
def Barrier.outstanding (b : Barrier) : Bool := b.arrivals.any fun a => decide (b.gen < a.count)
/-- Barriers outstanding at the unit of a die (R327): those of resident contexts. -/
def State.barriersAt (s : State) (d : DieId) : Nat :=
  (s.contexts.flatMap fun c : Context => c.barriers.filter fun b => c.resident && b.outstanding && dieOf ⟨bedOrigin b.bed % 1024, by omega⟩ == d).length

/-- The 16 bytes of an entry of the barrier mailbox (R330): bed word, id, whether it is an arrival, tile, VC, generation.
Assumption 114 (DESIGN CHOICE). -/
def BarLog.bytes (e : BarLog) : List Byte :=
  leBytes 2 e.bed.toNat ++ leBytes 1 e.id ++ leBytes 1 (if e.arrival then 1 else 0) ++ leBytes 2 e.tile.val ++ leBytes 2 e.vc.val ++ leBytes 8 e.gen
/-- Whether the mailbox takes n more entries. -/
def Context.mailRoom (c : Context) (n : Nat) : Bool := decide (c.barLog.length + n ≤ 4096)
/-- Write an entry to a context's barrier mailbox (R330), which stands in its save area behind the image's header.
Assumption 114 (DESIGN CHOICE). -/
def State.logBarrier (s : State) (n : Nat) (e : BarLog) : State :=
  match s.ctx? n with
  | none => s
  | some c =>
    { s with mem := Memory.write s.mem (c.saveArea + 64 + 16 * c.barLog.length) e.bytes }.modCtx n fun c => { c with barLog := c.barLog ++ [e] }

/-- Replay a context's barrier mailbox (R330): the logged arrivals, then the logged completion words, each in its logged order.
Assumption 114 (DESIGN CHOICE). -/
def State.replayBarriers (s : State) (n : Nat) : State :=
  match s.ctx? n with
  | none => s
  | some c =>
    let s := s.modCtx n fun c => { c with barLog := [] }
    let s := (c.barLog.filter (·.arrival)).foldl (fun s e => s.modCtx n fun c =>
      let b := c.barrier e.bed e.id
      c.setBarrier { b with arrivals := b.arrivals.filter (·.tile != e.tile) ++ [{ tile := e.tile, count := e.gen, vc := e.vc, slot := 0, epoch := 0, upto := 0 }] }) s
    (c.barLog.filter (!·.arrival)).foldl (fun s b => s.sendWord b.tile b.vc (w64 (b.id * 2 ^ 46 + b.gen % 2 ^ 32))) s

/-- What one tile of a restored context owes. -/
def State.offerTile (s : State) (t : TileId) : State :=
  let T := s.tile t
  let s := (List.finRange 16).foldl (fun s k =>
    let v := T.vcs[k]
    let s := if (T.slot k).status = .blocked then s.postOnce .slotUnblock { tile := t, slot := k } else s
    let s := if (T.slot k).status = .idle ∧ !(s.vchan t (T.slot k).vc).q.isEmpty then s.postOnce .taskStart { tile := t, slot := k } else s
    let s := if (T.slot k).late.isEmpty then s else s.postOnce .lateFault { tile := t, slot := k }
    let s := if v.waiting.isEmpty then s else s.postOnce .flitSend { tile := t, unit := k.val }
    if v.q.isEmpty then s else match s.vcChan t k with
      | some (_, _, ch) => if chanLanding ch.desc = 1 then s.postOnce .streamBufferLanding { tile := t, unit := k.val } else s
      | none => s) s
  let s := s.kickMat t 32
  let s := if (s.readyPair t).isSome then
      (s.postOnce .pairStageArrive { tile := if isHome t then t else partner t }).postOnce .pairTimeout { tile := t }
    else s
  let s := (List.finRange 4).foldl (fun s n => if (T.ag[n]).cmd.isSome then s.postOnce .agValueReturn { tile := t, unit := n.val } else s) s
  let s := if T.stream.isSome then
      [Instr.elementFire, .steerRoute, .mergeTake, .carryTake, .rotSwap].foldl (fun s i => s.postOnce i { tile := t, unit := 255 }) s
    else s
  let s := match T.stream with | some { use := .vrun .., .. } => s.postOnce .vrunEnd { tile := t } | _ => s
  if T.held.any (·.released) then s.postOnce .clauseCommandEnqueue { tile := t } else s

/-- What a restored context owes (R357): its tasks, jobs, barriers, ports and graph go on where they stood. -/
def State.offerContext (s : State) (n : Nat) : State :=
  match s.ctx? n with
  | none => s
  | some c =>
    let s := c.tiles.foldl (fun s t => s.offerTile t) s
    let f : Focus := { ctx := n }
    let s := c.jobs.foldl (fun s j =>
      let g : Focus := { ctx := n, id := j.num }
      let s := if j.replied then s else s.postOnce .jobComplete g
      let s := j.toDeliver.foldl (fun s t => s.postOnce .triggerDeliver { g with tile := t }) s
      if j.card.bal && j.state == .issuing then (s.postOnce .balanceDispatch g).postOnce .balanceTrigger g else s) s
    let s := ((s.postOnce .jobSelect { die := c.home }).postOnce .conditionReeval f).postOnce .presenceReport f
    let s := if c.submits.isEmpty then s else s.postOnce .jobAdmit f
    let s := c.barriers.foldl (fun s b => s.postOnce .barrierComplete { ctx := n, unit := b.bed.toNat, id := b.id }) s
    let s := c.ports.foldl (fun s p =>
      let g : Focus := { ctx := n, port := p.port }
      let s := s.postOnce .portServe g
      let s := if p.posts.isEmpty then s else s.postOnce .sourcePost g
      let s := p.landed.foldl (fun s _ => s.post .sinkEotAccept g) s
      match p.port, p.cuts with
      | .oper _ _ t _, _ :: _ => s.postOnce .cuttingWrite { g with tile := t }
      | _, _ => s) s
    let s := (List.finRange 4).foldl (fun s g => match c.gslots[g] with
      | some G => G.chans.zipIdx.foldl (fun s (ch, j) =>
          if ch.graftQ.isEmpty then s else s.postOnce .graftForward { ctx := n, unit := g.val, id := j }) s
      | none => s) s
    let s := if c.stopping.isSome then s.postOnce .graphStopped f else s
    let s := if c.records.isEmpty then s else s.postOnce .faultRecordWrite f
    s.postOnce .watchdogExpiry f

/-- Restore a context from its save area (R357): the status and the state. Saved slots that were RUNNING are READY; BLOCKED slots issue
their word again (R73), but one whose task waits for its window has not started and goes on waiting (R52). What firmware has done to the
context while it was saved, such as a card admitted, stands. -/
def State.tryRestore (s : State) (n : Nat) : Nat × State :=
  match s.ctx? n with
  | none => (5, s)
  | some c =>
    let a := c.saveArea
    if s.eccError then (FaultCode.ecc.val, s)
    else if s.imageWord a 8 1 % 2 = 0 then (4, s)
    else if s.imageWord a 0 4 ≠ 0x58435A4C ∨ s.imageWord a 4 2 ≠ 1 ∨ s.imageWord a 6 2 ≠ n then (5, s)
    else
      match s.saved.find? (·.addr == a) with
      | none => (4, s)
      | some img =>
        if img.ctx.tenant ≠ c.tenant ∨ img.ctx.num ≠ n then (5, s)
        else if img.tiles.any (fun (t, _) => match (s.tile t).owner with
            | some o => o != n || c.resident | none => false) then (6, s)
        else
          let wake := fun (T now : Tile) => { T with
            istore := now.istore
            pairDeadline := T.pairDeadline.map (· + s.clk)
            holds := T.holds.map (·.map (s.clk - ·))
            slots := T.slots.map fun (k : Slot) =>
              if k.status == .running || (k.status == .blocked && k.wait != .window) then { k with status := .ready, wait := .none, run := 0 } else k }
          let s := img.tiles.foldl (fun s (t, T) => s.modTile t (wake T)) s
          let s := img.copies.foldl (fun s (d, k, ch) =>
            if h : d < 8 ∧ k < 64 then
              let die : DieId := ⟨d, h.1⟩
              let s := s.modDie die fun D => { D with ch := D.ch.set k { D.ch[k]'h.2 with bind := ch.bind, q := (D.ch[k]'h.2).q ++ ch.q } h.2 }
              ch.q.foldl (fun s q => s.offerCopy q) s
            else s) s
          let s := { s with
            reservations := s.reservations ++ img.reservations
            demand := s.demand ++ img.demand
            saved := s.saved.filter (fun x => x.addr != a)
            mem := Memory.set s.mem (a + 8) 0
            contexts := s.contexts.map fun (k : Context) => if k.num = n then
              let was := if k.live then k else img.ctx
              { was with
                resident := true, live := true, submits := [], records := k.records, produced := k.produced, consumed := k.consumed
                regions := was.regions.map fun (e : GraphRegion) => { e with frozen := false } } else k }
          let s := img.demand.foldl (fun s d => s.postOnce (if d.cancel then .cancelFlit else .demandInsert) { id := d.id, ctx := n }) s
          (0, (s.replayBarriers n).offerContext n)

/-- `ctxr rd, ra` (R353, R357); an image whose header cannot be read is invalid.
Assumption 173 (DESIGN CHOICE). -/
def execCtxr (d a : XReg) (g : PReg) (s : State) : Out :=
  runPrivileged g [d, a] (fun s =>
    let (r, s) := s.tryRestore ((s.getX a).toNat % 1024)
    .ok (s.setX d (w64 (if r = FaultCode.ecc.val then 4 else r)))) s

/-! ## The return from a fault (R342) -/

/-- Resume a FAULTED slot: `retry` issues the word or the logged access again, otherwise it is passed over. -/
def State.resumeSlot (s : State) (t : TileId) (k : SlotId) (retry : Bool) : State :=
  let q := s.slot t k
  match q.status, q.fault with
  | .faulted, some fi =>
    let go := fun (s : State) (pc : BitVec 16) => s.modSlot t k fun q => { q with status := .ready, wait := .none, fault := none, run := 0, pc }
    if fi.late then
      let s := go s fi.rpc
      match fi.access with
      | none =>
        match fi.cmd with
        | some (_, i, iss) =>
          if retry then
            (s.modTile t fun T => { T with held := { instr := i, iss, released := true } :: T.held }).postOnce .clauseCommandEnqueue { tile := t }
          else s
        | none => s
      | some a =>
        if retry then
          let again : Instr := match a.kind with | .vamo .. => .atomicAtNode | _ => .pageWalkDone
          (s.modTile t fun T => { T with accesses := T.accesses ++ [{ a with parked := again == .pageWalkDone, tileDone := false, olog := a.entry }] }).postOnce again
            { tile := t, id := a.id }
        else
          match a.kind with
          | .load rd _ | .amo _ _ _ rd _ _ => s.modSlot t k fun q => { q with pendX := q.pendX.erase rd.toNat }
          | _ => s
    else if fi.code = .brk then go s (fi.pc + 4)
    else if retry || fi.fallThrough then go s (if fi.inClause then fi.rpc else fi.pc)
    else if fi.inClause then
      let n := q.cls.remaining - 1
      let s := s.modSlot t k fun q => { q with cls := { q.cls with remaining := n, isOpen := n != 0 } }
      if n = 0 then
        let s := s.modTile t fun T => { T with held := T.held.map fun h => if h.iss.slot = k then { h with released := true } else h }
        go (if (s.tile t).held.isEmpty then s else s.postOnce .clauseCommandEnqueue { tile := t }) (fi.pc + BitVec.ofNat 16 fi.len)
      else go s fi.rpc
    else go s (fi.pc + BitVec.ofNat 16 fi.len)
  | _, _ => s

/-! ## Records and engine faults -/

/-- FAULT_RECORD_WRITE (R338, R362): once the accesses before it have performed, the containment unit writes the oldest queued record, with
its sequence number, then `produced`, and notifies the management core.
Assumption 173 (DESIGN CHOICE). -/
def execFaultRecordWrite (s : State) : Out :=
  happening .faultRecordWrite (fun s =>
    match s.ctx? s.focus.ctx with
    | none => none
    | some c =>
      match c.records with
      | [] => none
      | r :: rest =>
        -- a read of `consumed` that meets an uncorrectable error leaves the value last read
        let consumed := if s.eccError then c.consumed else s.ringConsumed c
        if decide (256 ≤ c.produced - consumed) || r.after.any (fun (t, n) => ((s.tile t).accesses.any fun a => a.id == n && a.iss.ctx == c.num)) then none
        else
          let seq := c.produced + 1
          let bytes := leBytes 56 r.bits.toNat ++ leBytes 8 seq
          let mem := Memory.write (Memory.write s.mem (c.ring + 64 + 64 * ((seq - 1) % 256)) bytes) c.ring (leBytes 8 seq)
          let s := { s with mem }.modCtx c.num fun k => { k with records := rest, produced := seq, consumed }
          let s := { s with cores := s.cores.set c.home { s.cores[c.home] with notified := (c.num, seq) :: s.cores[c.home].notified } }
          some (if rest.isEmpty then s else s.postOnce .faultRecordWrite s.focus)) s

/-- RING_CONSUMED_WRITE (R338): software stores `consumed`; the unit reads it before its next record, and at once while the ring is full
(`State.tick`). -/
def execRingConsumedWrite (v : Word) (s : State) : Out :=
  happening (.ringConsumedWrite v) (fun s =>
    match s.ctx? s.focus.ctx with
    | none => none
    | some c => some { s with mem := Memory.write s.mem (c.ring + 8) (leBytes 8 v.toNat) }) s

/-- ENGINE_FAULT (R343, R399): an engine's fault goes late to the task that started it, or blights its job. -/
def execEngineFault (s : State) : Out :=
  happening .engineFault (fun s =>
    match s.engineFaults.find? fun e => e.id == s.focus.id with
    | none => none
    | some e =>
      let s := { s with engineFaults := s.engineFaults.filter (·.id != e.id) }
      if e.toTask && s.alive e.iss then
        some (s.addLate e.iss.tile e.iss.slot { code := e.code, addr := e.addr, pc := e.iss.pc, olog := none, engine := true, aux := e.aux, access := none })
      else some (s.blightWork e)) s

/-! ## The watchdog (R350) -/

/-- The cause of a wait in a context record (R341). -/
def Wait.cause : Wait → Nat
  | .none => 0
  | .pendingReg .. => 1 | .busyRegs .. => 1
  | .fullPort => 2
  | .operandLog => 2
  | .window => 3
  | .presence _ => 4
  | .version .. => 5
  | .coalescer _ => 6
  | .phase _ => 7
  | .barrier .. => 8
  | .hwQueue .. => 9
  | .drain .. => 10
  | .clause => 12
  | .scheduler => 13
  | .demandPort => 14
  | .fence .. => 15
  | .graphCmd => 16
  | .tableFull => 17
  | .engineBusy => 18 | .agNode _ => 18

/-- The cause of a slot's wait (R341): a fence behind an access that wave order holds waits for the wave, the lower number of its two. -/
def State.waitCause (s : State) (t : TileId) (k : SlotId) (q : Slot) : Nat :=
  match q.wait with
  | .fence _ _ upto =>
    let T := s.tile t
    if T.accesses.any fun a => !a.iss.auto && a.iss.slot == k && a.iss.epoch == q.epoch && decide (a.id < upto) && a.notAtTile && waveHolds T a then 11
    else 15
  | w => w.cause

/-- The BLOCKED slots of a context, by tile and slot. -/
def State.blockedSlots (s : State) (c : Context) : List (TileId × SlotId × Slot) :=
  c.tiles.flatMap fun t => (List.finRange 16).filterMap fun k => if (s.slot t k).status = .blocked then some (t, k, s.slot t k) else none

/-- The one that has waited longest, the first among equals. -/
def longestWait : List (TileId × SlotId × Slot) → Option (TileId × SlotId × Slot)
  | [] => none
  | x :: l => match longestWait l with
    | none => some x
    | some y => if x.2.2.since ≤ y.2.2.since then some x else some y

/-- Whether the watchdog counts (R350, R292, R338, R356, R380). -/
def State.wdgCounts (s : State) (c : Context) : Bool :=
  s.ctxRuns c && s.dies.toList.all (fun d => !d.changing) && s.dies[c.home].power != .s1 &&
  (c.jobs.any Job.issued || c.ports.any (fun p => !p.held.isEmpty) ||
    s.demand.any (fun d => !d.cancel && portCtx d.port == c.num) || !(s.blockedSlots c).isEmpty)

/-- WATCHDOG_EXPIRY (R350): the count has reached its limit; a context record names the BLOCKED slot that has waited longest, every
incomplete job is blighted, and the count returns to 0. -/
def execWatchdogExpiry (s : State) : Out :=
  happening .watchdogExpiry (fun s =>
    match s.ctx? s.focus.ctx with
    | none => none
    | some c =>
      if !s.ctxRuns c || decide (c.wdgc < c.wdgl) then none
      else
        let after := (c.jobs.filter (·.incomplete)).flatMap fun j => s.jobAccesses c.num j.num
        let s := match longestWait (s.blockedSlots c) with
          | some (t, k, q) => s.contextRecord c.num FaultCode.watchdog.val t.val k.val q.pc.toNat (s.waitCause t k q) q.job q.cls after
          | none =>
            let (f, s) := s.draw
            s.contextRecord c.num FaultCode.watchdog.val (f.toNat % 1024) 0xFF 0 0 (after := after)
        let s := (c.jobs.filter (·.incomplete)).foldl (fun s j => s.blightJob c.num j.num .watchdog) s
        some ((s.modCtx c.num fun c => { c with wdgc := 0 }).postOnce .watchdogExpiry s.focus)) s

end Sys2Proof.Machine
end

