-- ==== Sys2Proof/Machine/Sched.lean ====
section
/-! DEFINITION. Tasks, jobs, barriers and phases (R68 to R71, R90, R168, R312 to R336): the sequencer's slots, the scheduler's happenings,
and the words `tend`, `bar`, `phs`, `lead`, `dep`, `jsub`, `tbnd`. -/
namespace Sys2Proof.Machine
open Sys2Proof

/-! ## Beds and scopes (R312, R313) -/

/-- A well-formed bed word (R312). -/
def bedOk (w : Word) : Bool :=
  w.extractLsb' 16 48 == 0 &&
  (let b : BitVec 16 := w.extractLsb' 0 16
   decide ((b.extractLsb' 13 3).toNat ≤ 4) && decide ((b.extractLsb' 10 3).toNat ≤ 6) &&
   bedOrigin b % 64 % bedWidth b == 0 && bedOrigin b / 64 % bedHeight b == 0)

/-- Whether a well-formed bed lies inside another. -/
def bedInside (a b : BitVec 16) : Bool :=
  let c0 := bedOrigin a % 64
  let r0 := bedOrigin a / 64
  let d0 := bedOrigin b % 64
  let e0 := bedOrigin b / 64
  decide (d0 ≤ c0) && decide (c0 + bedWidth a ≤ d0 + bedWidth b) && decide (e0 ≤ r0) && decide (r0 + bedHeight a ≤ e0 + bedHeight b)

/-- Whether a bed lies inside the aligned group of 2^w × 2^h tiles about its origin. -/
def bedWithin (b : BitVec 16) (w h : Nat) : Bool :=
  decide (bedOrigin b % 64 % 2 ^ w + bedWidth b ≤ 2 ^ w) && decide (bedOrigin b / 64 % 2 ^ h + bedHeight b ≤ 2 ^ h)

/-- A bed's covering scope, as R201 codes it (R313): the smallest of tile (2), pair, quad, blk16, blk64 and die (16 × 8 tiles, R10) whose
aligned group about the origin holds the bed, else pkg. -/
def bedScope (b : BitVec 16) : Nat :=
  if bedWithin b 0 0 then 2
  else if bedWithin b 1 0 then 3
  else if bedWithin b 1 1 then 4
  else if bedWithin b 2 2 then 5
  else if bedWithin b 3 3 then 6
  else if bedWithin b 4 3 then 7
  else 8

/-! ## The job card (R315, R316) -/

/-- A 64-bit field of a card's bytes. -/
def cardWord (bs : List Byte) (off : Nat) : Nat := leNat ((bs.drop off).take 8)

/-- A region entry. -/
def regionAt (bs : List Byte) (off : Nat) : Region := { base := cardWord bs off, len := cardWord bs (off + 8) }
/-- The check of a region entry. -/
def regionOk (r : Region) : Bool :=
  decide (r.base < 2 ^ 52) && decide (r.len < 2 ^ 32) && decide (r.base + r.len ≤ 2 ^ 52) && (r.len != 0 || r.base == 0)

/-- A condition entry: none where it is unused. -/
def condAt (bs : List Byte) (off : Nat) : Option Condition :=
  let a := cardWord bs off
  if a / 2 ^ 63 = 0 then none else some { va := a % 2 ^ 52, ver := cardWord bs (off + 8), ge := a / 2 ^ 62 % 2 == 1 }
/-- The check of a condition entry. -/
def condOk (bs : List Byte) (off : Nat) : Bool :=
  let a := cardWord bs off
  let v := cardWord bs (off + 8)
  if a / 2 ^ 63 = 0 then a == 0 && v == 0 else a / 2 ^ 52 % 1024 == 0 && a % 8 == 0 && decide (v < 2 ^ 32)

/-- A window inside the grid (R44, R52). -/
def winOk (w : Nat) : Bool := decide (w % 8 + w / 64 % 8 ≤ 7) && decide (w / 8 % 8 + w / 512 % 8 ≤ 7)

/-- Check 3 of R316: a card's fields, or none where one is malformed. -/
def parseCard (bs : List Byte) : Option Card :=
  let a := cardWord bs 0
  let b := cardWord bs 8
  let d := cardWord bs 32
  let caddr := cardWord bs 40
  let cv := cardWord bs 48
  let isBed := a / 2 ^ 12 % 2 == 1
  let bal := a / 2 ^ 11 % 2 == 1
  let target : BitVec 16 := BitVec.ofNat 16 (a / 65536)
  let ckind := d % 4
  let ok :=
    a / 2 ^ 13 % 8 == 0 && a / 2 ^ 36 == 0 &&
    (if isBed then bedOk (target.setWidth 64) else target.extractLsb' 10 6 == 0) && (!bal || isBed) &&
    b % 4 == 0 && winOk (b / 65536 % 4096) && b / 2 ^ 28 == 0 && cardWord bs 16 / 2 ^ 48 == 0 &&
    ckind != 3 && (ckind == 1 || d / 4 % 2 ^ 14 == 0) && d / 65536 == 0 &&
    (if ckind = 2 then caddr % 8 == 0 && decide (cv < 2 ^ 32) else caddr == 0 && cv == 0) && leNat ((bs.drop 56).take 8) == 0 &&
    (List.range 16).all (fun k => regionOk (regionAt bs (64 + 16 * k))) && (List.range 4).all (fun k => condOk bs (320 + 16 * k))
  if !ok then none
  else some {
    tenant := a % 512, prio := a / 512 % 4, bal, isBed, target, vc := ⟨a / 2 ^ 32 % 16, by omega⟩
    entry := BitVec.ofNat 16 b, win := BitVec.ofNat 12 (b / 65536), work := cardWord bs 16, trigger := w64 (cardWord bs 24)
    ckind, ctile := ⟨d / 4 % 1024, by omega⟩, cvc := ⟨d / 2 ^ 12 % 16, by omega⟩, caddr, cver := cv
    reads := ((List.range 8).map fun k => regionAt bs (64 + 16 * k)).filter (·.len != 0)
    writes := ((List.range 8).map fun k => regionAt bs (192 + 16 * k)).filter (·.len != 0)
    conds := (List.range 4).filterMap fun k => condAt bs (320 + 16 * k) }

/-- Checks 1 to 3 of R316 on the card at an address.
Assumption 123 (DEDUCED). -/
def State.readCard (s : State) (ctx : Nat) (t : TileId) (va : Nat) : Except Stop Card := do
  needAt (va % 128 == 0) .misaligned va
  match s.locateRange ctx t va 384 { read := true } with
  | .error (c, a) => .error (.trap c (w64 a) 0)
  | .ok locs => do
    needAt (locs.all fun (l, _) => match l with | .dev _ v _ => !v | .host _ => true | _ => false) .protect va
    needAt (!s.eccError) .ecc va
    match parseCard (s.readLocs locs) with
    | some c => .ok c
    | none => .error (.trap .illegalField (w64 va) 0)

/-- Check 4 of R316. -/
def checkOwner (c : Context) (k : Card) (va : Nat) : Except Stop Unit :=
  match c.launch with
  | none => .error (.trap .protect (w64 va) 0)
  | some (b, _) =>
    needAt (k.tenant == c.tenant && bedInside k.bed b && (k.ckind != 1 || inBed b k.ctile.val)) .protect va

/-! ## Admission (R316 to R318) -/

/-- Queue slots and counters a tenant uses. -/
def State.quotaUsed (s : State) (tenant : Nat) : Nat × Nat :=
  let js := (s.contexts.filter fun c => c.tenant == tenant).flatMap fun c => c.jobs.filter (·.incomplete)
  (js.length, (js.filter (·.counter)).length)
/-- A tenant's quota: nothing until firmware sets it.
Assumption 120 (DEDUCED). -/
def State.quotaOf (s : State) (tenant : Nat) : Nat × Nat :=
  match s.quotas.find? (·.tenant == tenant) with
  | some q => (q.slots, q.counters)
  | none => (0, 0)

/-- Two regions share a byte. -/
def Region.meets (a b : Region) : Bool := decide (a.base < b.base + b.len) && decide (b.base < a.base + a.len)
/-- Whether a later card takes an edge from an earlier one (R318). -/
def edgeFrom (e l : Card) : Bool :=
  e.writes.any (fun w => l.reads.any w.meets || l.writes.any w.meets) || e.reads.any fun r => l.writes.any r.meets

/-- Whether a card's inputs are resident (R319): its counter is 0, its conditions hold, and the presence bits over its scratchpad
reads are set.
Assumption 119 (DESIGN CHOICE). -/
def State.condHolds (s : State) (c : Context) (t : TileId) (k : Condition) : Bool :=
  match s.locate c.num t k.va { read := true, versioned := true } with
  | .ok (.dev pa _ _) =>
    let w := s.vword pa
    if k.ge then decide (k.ver ≤ w.newest.1) else (assocGet w.versions k.ver).isSome
  | _ => false
/-- The fault of a condition that can no longer hold (R319). -/
def State.condDead (s : State) (c : Context) (t : TileId) (k : Condition) : Option FaultCode :=
  match s.locate c.num t k.va { read := true, versioned := true } with
  | .ok (.dev pa _ _) =>
    let w := s.vword pa
    let nw := w.newest.1
    if k.ge then
      if decide (nw < k.ver) && w.never.any (fun u => decide (k.ver ≤ u)) && !s.reservedFrom pa k.ver then some .versionNever else none
    else if (assocGet w.versions k.ver).isSome then none
    else if k.ver < w.floor then some .versionReclaimed
    else if w.never.contains k.ver ∨ k.ver ≤ nw then some .versionNever
    else none
  | _ => none
/-- The job whose condition's word reads with an uncorrectable error (R19): the first of those a look at them reads. -/
def State.condStruck (s : State) (c : Context) : Option Nat :=
  if s.eccError then
    (c.jobs.find? fun j => j.state == .waiting && j.card.conds.any fun k =>
      match s.locate c.num ⟨bedOrigin j.card.bed % 1024, by omega⟩ k.va { read := true, versioned := true } with
      | .ok (.dev ..) => true
      | _ => false).map (·.num)
  else none
/-- The scratchpad words a read region covers, with their tiles. -/
def State.regionWords (_s : State) (card : Card) (r : Region) : List (TileId × Nat) :=
  if Config.ownSpBase ≤ r.base then
    (bedTiles card.bed).flatMap fun t => (presenceWords (r.base - Config.ownSpBase) r.len).map fun w => (t, w)
  else if h : Config.spBase ≤ r.base ∧ r.base < Config.spEnd then
    let n : TileId := ⟨(r.base - Config.spBase) / Config.spStride, by
      simp only [Config.spBase, Config.spEnd, Config.spStride] at h ⊢; omega⟩
    (presenceWords ((r.base - Config.spBase) % Config.spStride) r.len).map fun w => (n, w)
  else []
/-- A card is ready (R319). -/
def State.jobReady (s : State) (c : Context) (j : Job) : Bool :=
  let t : TileId := ⟨bedOrigin j.card.bed % 1024, by omega⟩
  j.edges.isEmpty && j.card.conds.all (s.condHolds c t) &&
  j.card.reads.all fun r => (s.regionWords j.card r).all fun (u, w) => !c.holds u.val || (s.tile u).present.contains w

/-- Look again at the waiting cards of a context: note since when each has been ready, and blight those that never can be, and the one
whose condition's word reads with an error. -/
def State.refreshJobs (s : State) (ctx : Nat) : State :=
  match s.ctx? ctx with
  | none => s
  | some c =>
    let s := s.modCtx ctx fun k => { k with jobs := k.jobs.map fun j =>
      if j.state = .waiting then
        { j with readyAt := if s.jobReady c j then (match j.readyAt with | some n => some n | none => some s.clk) else none }
      else j }
    (c.jobs.filter fun j => j.state == .waiting).foldl (fun s j =>
      let t : TileId := ⟨bedOrigin j.card.bed % 1024, by omega⟩
      match (if s.condStruck c = some j.num then some .ecc else j.card.conds.findSome? (s.condDead c t)) with
      | some code =>
        let (f, s) := s.draw
        let s := s.queueRecord ctx (faultRecord code.val 2 0 (f.toNat % 1024) 0xFF 0xFF 0 0 0 0 j.num 6 ctx c.tenant)
        s.blightJob ctx j.num code
      | none => s) s

/-- Admit a card that has passed the checks (R316 to R318): the status word and the state. -/
def State.takeCard (s : State) (c : Context) (card : Card) (addr : Word) (sub : Option (TileId × SlotId × Nat × Nat)) : Word × State :=
  let edges := ((c.jobs.filter (·.incomplete)).filter fun e => edgeFrom e.card card).map (·.num)
  let need := !edges.isEmpty
  let (us, uc) := s.quotaUsed c.tenant
  let (qs, qc) := s.quotaOf c.tenant
  if qs ≤ us ∨ (need ∧ qc ≤ uc) then (replyWord 0x60 0, s)
  else
    let n := c.lastJob + 1
    let j : Job := {
      num := n, card, addr, state := .waiting, edges, counter := need, readyAt := none, toDeliver := [], tasks := 0, dispatched := none
      started := false, computed := 0, sub }
    let s := s.modCtx c.num fun k => { k with jobs := k.jobs ++ [j], lastJob := n }
    let s := (s.postOnce .jobSelect { die := c.home })
    let s := if card.conds.isEmpty then s else s.postOnce .conditionReeval { ctx := c.num }
    let s := if card.reads.isEmpty then s else s.postOnce .presenceReport { ctx := c.num }
    (replyWord 0 n, s.refreshJobs c.num)

/-- The card of a `jsub`, past the checks of R316. -/
def State.submitCheck (s : State) (va : Nat) : Except Stop (Context × Card) := do
  match s.tileCtx s.focus.tile with
  | none => .error (.trap .xlate (w64 va) 0)
  | some c => do
    let card ← s.readCard c.num s.focus.tile va
    checkOwner c card va
    .ok (c, card)

/-- `jsub rd, [ra]` (R316): the checks are precise; the slot waits for the scheduler's answer. -/
def execJsub (d a : XReg) (g : PReg) (s : State) : Out :=
  runGuarded g [d, a] [] (fun s =>
    if s.sysMode then .next (s.advance 4)
    else if s.memWaits then .next (s.blockSlot .fullPort)
    else
      match s.submitCheck (s.getX a).toNat with
      | .error e => .next (s.stop 4 e)
      | .ok (c, card) =>
        .next (((s.blockSlot .scheduler).modCtx c.num fun c => { c with
          submits := c.submits ++ [(s.focus.tile, s.focus.slot, d, card, s.getX a)] }).postOnce .jobAdmit { ctx := c.num })) s

/-- JOB_ADMIT (R316, R317): the scheduler answers the oldest submission; its slot goes on at the next word. One whose slot no longer waits is
dropped. -/
def execJobAdmit (s : State) : Out :=
  happening .jobAdmit (fun s =>
    match s.ctx? s.focus.ctx with
    | none => none
    | some c =>
      match c.submits with
      | [] => none
      | (t, k, d, card, addr) :: rest =>
        let q := s.slot t k
        let s := s.modCtx c.num fun c => { c with submits := rest }
        let s := if q.status = .blocked ∧ q.wait = .scheduler then
            let (w, s) := s.takeCard c card addr (some (t, k, q.epoch, (s.tile t).nextAcc))
            (s.modSlot t k (·.setX d w)).completeWord t k 4
          else s
        some (if rest.isEmpty then s else s.postOnce .jobAdmit s.focus)) s

/-- Whether looking at the cards of a context again would change anything (R319). -/
def State.cardsMove (s : State) (c : Context) : Bool :=
  (s.condStruck c).isSome || c.jobs.any fun j => j.state == .waiting &&
    (s.jobReady c j != j.readyAt.isSome || (j.card.conds.findSome? (s.condDead c ⟨bedOrigin j.card.bed % 1024, by omega⟩)).isSome)

/-- Look at the cards again, and keep watching while a card waits. -/
def watchCards (i : Instr) (cares : Card → Bool) (s : State) : Out :=
  happening i (fun s =>
    match s.ctx? s.focus.ctx with
    | none => none
    | some c =>
      if !c.jobs.any (fun j => j.state == .waiting && cares j.card) then some s
      else if s.cardsMove c then some ((s.refreshJobs c.num).postOnce i s.focus)
      else none) s

/-- CONDITION_REEVAL (R319): a version at a watched word may make a card ready, or rule it out. -/
def execConditionReeval (s : State) : Out := watchCards .conditionReeval (fun c => !c.conds.isEmpty) s
/-- PRESENCE_REPORT (R319): presence bits over a read region may make a card ready, or no longer ready. -/
def execPresenceReport (s : State) : Out := watchCards .presenceReport (fun c => !c.reads.isEmpty) s

/-! ## Selection and issue (R320, R321) -/

/-- A card's effective priority. -/
def Job.priority (j : Job) (clk : Nat) : Nat := min 3 (j.card.prio + (clk - j.readyAt.getD clk) / 4096)

/-- The cards a die may select. -/
def State.readyCards (s : State) (d : DieId) : List (Context × Job) :=
  (s.contexts.filter fun c => c.home == d && c.selecting && s.ctxRuns c).flatMap fun c =>
    (c.jobs.filter fun j => j.state == .waiting && j.readyAt.isSome && s.jobReady c j).map fun j => (c, j)

/-- The element with the least key, the first among equals. -/
def leastBy {α : Type} (key : α → Nat) : List α → Option α
  | [] => none
  | x :: l => match leastBy key l with
    | none => some x
    | some y => if key x ≤ key y then some x else some y

/-- The card a die selects (R320): highest effective priority, next tenant in turn, lowest context, lowest job. -/
def State.pickCard (s : State) (d : DieId) : Option (Context × Job) :=
  let all := s.readyCards d
  match leastBy (fun x => 3 - x.2.priority s.clk) all with
  | none => none
  | some top =>
    let level := top.2.priority s.clk
    let served := s.dies[d].served[level]?.getD 511
    leastBy (fun x => (x.1.tenant + 1023 - served) % 512 * 2 ^ 58 + x.1.num * 2 ^ 48 + x.2.num)
      (all.filter fun x => x.2.priority s.clk == level)

/-- JOB_SELECT (R320, R321): a die's scheduler selects one ready card and issues it. -/
def execJobSelect (s : State) : Out :=
  happening .jobSelect (fun s =>
    let d := s.focus.die
    match s.pickCard d with
    | none =>
      if (s.contexts.filter fun c => c.home == d).any fun c => c.jobs.any fun j => j.state == .waiting then none else some s
    | some (c, j) =>
      let level := j.priority s.clk
      let s := s.modDie d fun D => { D with served := if h : level < 4 then D.served.set level c.tenant h else D.served }
      let tiles := if j.card.bal then [] else bedTiles j.card.bed
      let s := s.modJob c.num j.num fun j => { j with state := .issuing, toDeliver := tiles }
      let s := tiles.foldl (fun s t => s.postOnce .triggerDeliver { ctx := c.num, id := j.num, tile := t }) s
      let s := if j.card.bal then s.postOnce .balanceDispatch { ctx := c.num, id := j.num } else s
      some ((s.postOnce .jobComplete { ctx := c.num, id := j.num }).postOnce .jobSelect s.focus)) s

/-- The submitter's earlier ordinary accesses have performed at pkg (R335). -/
def State.submitted (s : State) (j : Job) : Bool :=
  match j.sub with
  | some (t, k, e, n) => releasedAt (s.tile t) { s.issueOf t k with epoch := e } n true
  | none => true

/-- Put a job's trigger word on a VC of a tile, binding a slot where none is bound (R321). -/
def State.deliver (s : State) (t : TileId) (j : Job) : State :=
  let s := match (s.tile t).boundTo j.card.vc, (s.tile t).freeSlot with
    | none, some k => s.bindSlot t k j.card j.addr true
    | _, _ => s
  s.sendTrigger t j.card.vc j.card.trigger j.num j.addr

/-- TRIGGER_DELIVER (R321, R335): a trigger word reaches the VC of a target tile. -/
def execTriggerDeliver (s : State) : Out :=
  happening .triggerDeliver (fun s =>
    let t := s.focus.tile
    match s.ctx? s.focus.ctx with
    | none => none
    | some c =>
      match c.job? s.focus.id with
      | none => none
      | some j =>
        if j.state ≠ .issuing ∨ !j.toDeliver.contains t then some s
        else if !s.ctxRuns c || !s.submitted j || !s.vcRoom t j.card.vc then none
        else
          let s := s.deliver t j
          some (s.modJob c.num j.num fun j => { j with
            toDeliver := j.toDeliver.erase t, tasks := j.tasks + 1
            state := if (j.toDeliver.erase t).isEmpty then .running else .issuing })) s

/-! ## Balance jobs (R168, R322) -/

/-- BALANCE_DISPATCH (R168): a balance job is assigned to the bed's array with the least pending work. -/
def execBalanceDispatch (s : State) : Out :=
  happening .balanceDispatch (fun s =>
    match s.job? s.focus.ctx s.focus.id with
    | none => none
    | some j =>
      if j.state ≠ .issuing ∨ !j.card.bal ∨ j.dispatched.isSome then some s
      else
        match leastBy s.mpend (bedTiles j.card.bed) with
        | none => none
        | some t =>
          let s := s.modJob s.focus.ctx j.num fun j => { j with dispatched := some t }
          let s := s.postOnce .balanceTrigger { ctx := s.focus.ctx, id := j.num }
          some ((bedTiles j.card.bed).foldl (fun s u => s.postOnce .balanceSteal { ctx := s.focus.ctx, tile := u }) s)) s

/-- BALANCE_TRIGGER (R322): the trigger goes to the assigned tile once its matrix queue is empty and it runs no other balance job. -/
def execBalanceTrigger (s : State) : Out :=
  happening .balanceTrigger (fun s =>
    match s.ctx? s.focus.ctx with
    | none => none
    | some c =>
      match c.job? s.focus.id with
      | none => none
      | some j =>
        match j.state, j.dispatched with
        | .issuing, some t =>
          if !s.ctxRuns c || !s.submitted j || !(s.tile t).matQ.isEmpty || (s.tile t).balance.isSome || !s.vcRoom t j.card.vc then none
          else
            let s := (s.deliver t j).modTile t fun T => { T with balance := some j.num }
            some (s.modJob c.num j.num fun j => { j with tasks := 1, state := .running })
        | _, _ => some s) s

/-- A balance job assigned to a tile whose trigger has not been delivered: it may be stolen (R322). -/
def Job.stealable (j : Job) : Bool := j.card.bal && j.state == .issuing && j.dispatched.isSome

/-- BALANCE_STEAL (R168, R322): an array with nothing queued takes the oldest undelivered job of the bed array that owes most.
Assumption 122 (DESIGN CHOICE). -/
def execBalanceSteal (s : State) : Out :=
  happening .balanceSteal (fun s =>
    let t := s.focus.tile
    match s.ctx? s.focus.ctx with
    | none => none
    | some c =>
      let open_ := c.jobs.filter Job.stealable
      if open_.isEmpty then some s
      else if !(s.tile t).matQ.isEmpty || c.jobs.any (fun j => j.card.bal && j.incomplete && !j.started && j.dispatched == some t) then none
      else
        let mine := open_.filter fun j => inBed j.card.bed t.val
        match leastBy (fun j => 2 ^ 49 - (match j.dispatched with | some u => s.mpend u | none => 0)) mine with
        | none => none
        | some j => some ((s.modJob c.num j.num fun j => { j with dispatched := some t }).postOnce .balanceSteal s.focus)) s

/-! ## Completion (R323) -/

/-- Send a job's completion reply (R323): a word, or a versioned store posted at the job's first target tile; none while that has to wait
for room there. -/
def State.jobReply (s : State) (c : Context) (j : Job) (status : Nat) : Option State :=
  let w := replyWord status j.num
  let s := s.modJob c.num j.num fun j => { j with replied := true }
  if j.card.ckind = 1 then some (if (s.tile j.card.ctile).owner = some c.num then s.sendWord j.card.ctile j.card.cvc w else s)
  else if j.card.ckind = 2 then
    let iss : Issue := { ctx := c.num, tile := ⟨bedOrigin j.card.bed % 1024, by omega⟩, slot := 0, pc := 0, job := j.num, epoch := 0,
                         x := Vector.replicate 32 0, auto := true, engine := 6 }
    match s.issueAccess iss (.stv j.card.cver w) [{ va := j.card.caddr, len := 8 }] none with
    | .ok s => some s
    | .error (.trap code addr _) => some (s.engineFails iss code addr (w64 6) false)
    | .error (.block _) => none
  else some s

/-- JOB_COMPLETE (R323, R351): once a job's tasks have ended and all its work has performed, its edges resolve and its reply goes; a
cancelled job sends its reply when what it had issued is done or discarded. -/
def execJobComplete (s : State) : Out :=
  happening .jobComplete (fun s =>
    match s.ctx? s.focus.ctx with
    | none => none
    | some c =>
      match c.job? s.focus.id with
      | none => none
      | some j =>
        if j.replied then some s
        else if s.jobBusy c j.num then none
        else
          match j.state with
          | .cancelled => s.jobReply c j 1
          | .running =>
            if !j.toDeliver.isEmpty || j.tasks != 0 then none
            else
              let s := s.modCtx c.num fun c => { c with wdgc := 0, jobs := c.jobs.map fun k =>
                if k.num = j.num then { k with state := .done, counter := false }
                else let e := k.edges.erase j.num; { k with edges := e, counter := k.counter && !e.isEmpty } }
              let s := match j.dispatched with
                | some t => s.modTile t fun T => { T with balance := if T.balance = some j.num then none else T.balance }
                | none => s
              (s.jobReply c j 0).map (·.refreshJobs c.num)
          | _ => none) s

/-! ## The words of a task -/

/-- Whether earlier work of the task in focus is outstanding (R90). -/
def State.unfinished (s : State) : Bool :=
  let k := s.cur
  !k.pendX.isEmpty || !k.pendP.isEmpty || !k.late.isEmpty ||
  s.here.accesses.any (fun a => sameTask a.iss s.issue && (a.parked || (match a.kind with | .vamo _ _ (_ :: _) _ _ => true | _ => false))) ||
  s.here.held.any (fun h => h.released && h.iss.slot == s.focus.slot && h.iss.epoch == k.epoch)

/-- `tend` (R90): the slot becomes IDLE; while earlier work is outstanding it gives up issue.
Assumption 126 (DEDUCED). -/
def execTend (s : State) : Out :=
  if s.sysMode then .next (s.advance 4)
  else if s.clauseBars false false then .next (s.takeTrap .illegalOp 0 0 4 false)
  else if s.fallsOut 4 then .next (s.takeTrap .protect (w64 (s.cur.pc.toNat + 4)) 0 4 true)
  else
    let k := s.focus.slot
    let t := s.focus.tile
    if s.unfinished then .next (s.modCur fun q => { q with status := .ready, run := 0 })
    else
      let job := s.cur.job
      let s' := s.modTile t fun T => { T with lastIssued := k.val }
      let s' := s'.modCtx s.ctxNum fun c => { (if job = 0 then c else c.modJob job fun j => { j with tasks := j.tasks - 1 }) with wdgc := 0 }
      .next (s'.idleSlot t k)

/-- `bar xb, vcN, id` (R327, R328, R330): an arrival of the tile; for a generation after one still open, or where the unit or, while a save
is under way, the mailbox is full, it waits.
Assumption 113 (DEDUCED). -/
def execBar (b : XReg) (v : BitVec 4) (i : BitVec 2) (g : PReg) (s : State) : Out :=
  runWord g [b] [] (fun s =>
    if s.sysMode then .ok s
    else if s.memWaits then .error (.block .fullPort)
    else
      let w := s.getX b
      let bed : BitVec 16 := w.extractLsb' 0 16
      let t := s.focus.tile
      if !bedOk w then .error (trapWith .illegalField)
      else
        match s.tileCtx t with
        | none => .error (trapWith .protect)
        | some c =>
          if !inBed bed t.val || !(match c.launch with | some (l, _) => bedInside bed l | none => false) then .error (trapWith .protect)
          else
            let br := c.barrier bed i.toNat
            let n := ((br.arrivals.find? (·.tile == t)).map (·.count)).getD 0
            if br.gen < n ∨ (!br.outstanding ∧ 256 ≤ s.barriersAt (dieOf ⟨bedOrigin bed % 1024, by omega⟩)) ∨ (c.saving.isSome ∧ !c.mailRoom 1) then
              .error (.block (.barrier bed i.toNat n))
            else if c.saving.isSome then
              .ok (s.logBarrier c.num { arrival := true, bed, id := i.toNat, tile := t, vc := ⟨v.toNat, v.isLt⟩, gen := n + 1 })
            else
              let a : Arrival := { tile := t, count := n + 1, vc := ⟨v.toNat, v.isLt⟩, slot := s.focus.slot, epoch := s.cur.epoch, upto := s.here.nextAcc }
              .ok ((s.modCtx c.num fun c => c.setBarrier { br with arrivals := br.arrivals.filter (·.tile != t) ++ [a] }).postOnce
                .barrierComplete { ctx := c.num, unit := bed.toNat, id := i.toNat })) s

/-- BARRIER_COMPLETE (R328 to R330): every tile of the bed has arrived for the open generation and what it released has performed; each
tile receives its word, whose taking is an acquire, or the mailbox does for a tile that a save has stopped. -/
def execBarrierComplete (s : State) : Out :=
  happening .barrierComplete (fun s =>
    match s.ctx? s.focus.ctx with
    | none => none
    | some c =>
      let bed := BitVec.ofNat 16 s.focus.unit
      let br := c.barrier bed s.focus.id
      if !br.outstanding then some s
      else
        let here := fun (t : TileId) => br.arrivals.any fun a => a.tile == t && decide (br.gen < a.count) &&
          releasedAt (s.tile t) { s.issueOf t a.slot with epoch := a.epoch } a.upto (decide (2 < bedScope bed))
        if !(bedTiles bed).all here then none
        else
          let word := w64 (s.focus.id * 2 ^ 46 + br.gen % 2 ^ 32)
          let stopped := br.arrivals.filter fun a => c.saving.isSome && !s.lastWordOf c a.tile
          if !c.mailRoom stopped.length then none
          else
            let s := s.modCtx c.num fun c => c.setBarrier { br with gen := br.gen + 1 }
            some (br.arrivals.foldl (fun s a =>
              if stopped.contains a then s.logBarrier c.num { arrival := false, bed, id := s.focus.id, tile := a.tile, vc := a.vc, gen := br.gen }
              else (s.acquireL1 a.tile).sendWord a.tile a.vc word) s)) s

/-- The mesh neighbours of a tile (R331). -/
def neighbours (t : TileId) : List TileId :=
  (if 64 ≤ t.val then [⟨t.val - 64, by omega⟩] else []) ++ (if h : t.val + 64 < 1024 then [⟨t.val + 64, h⟩] else []) ++
  (if 0 < t.val % 64 then [⟨t.val - 1, by omega⟩] else []) ++ (if h : t.val % 64 < 63 ∧ t.val + 1 < 1024 then [⟨t.val + 1, h.2⟩] else [])

/-- Whether a tile may reach a phase (R332). -/
def State.phaseOk (s : State) (t : TileId) (new : Nat) : Bool :=
  let near := (neighbours t).filter fun u => match s.tileCtx t with | some c => c.holds u.val | none => false
  near.all fun u => decide (new ≤ (s.tile u).phase.toNat + (s.tile t).lead.toNat)

/-- Advance the phase to a value once the neighbours allow it (R332). -/
def phaseBody (d : XReg) (new : Nat) (s : State) : Except Stop State :=
  let t := s.focus.tile
  if s.phaseOk t new then .ok ((s.modTile t fun T => { T with phase := BitVec.ofNat 48 new }).setX d (w64 new))
  else .error (.block (.phase new))

/-- `phs rd, n` (R332). -/
def execPhs (d : XReg) (n : BitVec 10) (g : PReg) (s : State) : Out :=
  runWord g [d] [] (fun s =>
    if s.sysMode then .ok s
    else if n = 0 then .error (trapWith .illegalField)
    else
      let new := s.here.phase.toNat + n.toNat
      if 0xFFFFFFFFFFFF < new then .error (trapWith .illegalField) else phaseBody d new s) s
/-- `phs.to rd, ra` (R332). -/
def execPhsTo (d a : XReg) (g : PReg) (s : State) : Out :=
  runWord g [d, a] [] (fun s =>
    if s.sysMode then .ok s
    else
      let v := (s.getX a).toNat
      if 0xFFFFFFFFFFFF < v then .error (trapWith .illegalField) else phaseBody d (max s.here.phase.toNat v) s) s
/-- `lead n` (R332). -/
def execLead (n : BitVec 8) (g : PReg) (s : State) : Out :=
  runWord g [] [] (fun s =>
    if s.sysMode then .ok s
    else if n = 0 then .error (trapWith .illegalField)
    else .ok (s.modTile s.focus.tile fun T => { T with lead := n })) s

/-- `dep rd, ra, pd` (R326): an edge from an earlier job to a later one.
Assumption 118 (DESIGN CHOICE). -/
def execDep (d a : XReg) (p : PReg) (g : PReg) (s : State) : Out :=
  runWord g [d, a] [p] (fun s =>
    if s.sysMode then .ok s
    else
      let e := (s.getX a).toNat % 2 ^ 48
      let l := (s.getX d).toNat % 2 ^ 48
      match s.tileCtx s.focus.tile with
      | none => .error (trapWith .illegalField)
      | some c =>
        if e = 0 ∨ l = 0 ∨ c.lastJob < e ∨ c.lastJob < l ∨ l ≤ e then .error (trapWith .illegalField)
        else
          let uc := (s.quotaUsed c.tenant).2
          let qc := (s.quotaOf c.tenant).2
          match c.job? e, c.job? l with
          | some je, some jl =>
            if je.state = .done then .ok (s.setP p true)
            else if jl.state ≠ .waiting ∨ (!jl.counter ∧ qc ≤ uc) then .ok (s.setP p false)
            else
              let s := s.modJob c.num l fun j => { j with
                counter := true, edges := if j.edges.contains e then j.edges else j.edges ++ [e], readyAt := none }
              .ok (s.setP p true)
          | _, _ => .ok (s.setP p false)) s

/-- `tbnd rd, [ra]` (R325).
Assumption 121 (DEDUCED). -/
def execTbnd (d a : XReg) (g : PReg) (s : State) : Out :=
  runWord g [d, a] [] (fun s =>
    if s.sysMode then .ok s
    else do
      let t := s.focus.tile
      let card ← s.readCard s.ctxNum t (s.getX a).toNat
      if (s.here.boundTo card.vc).isSome then .error (trapWith .illegalField)
      else
        match s.here.freeSlot with
        | none => .ok (s.setX d (BitVec.allOnes 64))
        | some k => .ok ((s.bindSlot t k card (s.getX a) false).setX d (w64 k.val))) s

/-- `tbnd.u vcN` (R325): an IDLE slot becomes FREE at once, another when it next becomes IDLE. -/
def execTbndU (n : BitVec 4) (g : PReg) (s : State) : Out :=
  runWord g [] [] (fun s =>
    if s.sysMode then .ok s
    else
      let t := s.focus.tile
      match s.here.boundTo ⟨n.toNat, n.isLt⟩ with
      | none => .ok s
      | some k =>
        if (s.slot t k).status = .idle then .ok (s.freeSlot t k) else .ok (s.modSlot t k fun q => { q with unbind := true })) s

/-! ## The sequencer's slots (R68, R70, R71) -/

/-- The READY slot a sequencer selects next: round-robin from the one after the last to issue (R70).
Assumption 131 (DESIGN CHOICE). -/
def Tile.nextReady (T : Tile) : Option SlotId :=
  ((List.range 16).map fun i => (⟨(T.lastIssued + 1 + i) % 16, by omega⟩ : SlotId)).find? fun k => (T.slot k).status == .ready

/-- SLOT_SELECT (R70): with no RUNNING slot, the next READY slot becomes RUNNING. -/
def execSlotSelect (s : State) : Out :=
  happening .slotSelect (fun s =>
    let t := s.focus.tile
    if !s.canIssue t || (List.finRange 16).any (fun k => (s.slot t k).status == .running) then none
    else
      match s.here.nextReady with
      | none => none
      | some k => some (s.modSlot t k fun q => { q with status := .running, run := 0 })) s

/-- Two windows share a cell of the grid (R52). -/
def winMeets (a b : BitVec 12) : Bool :=
  let r (w : BitVec 12) := (w.extractLsb' 0 3).toNat
  let c (w : BitVec 12) := (w.extractLsb' 3 3).toNat
  let h (w : BitVec 12) := (w.extractLsb' 6 3).toNat
  let l (w : BitVec 12) := (w.extractLsb' 9 3).toNat
  decide (r a ≤ r b + h b) && decide (r b ≤ r a + h a) && decide (c a ≤ c b + l b) && decide (c b ≤ c a + l a)

/-- A task that has started and not ended; one that waits for its window has not started (R52). -/
def Slot.started (k : Slot) : Bool :=
  match k.status with | .ready | .running | .faulted => true | .blocked => k.wait != .window | _ => false
/-- Another task of the tile holds part of a window. -/
def Tile.winBusy (T : Tile) (k : SlotId) (w : BitVec 12) : Bool :=
  (List.finRange 16).any fun i => i != k && (T.slot i).started && winMeets (T.slot i).win w

/-- TASK_START (R71): an IDLE slot takes the word at the head of its VC; its registers are set as R51 gives them. It waits where a
running task's window overlaps its own (R52). A task's start is an acquire (R333, R335): no line stays in the tile's L1. The scheduler's word
of a job that has been cancelled since starts no task (R351). -/
def execTaskStart (s : State) : Out :=
  happening .taskStart (fun s =>
    let t := s.focus.tile
    let k := s.focus.slot
    let q := s.slot t k
    match q.status, (s.vchan t q.vc).q with
    | .idle, f :: _ =>
      if f.kind ≠ 0 ∨ !s.canIssue t ∨ (s.streamVcs t).contains q.vc then none
      else if f.job ≠ 0 ∧ s.jobCancelled ((s.tile t).owner.getD 1024) f.job then some ((s.modVc t q.vc VChan.dropFlit).idleSlot t k)
      else
        let s := (s.modVc t q.vc VChan.dropFlit).acquireL1 t
        let job := if f.job = 0 then none else s.job? ((s.tile t).owner.getD 1024) f.job
        let win := match job with | some j => j.card.win | none => q.bwin
        let x : Vector Word 32 := (((Vector.replicate 32 (0 : Word)).set 1 (f.data.setWidth 64)).set 2 (w64 q.vc.val)).set 3
          (if f.job = 0 then q.card else f.card)
        let busy := (s.tile t).winBusy k win
        let s := s.modSlot t k fun q => { q with
          status := if busy then .blocked else .ready
          wait := if busy then .window else .none
          since := s.clk, win, job := f.job, bed := match job with | some j => j.card.bed | none => q.target
          waveOwn := none, waves := []
          x, p := Vector.replicate 8 false, pc := q.entry, wavectr := 0, cls := {}, stat := 0, cnt := Vector.replicate 16 0
          pendX := [], pendP := [], run := 0, epoch := q.epoch + 1, fenced := false, late := [], fault := none, last := none, storeBar := 0 }
        some (if busy then s.postOnce .slotUnblock { tile := t, slot := k } else s)
    | _, _ => none) s

end Sys2Proof.Machine
end

