-- ==== Sys2Proof/Machine/Demand.lean ====
section
/-! DEFINITION. The demand plane (R290 to R311, R391 to R393): demands and cancels at ports, serving, range transfer and retention,
cuttings, source postings, and the words `dmd`, `drg`, `drt`, `dcut`, `dcad`, `dcan`. -/
namespace Sys2Proof.Machine
open Sys2Proof

/-! ## Where an input's demands go (R290, R391) -/

/-- One demand of an input: the producer's port, the feed there, whether it is the partner arc, and the input's words per tick, 0 for a
sink that no input reads. -/
structure Ask where
  port : PortId
  feed : PortId
  part : Bool := false
  w : Nat := 1
  deriving DecidableEq, Repr

/-- The partner stage that an input reads, where it has an operator (R270, R290). -/
def partnerStage (img : ChainImage) (st : Fin 6) (i : Nat) : Option (Fin 6) :=
  if eIn img.elems[st] i = 2 then (stageAbove (bndAbove st)).filter fun up => eOp img.elems[up] != 0 else none

/-- The channels and stages that feed an input of an operator by way of a router: that of its boundary, or, past a partner stage without
an operator, the one above that. -/
def inputFeeds (img : ChainImage) (G : Graph) (t : TileId) (st : Fin 6) (i : Nat) : List (Sum Nat (Fin 6)) :=
  match eIn img.elems[st] i with
  | 1 | 4 => feedsAbove img G.chans t 8 st.val
  | 2 => if (partnerStage img st i).isSome then [] else feedsAbove img G.chans t 8 (st.val - 1)
  | _ => []

/-- Whom an input asks: its partner stage, software for a SOFT input, or what feeds its port. -/
def State.asks (s : State) (ctx : Nat) (g : Fin 4) (G : Graph) (img : ChainImage) (t : TileId) (st : Fin 6) (i : Fin 3) : List Ask :=
  let own : PortId := .oper ctx g t st
  let X := xferAt img img.elems[st] i.val
  match partnerStage img st i.val with
  | some up => [{ port := .oper ctx g t up, feed := own, part := true, w := X.w }]
  | none =>
    if X.kind = 7 then [{ port := .soft ctx g t st i, feed := own }]
    else
      (inputFeeds img G t st i.val).flatMap fun
        | .inl j => (s.producers ctx g G j).map fun (p, f) => { port := p, feed := f, w := X.w }
        | .inr up => [{ port := .oper ctx g t up, feed := own, w := X.w }]

/-- Words per tick of the first input of its consumer tile that a channel feeds (R294); none where it feeds none.
Assumption 41 (DESIGN CHOICE). -/
def State.chanReads (s : State) (ctx : Nat) (g : Fin 4) (G : Graph) (j : Nat) : Option Nat :=
  match G.chans[j]? with
  | none => none
  | some ch =>
    match s.graphImg ctx g (chanDstt ch.desc) with
    | none => none
    | some img =>
      ((List.finRange 6).flatMap fun st => (List.range 3).map fun i => (st, i)).findSome? fun (st, i) =>
        if (inputFeeds img G (chanDstt ch.desc) st i).contains (.inl j) then some (xferAt img img.elems[st] i).w else none
/-- Words per tick of a channel: 1 where it feeds no input. -/
def State.chanWords (s : State) (ctx : Nat) (g : Fin 4) (G : Graph) (j : Nat) : Nat := (s.chanReads ctx g G j).getD 1

/-- The channels that bring on what a channel brings: itself, and those that leave a tile without an operator that it feeds (R290). -/
def State.channelsOn (s : State) (ctx : Nat) (g : Fin 4) (G : Graph) : Nat → Nat → List Nat
  | 0, _ => []
  | fuel + 1, j =>
    match G.chans[j]? with
    | none => []
    | some ch =>
      let t := chanDstt ch.desc
      let on := match s.graphImg ctx g t with
        | some img => (topStage img).isNone && (feedsAbove img G.chans t 8 6).contains (.inl j)
        | none => false
      j :: (if on then (G.chans.zipIdx.filter fun (k, _) => isEdge k.desc && srcTile k.desc == t).flatMap fun (_, k) => s.channelsOn ctx g G fuel k else [])
/-- The channels a producer's feed over a channel serves, and the operators that read it there. -/
def State.readers (s : State) (ctx : Nat) (g : Fin 4) (G : Graph) (j : Nat) : List Nat × List PortId :=
  let js := (s.channelsOn ctx g G (G.chans.length + 1) j).eraseDups
  (js, js.flatMap fun j =>
    match G.chans[j]? with
    | none => []
    | some ch =>
      let t := chanDstt ch.desc
      match s.graphImg ctx g t with
      | none => []
      | some img =>
        ((List.finRange 6).filter fun st => eOp img.elems[st] != 0 && (List.range 3).any fun i => (inputFeeds img G t st i).contains (.inl j)).map
          fun st => .oper ctx g t st)

/-- Send a demand or a cancel flit to a port. -/
def State.sendDemand (s : State) (a : Ask) (t0 t1 : Nat) (cancel : Bool) : State :=
  State.post { s with
    demand := s.demand ++ [{ id := s.nextDemand, port := a.port, feed := a.feed, part := a.part, w := a.w, t0, t1, cancel }]
    nextDemand := s.nextDemand + 1 } (if cancel then .cancelFlit else .demandInsert) { ctx := portCtx a.port, id := s.nextDemand, port := a.port }
/-- Send one from a sink up its channel. -/
def State.sinkSends (s : State) (ctx : Nat) (g : Fin 4) (G : Graph) (j t0 t1 : Nat) (cancel : Bool) : State :=
  (s.producers ctx g G j).foldl (fun s (p, f) => s.sendDemand { port := p, feed := f, w := (s.chanReads ctx g G j).getD 0 } t0 t1 cancel) s
/-- An earlier flit of the same feed stands before a flit of the demand plane (R14, R26). -/
def State.demandBehind (s : State) (d : DemandFlit) : Bool :=
  s.demand.any fun e => decide (e.id < d.id) && e.port == d.port && e.feed == d.feed && e.part == d.part

/-- A port may have an interval to serve. -/
def State.offerServe (s : State) (p : PortId) : State := s.postOnce .portServe { ctx := portCtx p, port := p }

/-! ## Feeds (R297) -/

/-- How many ticks of its service from t0 on the furthest lane of an operator has emitted tokens of, as a consumer counts them with w words
per tick. -/
def State.progress (s : State) (p : PortId) (t0 w : Nat) : Nat :=
  match p with
  | .oper _ _ t st =>
    match (s.tile t).stream with
    | some x => x.active.foldl (fun m L =>
        let e := x.lanes[L].elems[st]
        max m (if e.outs = 0 then 0 else if w = 0 then e.upto + 1 - t0 else (e.outs - 1) / w + 1)) 0
    | none => 0
  | _ => 0

/-- A consumer has demanded ticks of a producer: its feed's set gains them, but for those the interval in service has still to send, where
`done` ticks of it have been emitted. -/
def DPort.wants (P : DPort) (d : DemandFlit) (done : Nat) : DPort :=
  let P := if P.feeds.any fun f => f.dest == d.feed && f.part == d.part then P else { P with feeds := P.feeds ++ [{ dest := d.feed, part := d.part }] }
  let t0 := (P.serving.getD (0, 0)).1
  { P with feeds := P.feeds.map fun f =>
      if f.dest = d.feed ∧ f.part = d.part then
        let open_ := f.now.filterMap fun (a, b) => let a := max a (t0 + done)
          if a ≤ b then some (a, b) else none
        let add := open_.foldl (fun l (a, b) => dropTicks l a b) [(d.t0, d.t1)]
        { f with w := d.w, want := add.foldl (fun l (a, b) => joinTicks l a b) f.want }
      else f }

/-- DEMAND_INSERT (R292): a demand flit that has reached its port is merged into the coalescer, behind the earlier flits of its feed (R14); it
waits while that is full. -/
def execDemandInsert (s : State) : Out :=
  happening .demandInsert (fun s =>
    match s.demand.find? fun d => d.id == s.focus.id && !d.cancel with
    | none => some s
    | some d =>
      if s.demandBehind d then none
      else match coalesce (s.port (portCtx d.port) d.port).held d.t0 d.t1 with
      | none => none
      | some held =>
        let s' := { s with demand := s.demand.filter (·.id != d.id) }
        some ((s'.modPort (portCtx d.port) d.port fun p =>
          ({ p with held }).wants d (s.progress d.port (p.serving.getD (0, 0)).1 d.w)).offerServe d.port)) s

/-! ## Replies of dmd (R305, R308) -/

/-- Ticks of a channel's sink are delivered (status 0), or will not be: cancelled (1) or failed (2). Each `dmd` that has none left to wait
for is answered; a failure answers at once. -/
def State.dmdTicks (s : State) (ctx slot chan a b status : Nat) : State :=
  match s.ctx? ctx with
  | none => s
  | some c =>
    let hit := fun (d : DmdReply) => d.slot == slot && d.chan == chan && !(meetTicks d.need a b).isEmpty
    let after := c.dmds.map fun d => if hit d then { d with need := dropTicks d.need a b, got := d.got || status == 0 } else d
    let spent := fun (d : DmdReply) => d.need.isEmpty
    let failed := if status = 2 then c.dmds.filter hit else []
    let done := if status = 2 then [] else after.filter spent
    let keep := if status = 2 then c.dmds.filter fun d => !hit d else after.filter fun d => !spent d
    let s := s.modCtx ctx fun c => { c with dmds := keep }
    let s := failed.foldl (fun s d => s.sendWord d.tile d.vc (replyWord 2 d.t1)) s
    done.foldl (fun s d => s.sendWord d.tile d.vc (replyWord (if d.got then 0 else 1) d.t1)) s

/-- A faulting operator's interval fails every `dmd` that waits for ticks made from it (R303): down the feeds, from each consumer in
service on, which is stuck from then on (R393). Each step goes on from a port that was not stuck. -/
def State.failDown (ctx : Nat) (g : Fin 4) (G : Graph) : Nat → PortId → Nat → Nat → State → State
  | 0, _, _, _, s => s
  | fuel + 1, p, a, b, s =>
    (s.port ctx p).feeds.foldl (fun s f =>
      let ticks := meetTicks f.want a b ++ meetTicks f.now a b
      if ticks.isEmpty then s
      else
        let down := fun (q : PortId) (s : State) =>
          match (s.port ctx q).serving with
          | some (c, d) =>
            if (s.port ctx q).stuck then s else State.failDown ctx g G fuel q c d (s.modPort ctx q fun p => { p with stuck := true })
          | none => s
        match f.dest with
        | .sink _ _ j =>
          let (js, qs) := s.readers ctx g G j
          let s := js.foldl (fun s j => ticks.foldl (fun s (c, d) => s.dmdTicks ctx g j c d 2) s) s
          qs.foldl (fun s q => down q s) s
        | q => down q s) s

/-! ## Serving (R293, R295, R300, R302) -/

/-- The versions of a state word at an address (R300): the physical word, or none where it does not lie in the state page. -/
def State.stateWord (s : State) (ctx : Nat) (t : TileId) (va : Nat) : Option VWord :=
  match s.locate ctx t va { write := true, engine := true, versioned := true } with
  | .ok (.dev pa _ _) => some (s.vword pa)
  | _ => none
/-- The newest held version at or below c and at or above the floor. -/
def VWord.atOrBelow (w : VWord) (c : Nat) : Option (Nat × Word) :=
  (w.versions.filter fun (u, _) => decide (w.floor ≤ u ∧ u ≤ c)).getLast?

/-- The cutting a stateful operator starts from at t0, with the lanes' values (R300); without a state address the zero lanes of tick 0
(R298). -/
def State.cutting (s : State) (ctx : Nat) (t : TileId) (P : DPort) (t0 : Nat) : Option (Nat × List (BitVec 32)) :=
  match P.stateVa with
  | none => some (0, List.replicate 16 0)
  | some va => do
    let w0 ← s.stateWord ctx t va
    let (c, _) ← w0.atOrBelow t0
    let ws ← (List.range 8).mapM fun i => (s.stateWord ctx t (va + 8 * i)).bind (·.atOrBelow c)
    some (c, ws.flatMap fun (_, w) => [w.setWidth 32, (w >>> 32).setWidth 32])

/-- What an operator finds when it serves an interval: the ranges of its inputs with whom to ask, and its state; or the fault and the
channel whose floor failed. -/
structure Serve where
  asks : List (Ask × Nat × Nat) := []
  ends : List (Option Nat) := []
  starts : List (Option Nat) := []
  init : Option (List (BitVec 32)) := none
  deriving DecidableEq, Repr

/-- Check and transfer each input in turn (R295, R302); a state word that reads with an uncorrectable error is a fault of the operator
(R19). -/
def State.serveInputs (s : State) (ctx : Nat) (g : Fin 4) (G : Graph) (img : ChainImage) (t : TileId) (st : Fin 6) (P : DPort) (t0 t1 : Nat) :
    List (Fin 3) → Serve → Except (FaultCode × Nat) Serve
  | [], v => .ok v
  | i :: is, v =>
    let sel := eIn img.elems[st] i.val
    let skip := fun (_ : Unit) => s.serveInputs ctx g G img t st P t0 t1 is { v with ends := v.ends ++ [none], starts := v.starts ++ [none] }
    if sel = 0 ∨ sel = 3 then skip ()
    else
      let X := xferAt img img.elems[st] i.val
      let floor := P.floors.getD i.val 0
      let cut := if X.kind = 4 then (s.cutting ctx t P t0).map fun (c, l) => (c, some l) else some (0, none)
      if X.kind = 4 ∧ P.stateVa.isSome ∧ s.eccError = true then .error (.ecc, 0xFFFFFFFF)
      else match cut with
      | none => .error (.demandBeforeRetained, 0xFFFFFFFF)
      | some (c, init) =>
        match X.demand t0 t1 c floor with
        | none => s.serveInputs ctx g G img t st P t0 t1 is
            { v with ends := v.ends ++ [none], starts := v.starts ++ [none], init := init.or v.init }
        | some (lo, hi) =>
          let chans := (inputFeeds img G t st i.val).filterMap fun | .inl j => some j | .inr _ => none
          if lo < floor then .error (.demandBeforeRetained, 0xFFFFFFFF)
          else match chans.find? fun j => decide (lo < ((s.port ctx (.sink ctx g j)).floors.getD 0 0)) with
            | some j => .error (.demandBeforeRetained, j)
            | none =>
              if maxTick < hi then .error (.demandRange, 0xFFFFFFFF)
              else s.serveInputs ctx g G img t st P t0 t1 is {
                asks := v.asks ++ (s.asks ctx g G img t st i).map fun a => (a, lo, hi)
                ends := v.ends ++ [some hi], starts := v.starts ++ [some lo], init := init.or v.init }

/-- An operator serves [t0, t1]: its demands go out, or it faults and keeps the interval in service (R303, R393). -/
def State.serveOper (s : State) (ctx : Nat) (g : Fin 4) (G : Graph) (t : TileId) (st : Fin 6) (P : DPort) (t0 t1 : Nat)
    (rest : List (Nat × Nat)) : State :=
  match s.graphImg ctx g t with
  | none => s
  | some img =>
    match s.serveInputs ctx g G img t st P t0 t1 [0, 1, 2] {} with
    | .error (code, chan) =>
      let s := s.modPort ctx P.port fun p => { p with held := rest, serving := some (t0, t1), faulted := true }
      let tok := fun (v : Nat) => v % 2 ^ 48 + 2 ^ 52
      let (swapped, word) := match (s.tile t).stream with
        | some x => let w := x.active.any fun L => x.lanes[L].elems[st].swapped; (w, ((s.tile t).plane x w).elems[st])
        | none => (false, img.elems[st])
      let s := s.fabricRecord ctx code t st.val 0xFF word.toNat (if swapped then 1 else 0) g.val chan [tok t0, tok t1]
      let s := s.modTile t fun T => { T with
        stream := T.stream.map fun x => x.active.foldl (fun x L => x.modElem L st fun e => { e with stopped := true }) x }
      s.failDown ctx g G ((s.ctx? ctx).elim 1 fun c => c.ports.length + 1) P.port t0 t1
    | .ok v =>
      let w := img.elems[st]
      let selA := eIn w 0
      let bare := selA != 0 && selA != 3 && (v.ends.getD 0 none).isNone
      let s := s.modPort ctx P.port fun p => { p with
        held := rest, serving := some (t0, t1), starts := v.starts, ends := v.ends, start := (v.starts.findSome? id).getD t0, bare
        init := v.init, nowVa := p.stateVa, nowCad := p.cadence, cuts := []
        feeds := p.feeds.map fun f => { f with now := meetTicks f.want t0 t1, want := dropTicks f.want t0 t1 } }
      v.asks.eraseDups.foldl (fun s (a, lo, hi) => s.sendDemand a lo hi false) s

/-- The words a source or SOFT input posts for an interval (R304): pieces of at most 65,536 ticks. -/
def demandWords (t1 : Nat) : Nat → Nat → List Word
  | 0, _ => []
  | fuel + 1, t =>
    if t1 < t then []
    else
      let span := min 65536 (t1 - t + 1)
      w64 ((span - 1) * 2 ^ 48 + t) :: demandWords t1 fuel (t + span)

/-- While its context is saved, a port serves only where an operator in service waits for it (R310, R354). -/
def State.mayServe (s : State) (c : Context) (P : DPort) : Bool :=
  let waits := fun (q : PortId) => (c.port q).serving.isSome && !(c.port q).faulted && !(c.port q).stuck
  s.ctxRuns c || (c.saving.isSome && P.feeds.any fun f => !f.want.isEmpty && (match f.dest with
    | .sink ctx g j => (match s.graph? ctx g with
      | some G => if h : g < 4 then (s.readers ctx ⟨g, h⟩ G j).2.any waits else false
      | none => false)
    | q => waits q))

/-- PORT_SERVE (R293): an idle port of the live graph serves its lowest held interval. -/
def execPortServe (s : State) : Out :=
  happening .portServe (fun s =>
    let p := s.focus.port
    let ctx := portCtx p
    match s.ctx? ctx with
    | none => some s
    | some c =>
      let P := c.port p
      match P.held, c.liveSlot with
      | [], _ => some s
      | _, none => none
      | (t0, t1) :: rest, some n =>
        if portSlot p ≠ n ∨ P.serving.isSome ∨ P.faulted ∨ c.stopping.isSome ∨ !s.mayServe c P then none
        else if h : n < 4 then
          match c.gslots[n] with
          | none => none
          | some G =>
            match p with
            | .oper _ _ t st => some ((s.serveOper ctx ⟨n, h⟩ G t st P t0 t1 rest).offerServe p)
            | .sink _ _ j =>
              let s := s.modPort ctx p fun q => { q with held := rest, low := some (match q.low with | some l => min l t0 | none => t0) }
              some ((s.sinkSends ctx ⟨n, h⟩ G j t0 t1 false).offerServe p)
            | .source .. | .soft .. =>
              match P.reg with
              | none => none
              | some _ =>
                let owed := fun (q : DPort) => match p with | .source .. => q.owed ++ [(t0, t1)] | _ => q.owed
                some ((s.modPort ctx p fun q => { q with
                  held := rest, serving := some (t0, t1), posts := demandWords t1 (t1 / 65536 + 2) t0, owed := owed q }).post .sourcePost { ctx, port := p })
        else none) s

/-- SOURCE_POST (R304): a source or a SOFT input posts one word to its registered VC; after the last it is idle. -/
def execSourcePost (s : State) : Out :=
  happening .sourcePost (fun s =>
    let p := s.focus.port
    let ctx := portCtx p
    let P := s.port ctx p
    match P.posts, P.reg with
    | [], _ => some ((s.modPort ctx p fun q => { q with serving := none }).offerServe p)
    | _, none => none
    | w :: rest, some (t, vc) =>
      if !s.vcRoom t vc then none
      else
        let s := (s.sendWord t vc w).modPort ctx p fun q => { q with posts := rest, serving := if rest.isEmpty then none else q.serving }
        some (if rest.isEmpty then s.offerServe p else s.post .sourcePost s.focus)) s

/-! ## Cuttings (R299, R392) -/

/-- CUTTING_WRITE: an operator writes the next state word of a cutting whose lanes are all there, as a `stv` of its tick; a write that
would not ascend is skipped, a full word waits, and a wait over its time is an engine fault, of no engine that R341 numbers.
Assumption 150 (DEDUCED). -/
def execCuttingWrite (s : State) : Out :=
  happening .cuttingWrite (fun s =>
    let p := s.focus.port
    let ctx := portCtx p
    let P := s.port ctx p
    match p, P.cuts, P.nowVa with
    | .oper _ _ t _, k :: rest, some va =>
      match (s.tile t).stream with
      | none => some s
      | some x =>
        if !(x.active.all fun L => k.lanes.any fun (n, _) => n == L.val) then none
        else
          let lane := fun (n : Nat) => ((k.lanes.find? fun (m, _) => m == n).map (·.2)).getD 0
          let data : Word := lane (2 * k.written + 1) ++ lane (2 * k.written)
          let a := va + 8 * k.written
          let put := fun (f : Cutting → Cutting) (s : State) => s.modPort ctx p fun q => { q with cuts := f k :: rest }
          let next := fun (s : State) =>
            if k.written = 7 then
              let s := s.modPort ctx p fun q => { q with cuts := rest, cut := if q.cut = some k.tick then none else q.cut }
              if rest.isEmpty then s else s.post .cuttingWrite s.focus
            else (put (fun k => { k with written := k.written + 1, deadline := none }) s).post .cuttingWrite s.focus
          let fails := fun (code : FaultCode) =>
            let job := ((s.ctx? ctx).map (·.graphJob)).getD 0
            let iss : Issue := { ctx, tile := t, slot := 0, pc := 0, job, epoch := 0, x := Vector.replicate 32 0, auto := true }
            (s.modPort ctx p fun q => { q with cuts := rest }).engineFails iss code (w64 a) 0 false
          match s.locate ctx t a { write := true, engine := true, versioned := true } with
          | .ok (.dev pa _ _) =>
            if k.tick ≤ (s.vword pa).newest.1 then some (next s)
            else if (s.vword pa).versions.length < 4 then some (next (s.addVersion pa k.tick data))
            else
              match k.deadline with
              | none =>
                let limit := ((s.ctx? ctx).map (·.vto.toNat)).getD 1048576
                some ((put (fun k => { k with deadline := some (s.clk + limit) }) s).post .cuttingWrite s.focus)
              | some d => if d ≤ s.clk then some (fails .versionFull) else none
          | .ok _ => some (fails .protect)
          | .error c => some (fails c)
    | _, _, _ => some s) s

/-! ## Sinks (R305) -/

/-- SINK_EOT_ACCEPT (R305): a sink accounts for the SOT or EOT it has accepted. A segment without SOT covers whole ticks by its size. -/
def execSinkEotAccept (s : State) : Out :=
  happening .sinkEotAccept (fun s =>
    let p := s.focus.port
    match p with
    | .sink ctx n j =>
      match s.ctx? ctx with
      | none => some s
      | some c =>
        let P := c.port p
        match P.landed with
        | [] => some s
        | f :: rest =>
          let s := s.modPort ctx p fun q => { q with landed := rest }
          if f.kind = 1 then some (s.modPort ctx p fun q => { q with sot := some (f.data.toNat % 2 ^ 48) })
          else
            let s := s.modCtx ctx fun c => { c with wdgc := 0 }
            match P.sot with
            | some a =>
              let b := f.data.toNat % 2 ^ 48
              let s := s.modPort ctx p fun q => { q with sot := none, last := some b, words := 0 }
              some (if a ≤ b then s.dmdTicks ctx n j a b 0 else s)
            | none =>
              match if h : n < 4 then c.gslots[n].map fun G => s.chanWords ctx ⟨n, h⟩ G j else none with
              | none => some s
              | some W =>
                let total := P.words + f.data.toNat / 2 ^ 64 % 2 ^ 32
                let a := match P.last with | some l => l + 1 | none => P.low.getD 0
                let s := s.modPort ctx p fun q => { q with
                  words := total % W, last := if total / W = 0 then q.last else some (a + total / W - 1) }
                some (if total / W = 0 then s else s.dmdTicks ctx n j a (a + total / W - 1) 0)
    | _ => some s) s

/-! ## Cancelling (R308) -/

/-- Remove ticks from a coalescer; a split that would need a ninth interval keeps its interval. -/
def dropHeld (l : List (Nat × Nat)) (a b : Nat) : List (Nat × Nat) :=
  let l' := dropTicks l a b
  if l'.length ≤ 8 then l'
  else l.flatMap fun (c, d) => if c < a ∧ b < d then [(c, d)] else dropTicks [(c, d)] a b

/-- What an operator passes up of ticks that nobody wants of it any more: mapped through each input's range transfer, less what its interval
in service has demanded of that input, which is produced (R308). -/
def State.cancelUp (s : State) (ctx : Nat) (g : Fin 4) (G : Graph) (img : ChainImage) (t : TileId) (st : Fin 6) (P : DPort) (a b : Nat) : State :=
  (List.finRange 3).foldl (fun s i =>
    let sel := eIn img.elems[st] i.val
    if sel = 0 ∨ sel = 3 then s
    else
      match (xferAt img img.elems[st] i.val).demand a b a (P.floors.getD i.val 0) with
      | some (lo, hi) =>
        let ticks := match P.serving, P.starts.getD i.val none, P.ends.getD i.val none with
          | some _, some p, some q => dropTicks [(lo, hi)] p q
          | _, _, _ => [(lo, hi)]
        ticks.foldl (fun s (lo, hi) => (s.asks ctx g G img t st i).foldl (fun s q => s.sendDemand q lo hi true) s) s
      | none => s) s

/-- CANCEL_FLIT: at a producer the cancelling feed's set loses the ticks; those that no other feed's set still holds and that are not in
service are removed from what it holds, and go on upstream. A cancel never overtakes a demand of its feed (R14).
Assumption 43 (DEDUCED). -/
def execCancelFlit (s : State) : Out :=
  happening .cancelFlit (fun s =>
    match s.demand.find? fun d => d.id == s.focus.id && d.cancel with
    | none => some s
    | some d =>
      if s.demandBehind d then none
      else
        let ctx := portCtx d.port
        let P := s.port ctx d.port
        let mine := (P.feeds.filter fun f => f.dest == d.feed && f.part == d.part).flatMap fun f => meetTicks f.want d.t0 d.t1
        let kept := (P.feeds.filter fun f => !(f.dest == d.feed && f.part == d.part)).flatMap (fun f => f.want ++ f.now) ++ P.serving.toList
        let gone := kept.foldl (fun l (a, b) => dropTicks l a b) [(d.t0, d.t1)]
        let s := { s with demand := s.demand.filter (·.id != d.id) }
        let s := s.modPort ctx d.port fun q => { q with
          feeds := q.feeds.map fun f => if f.dest = d.feed ∧ f.part = d.part then { f with want := dropTicks f.want d.t0 d.t1 } else f
          held := gone.foldl (fun l (a, b) => dropHeld l a b) q.held }
        let s := match d.feed with
          | .sink _ n j =>
            let js := match s.graph? ctx n with | some G => if h : n < 4 then (s.readers ctx ⟨n, h⟩ G j).1 else [j] | none => [j]
            js.foldl (fun s j => mine.foldl (fun s (a, b) => s.dmdTicks ctx n j a b 1) s) s
          | _ => s
        match d.port with
        | .oper _ n t st =>
          if h : n < 4 then
            match s.graph? ctx n, s.graphImg ctx ⟨n, h⟩ t with
            | some G, some img => some (gone.foldl (fun s (a, b) => s.cancelUp ctx ⟨n, h⟩ G img t st P a b) s)
            | _, _ => some s
          else some s
        | _ => some s) s

/-! ## dmd (R305, R307) -/

/-- The checks of a demand: the port, then the interval; the sink it names. -/
def State.checkDemand (s : State) (c : Context) (p : Word) (t0 t1 : Nat) : Except Stop (Fin 4 × Nat) := do
  match ← s.openPort c p [0] with
  | .chan g j _ =>
    need (decide (t0 ≤ t1 ∧ t1 ≤ maxTick)) .demandRange
    .ok (g, j)
  | _ => throw (trapWith .illegalField)

/-- Insert a demand at a sink; none while its coalescer has no room. -/
def State.insertDemand (s : State) (ctx : Nat) (g : Fin 4) (j t0 t1 : Nat) : Option State :=
  let p : PortId := .sink ctx g j
  (coalesce (s.port ctx p).held t0 t1).map fun held => (s.modPort ctx p fun q => { q with held }).offerServe p

/-- The body of a demand-plane word, with the context of its task. -/
def inContext (f : Context → State → Except Stop State) (s : State) : Except Stop State :=
  if s.sysMode then .ok s else match s.tileCtx s.focus.tile with | some c => f c s | none => .ok s

/-- `dmd xp, xa, xb [reply=vcN]`. -/
def dmdBody (p a b : XReg) (e : BitVec 1) (v : BitVec 4) : State → Except Stop State :=
  inContext fun c s => do
    let (g, j) ← s.checkDemand c (s.getX p) (s.getX a).toNat (s.getX b).toNat
    let t0 := (s.getX a).toNat
    let t1 := (s.getX b).toNat
    match s.insertDemand c.num g j t0 t1 with
    | none => .error (.block (.coalescer (.sink c.num g j)))
    | some s' =>
      .ok (if e = 1 then s'.modCtx c.num fun c => { c with dmds := c.dmds ++ [
          { slot := g, chan := j, t0, t1, need := [(t0, t1)], tile := s.focus.tile, vc := ⟨v.toNat, v.isLt⟩, job := s.cur.job }] } else s')
def execDmd (p a b : XReg) (e : BitVec 1) (v : BitVec 4) (g : PReg) (s : State) : Out := runWord g [p, a, b] [] (dmdBody p a b e v) s

/-! ## drg, drt, dcut, dcad, dcan (R306, R308) -/

/-- Whether an operator's input A has kind STATE (R298). -/
def isStateful (img : ChainImage) (st : Fin 6) : Bool := (xferAt img img.elems[st] 0).kind == 4

/-- `drg xp, xv`: register, or give up, the VC for a source's or a SOFT input's demands. -/
def drgBody (p a : XReg) : State → Except Stop State :=
  inContext fun c s => do
    let r ← s.openPort c (s.getX p) [0, 2]
    let v := s.getX a
    need (v.extractLsb' 5 59 == 0) .illegalField
    let id : PortId ← match r with
      | .chan g j ch =>
        if isEdge ch.desc then throw (trapWith .illegalField)
        else pure (.source c.num g (sourceOf (match c.gslots[g] with | some G => G.chans | none => []) j))
      | .input g t st i img => if (xferAt img img.elems[st] i.val).kind = 7 then pure (.soft c.num g t st i) else throw (trapWith .illegalField)
      | .oper .. => throw (trapWith .illegalField)
    let vc : SlotId := ⟨(v.extractLsb' 0 4).toNat, (v.extractLsb' 0 4).isLt⟩
    .ok ((s.modPort c.num id fun q => { q with reg := if v.getLsbD 4 then some (s.focus.tile, vc) else none }).offerServe id)
def execDrg (p a : XReg) (g : PReg) (s : State) : Out := runWord g [p, a] [] (drgBody p a) s

/-- `drt xp, xf`: set a retention floor (R301). -/
def drtBody (p a : XReg) : State → Except Stop State :=
  inContext fun c s => do
    let r ← s.openPort c (s.getX p) [0, 2]
    let f := (s.getX a).toNat
    need (decide (f ≤ maxTick)) .demandRange
    match r with
    | .chan g j _ => .ok (s.modPort c.num (.sink c.num g j) fun q => { q with floors := q.floors.set 0 f })
    | .input g t st i _ => .ok (s.modPort c.num (.oper c.num g t st) fun q => { q with floors := q.floors.set i.val f })
    | .oper .. => throw (trapWith .illegalField)
def execDrt (p a : XReg) (g : PReg) (s : State) : Out := runWord g [p, a] [] (drtBody p a) s

/-- The stateful operator a port word names. -/
def State.openStateful (s : State) (c : Context) (w : Word) : Except Stop PortId := do
  match ← s.openPort c w [1] with
  | .oper g t st img => if isStateful img st then .ok (.oper c.num g t st) else throw (trapWith .illegalField)
  | _ => throw (trapWith .illegalField)

/-- `dcut xp, xc`: set the pending cutting tick. -/
def dcutBody (p a : XReg) : State → Except Stop State :=
  inContext fun c s => do
    let id ← s.openStateful c (s.getX p)
    let v := (s.getX a).toNat
    need (decide (1 ≤ v ∧ v < 2 ^ 32)) .demandRange
    .ok (s.modPort c.num id fun q => { q with cut := some v })
def execDcut (p a : XReg) (g : PReg) (s : State) : Out := runWord g [p, a] [] (dcutBody p a) s

/-- `dcad xp, xs, xC`: set the state address and the cadence. -/
def dcadBody (p a b : XReg) : State → Except Stop State :=
  inContext fun c s => do
    let id ← s.openStateful c (s.getX p)
    let va := (s.getX a).toNat
    needAt (decide (va % 64 = 0)) .misaligned va
    match s.locate c.num s.focus.tile va { write := true, engine := true, versioned := true } with
    | .ok (.dev ..) =>
      need (decide ((s.getX b).toNat < 2 ^ 32)) .demandRange
      .ok (s.modPort c.num id fun q => { q with stateVa := some va, cadence := (s.getX b).toNat })
    | .ok _ => .error (.trap .protect (w64 va) 0)
    | .error code => .error (.trap code (w64 va) 0)
def execDcad (p a b : XReg) (g : PReg) (s : State) : Out := runWord g [p, a, b] [] (dcadBody p a b) s

/-- `dcan xp, xa, xb`: cancel ticks held at a sink; a cancel flit follows the demand's path. -/
def dcanBody (p a b : XReg) : State → Except Stop State :=
  inContext fun c s => do
    match ← s.openPort c (s.getX p) [0] with
    | .chan g j _ =>
      let t0 := (s.getX a).toNat
      let t1 := (s.getX b).toNat
      need (decide (t0 ≤ t1 ∧ t1 ≤ maxTick)) .demandRange
      let id : PortId := .sink c.num g j
      let had := (s.port c.num id).held
      let left := dropHeld had t0 t1
      let gone := (left.foldl (fun l (x, y) => l.flatMap fun iv => dropTicks [iv] x y) (meetTicks had t0 t1))
      let s := s.modPort c.num id fun q => { q with held := left }
      let s := gone.foldl (fun s (x, y) => s.dmdTicks c.num g j x y 1) s
      match c.gslots[g] with
      | none => .ok s
      | some G => .ok (s.sinkSends c.num g G j t0 t1 true)
    | _ => throw (trapWith .illegalField)
def execDcan (p a b : XReg) (g : PReg) (s : State) : Out := runWord g [p, a, b] [] (dcanBody p a b) s

end Sys2Proof.Machine
end

