-- ==== Sys2Proof/Machine/Image.lean ====
section
/-! DEFINITION. The graph image in memory (R269): its digest, its section table and the checks of `gld` (R279), in their order. -/
namespace Sys2Proof.Machine
open Sys2Proof

/-! ## SHAKE256 (R269) -/

/-- Round constants of the permutation Keccak-f[1600]. -/
def keccakConsts : List (BitVec 64) :=
  [0x0000000000000001, 0x0000000000008082, 0x800000000000808A, 0x8000000080008000, 0x000000000000808B, 0x0000000080000001] ++
  [0x8000000080008081, 0x8000000000008009, 0x000000000000008A, 0x0000000000000088, 0x0000000080008009, 0x000000008000000A] ++
  [0x000000008000808B, 0x800000000000008B, 0x8000000000008089, 0x8000000000008003, 0x8000000000008002, 0x8000000000000080] ++
  [0x000000000000800A, 0x800000008000000A, 0x8000000080008081, 0x8000000000008080, 0x0000000080000001, 0x8000000080008008]
/-- Rotation of lane x + 5y. -/
def keccakRots : List Nat := [0, 1, 62, 28, 27, 36, 44, 6, 55, 20, 3, 10, 43, 25, 39, 41, 45, 15, 21, 8, 18, 2, 61, 56, 14]

/-- One round on 25 lanes, lane x + 5y. -/
def keccakRound (a : List (BitVec 64)) (rc : BitVec 64) : List (BitVec 64) :=
  let at_ := fun (l : List (BitVec 64)) (x y : Nat) => l.getD (x % 5 + 5 * (y % 5)) 0
  let c := (List.range 5).map fun x => at_ a x 0 ^^^ at_ a x 1 ^^^ at_ a x 2 ^^^ at_ a x 3 ^^^ at_ a x 4
  let d := (List.range 5).map fun x => c.getD ((x + 4) % 5) 0 ^^^ (c.getD ((x + 1) % 5) 0).rotateLeft 1
  let t := a.zipIdx.map fun (v, i) => (v ^^^ d.getD (i % 5) 0).rotateLeft (keccakRots.getD i 0)
  let b := (List.range 25).map fun i => at_ t (i % 5 + 3 * (i / 5)) (i % 5)
  (List.range 25).map fun i =>
    let x := i % 5
    let y := i / 5
    (at_ b x y ^^^ (~~~(at_ b (x + 1) y) &&& at_ b (x + 2) y)) ^^^ (if i = 0 then rc else 0)
/-- The permutation. -/
def keccak (a : List (BitVec 64)) : List (BitVec 64) := keccakConsts.foldl keccakRound a

/-- Absorb one block of 136 bytes. -/
def absorb (a : List (BitVec 64)) (bs : List Byte) : List (BitVec 64) :=
  keccak (a.zipIdx.map fun (v, i) => if i < 17 then v ^^^ w64 (leNat ((bs.drop (8 * i)).take 8)) else v)
/-- Absorb the blocks of a padded message. -/
def absorbAll (bs : List Byte) : List (BitVec 64) :=
  (List.range (bs.length / 136)).foldl (fun a k => absorb a ((bs.drop (136 * k)).take 136)) (List.replicate 25 0)
/-- SHAKE256 with an output of 64 bytes. -/
def shake256 (bs : List Byte) : List Byte :=
  let r := 136 - bs.length % 136
  let pad : List Byte := if r = 1 then [0x9F] else [0x1F] ++ List.replicate (r - 2) 0 ++ [0x80]
  ((absorbAll (bs ++ pad)).take 8).flatMap fun v => leBytes 8 v.toNat

/-! ## The section table -/

/-- A section-table entry; `entry` is its byte offset in the image. -/
structure Sect where
  kind : Nat
  tile : Nat
  isa : Nat
  off : Nat
  len : Nat
  entry : Nat
  deriving DecidableEq, Repr

/-- A little-endian field of an image. -/
def field (bs : List Byte) (off n : Nat) : Nat := leNat ((bs.drop off).take n)

/-- Entry i of a section table. -/
def sectAt (tab : List Byte) (i : Nat) : Sect where
  kind := field tab (16 * i) 2
  tile := field tab (16 * i + 2) 2
  isa := field tab (16 * i + 4) 4
  off := field tab (16 * i + 8) 4
  len := field tab (16 * i + 12) 4
  entry := 96 + 16 * i

/-- A graph-wide section. -/
def Sect.wide (e : Sect) : Bool := e.kind == 2 || e.kind == 7 || e.kind == 8

/-- The lengths of R269, R315 and R377. -/
def Sect.lenOk (e : Sect) (share : Nat) : Bool :=
  match e.kind with
  | 1 => e.len == 80
  | 2 => e.len % 8 == 0 && decide (e.len ≤ 8 * 4096)
  | 3 => e.len % 4 == 0 && decide (4 ≤ e.len ∧ e.len ≤ 4 * 63)
  | 4 => e.len % 8 == 0 && decide (8 ≤ e.len ∧ e.len ≤ 8 * 63)
  | 5 => e.len == 4
  | 6 => decide (4 ≤ e.len ∧ e.isa + e.len ≤ 0x10000)
  | 7 => decide (0 < e.len) && e.len % 384 == 0
  | 8 => e.len == 8 + 7856 || e.len == 8 + 16224 || e.len == 8 + 29792
  | 9 => e.len % 4 == 0 && decide (4 ≤ e.len ∧ e.isa + e.len ≤ share)
  | _ => false

/-- Trap on the first field of a list that is bad, with its byte offset in the image (R279). -/
def checkFields (l : List (Nat × Bool)) : Except Stop Unit :=
  match l.find? (·.2) with
  | some (off, _) => .error (.trap .illegalField (w64 off) 0)
  | none => .ok ()

/-- Whether two ranges share a byte. -/
def rangesMeet (a n b m : Nat) : Bool := decide (max a b < min (a + n) (b + m))

/-- Every pair of a list, the earlier entry first. -/
def pairs {α : Type} : List α → List (α × α)
  | [] => []
  | x :: l => l.map (fun y => (x, y)) ++ pairs l

/-- Check 7 of R279: graph-wide sections may be given twice (R269), and the first of a kind is the one that counts.
Assumption 164 (DESIGN CHOICE). -/
def checkSections (es : List Sect) (bed : BitVec 16) (share top : Nat) : Except Stop Unit := do
  checkFields (es.flatMap fun e =>
    [(e.entry, decide (e.kind = 0 ∨ 9 < e.kind)), (e.entry + 2, if e.wide then e.tile != 0 else !(decide (e.tile < 1024) && inBed bed e.tile)),
     (e.entry + 4, e.kind != 6 && e.kind != 9 && e.isa != 0), (e.entry + 8, e.off % 16 != 0 || decide (e.off < top)),
     (e.entry + 12, !e.lenOk share)])
  checkFields ((pairs es).flatMap fun (a, b) =>
    [(b.entry, a.kind == b.kind && a.tile == b.tile && a.kind != 9 && !a.wide), (b.entry + 8, rangesMeet a.off a.len b.off b.len),
     (b.entry + 4, a.kind == 9 && b.kind == 9 && a.tile == b.tile && rangesMeet a.isa a.len b.isa b.len)])

/-! ## Words (R270 to R273, R286, R294, R298) -/

/-- A channel descriptor that keeps R273, by itself. -/
def chanOk (d : BitVec 64) : Bool :=
  (decide (chanPort d ≤ 6) || chanPort d == 8) && chanLanding d != 3 &&
  decide (2 ≤ (d.extractLsb' 24 4).toNat ∧ (d.extractLsb' 24 4).toNat ≤ 8) &&
  decide (2 ≤ (d.extractLsb' 20 4).toNat ∧ (d.extractLsb' 20 4).toNat ≤ 8) &&
  (chanLanding d == 1 || d.extractLsb' 0 15 == 0) && (chanPort d != 8 || d.extractLsb' 60 4 == 0)

/-- Operations that may not hold STATE (R298). -/
def noState (op : Nat) : Bool := op == 0 || isAcc op || op == 0x23 || op == 0x24 || op == 0x22 || op == 0x16

/-- The transfers of an element's selected inputs lie in its table, and STATE stands only where R298 allows it. -/
def xfersOk (w : BitVec 64) (tab : List (BitVec 64)) : Bool :=
  eOp w == 0 || eDbase w == 0x3F || (List.range 3).all fun i =>
    eIn w i == 0 || (decide (eDbase w + i < tab.length) &&
      ((xferOf (tab.getD (eDbase w + i) 0)).kind != 4 || (i == 0 && !noState (eOp w) && [0, 1, 2].any fun j => eIn w j == 3)))

/-- The VC that feeds boundary 0 of a tile in a channel table: the lowest that lands there and that no carry or merge reads. -/
def feedVc (chans : List (BitVec 64)) (t : TileId) (img : ChainImage) : Option SlotId :=
  if rKind img.routers[0] = 3 then none
  else (List.finRange 16).find? fun vc => !img.vcs.contains vc && chans.any fun d => chanDstt d == t && chanVc d == vc && chanLanding d != 2

/-- The words of a tile's chain section, with their byte offsets in the image and whether each breaks R270 to R272, R294 or R298. -/
def tileFields (e : Sect) (bs : List Byte) (img : ChainImage) (chans : List (BitVec 64)) (t : TileId) : List (Nat × Bool) :=
  let buffer := fun (vc : SlotId) => chans.any fun d => chanDstt d == t && chanVc d == vc && chanLanding d == 1
  ((List.range 6).map fun st => (e.off + 8 * st, !(img.elOk buffer (feedVc chans t img) st && xfersOk (img.el st) img.dtab))) ++
  ((List.range 7).map fun b => (e.off + 48 + 4 * b, !img.roOk b)) ++ [(e.off + 78, leNat (bs.drop 78) != 0)]

/-- The parent a statistics word names, and whether following parents from a tile reaches the root (R286). -/
def statParent (w : BitVec 32) : Nat := (w.extractLsb' 20 10).toNat
def reachesRoot (stats : List (Nat × BitVec 32)) : Nat → Nat → Bool
  | 0, _ => false
  | fuel + 1, t =>
    match assocGet stats t with
    | some w => w.getLsbD 31 && (w.getLsbD 30 || reachesRoot stats fuel (statParent w))
    | none => false
/-- Whether a tile's statistics word fits the tree of an image (R286); with a record there is one root. -/
def statOk (stats : List (Nat × BitVec 32)) (bed : BitVec 16) (statrec t : Nat) (w : BitVec 32) : Bool :=
  if statrec = 0 ∨ !w.getLsbD 31 then w == 0
  else
    w.extractLsb' 0 20 == 0 && (if w.getLsbD 30 then statParent w == 0 else inBed bed (statParent w)) && reachesRoot stats (stats.length + 1) t &&
    (!w.getLsbD 30 || (stats.find? (·.2.getLsbD 30)).elim true (·.1 == t))
def statsOk (stats : List (Nat × BitVec 32)) (bed : BitVec 16) (statrec : Nat) : Bool :=
  (statrec == 0 || stats.any (·.2.getLsbD 30)) && stats.all fun (t, w) => statOk stats bed statrec t w

/-- Whether a multicast group has room for a further branch (R276).
Assumption 165 (DEDUCED). -/
def groupFits (before : List (BitVec 64)) (d : BitVec 64) : Bool :=
  chanGroup d == 0 || decide ((before.filter fun q => chanGroup q == chanGroup d && chanPort q == chanPort d && chanSrct q == chanSrct d &&
    (chanPort d != 8 || dieOf (chanDstt q) == dieOf (chanDstt d))).length < 4)

/-! ## Loading -/

/-- What a good image gives: the graph, the task code and the scratchpad data with their tiles and offsets. -/
structure Loaded where
  graph : Graph
  code : List (TileId × Nat × List Byte)
  data : List (TileId × Nat × List Byte)
  deriving DecidableEq, Repr

/-- Read image bytes in the engine domain; under hint 5 they lie in the tile's own scratchpad (R40). -/
def State.imageBytes (s : State) (ctx : Nat) (t : TileId) (va n : Nat) (own : Bool) : Except Stop (List Byte) :=
  match s.locateRange ctx t va n { read := true, engine := true } with
  | .error (c, a) => .error (.trap c (w64 a) 0)
  | .ok ls =>
    if own && ls.any (fun (l, _) => match l with | .sp u _ => u != t | _ => true) then .error (.trap .protect (w64 va) 0)
    else
      match s.engineRead ctx t va n with
      | .error (c, a) => .error (.trap c (w64 a) 0)
      | .ok bs => .ok bs

/-- The flits a channel takes of its tile's pool: its depth, or the one that waits for it to drain where that is greater (R264, R282). -/
def Chan.claim (ch : Chan) : Nat := max ch.depth (ch.newDepth.getD 0)
/-- What the channels of the other loaded slots take of the pool of the tile they end at (R264). -/
def Context.poolOf (c : Context) (t : TileId) (but : Option (Fin 4)) : Nat :=
  (List.finRange 4).foldl (fun n g => if but = some g then n else match c.gslots[g] with
    | some G => (G.chans.filter fun ch => chanDstt ch.desc == t).foldl (fun n ch => n + ch.claim) n
    | none => n) 0

/-- A section's bytes. -/
def Sect.bytes (e : Sect) (img : List Byte) : List Byte := (img.drop e.off).take e.len
/-- A tile's section of a kind. -/
def sectOf (es : List Sect) (kind : Nat) (t : Nat) : Option Sect := es.find? fun e => e.kind == kind && e.tile == t
/-- Its bytes, none where there is no such section. -/
def sectBytes (es : List Sect) (img : List Byte) (kind t : Nat) : List Byte := (sectOf es kind t).elim [] (·.bytes img)

/-- What the digest covers (R269): every byte but 16 to 79 and the signature section.
Assumption 67 (DEDUCED). -/
def digested (img : List Byte) (es : List Sect) : List Byte :=
  (img.zipIdx.filter fun (_, i) => (decide (i < 16) || decide (80 ≤ i)) &&
    !(es.any fun e => e.kind == 8 && decide (e.off ≤ i) && decide (i < e.off + e.len))).map (·.1)

/-- The checks of `gld` after check 2, in R279's order, for an image at `va`.
Assumption 63 (DESIGN CHOICE).
Assumption 64 (DESIGN CHOICE).
Assumption 65 (DEDUCED).
Assumption 66 (DEDUCED).
Assumption 68 (DEDUCED).
Assumption 162 (DESIGN CHOICE). -/
def State.loadImage (s : State) (c : Context) (t : TileId) (g : Fin 4) (va : Nat) (own : Bool) : Except Stop Loaded := do
  let h ← s.imageBytes c.num t va 96 own
  let nsec := field h 6 2
  let flags := field h 12 4
  checkFields [(0, field h 0 4 != 0x1A494750), (4, field h 4 2 != 1), (6, decide (nsec = 0 ∨ 4096 < nsec)),
    (8, decide (1024 ≤ field h 8 2)), (10, decide (6 < field h 10 1)), (11, decide (4 < field h 11 1)), (12, decide (4 ≤ flags)),
    (80, if flags % 2 = 1 then decide (nsec ≤ field h 80 2) else field h 80 2 != 0), (82, field h 82 6 != 0), (88, field h 88 8 % 8 != 0)]
  let bed : BitVec 16 := BitVec.ofNat 16 (field h 8 2 + field h 10 1 * 2 ^ 10 + field h 11 1 * 2 ^ 13)
  let (lrect, split) ← match c.launch with | some l => pure l | none => throw (Stop.trap .protect 8 0)
  needAt (bedOk (bed.setWidth 64) && bedInside bed lrect) .protect 8
  needAt (decide (flags / 2 = 1) == split) .protect 12
  let tab ← s.imageBytes c.num t (va + 96) (16 * nsec) own
  let es := (List.range nsec).map (sectAt tab)
  let top := 96 + 16 * nsec
  let end_ := es.foldl (fun n e => max n (e.off + e.len)) top
  let rest ← s.imageBytes c.num t (va + top) ((end_ + 15) / 16 * 16 - top) own
  let img := h ++ tab ++ rest
  let digest := (h.drop 16).take 64
  needAt (shake256 (digested (img.take end_) es) == digest || shake256 (digested img es) == digest) .protect 16
  needAt (flags % 2 == 0 || s.verified.any fun (_, d) => d == digest) .protect 12
  checkSections es bed (Config.spShare split) top
  checkFields [(80, flags % 2 == 1 && ((es[field h 80 2]?).map (·.kind) != some 8))]
  let table := es.find? (·.kind == 2)
  let descs := (leWords 8 (sectBytes es img 2 0)).map w64
  let stats := (es.filter (·.kind == 5)).map fun e => (e.tile, BitVec.ofNat 32 (leNat (e.bytes img)))
  checkFields ((es.filter (·.kind == 1)).flatMap fun e =>
    let u : TileId := ⟨e.tile % 1024, Nat.mod_lt _ (by decide)⟩
    let consts := (leWords 4 (sectBytes es img 3 e.tile)).zipIdx.map fun (v, i) => (i, BitVec.ofNat 32 v)
    tileFields e (e.bytes img) (chainOf (e.bytes img) consts ((leWords 8 (sectBytes es img 4 e.tile)).map w64) 0) descs u)
  checkFields ((es.filter (·.kind == 4)).flatMap fun e => (leWords 8 (e.bytes img)).zipIdx.map fun (v, i) => (e.off + 8 * i, !xferOk (w64 v)))
  checkFields (descs.zipIdx.map fun (d, j) => ((table.map (·.off)).getD 0 + 8 * j,
    !chanOk d || (descs.take j).any (fun q => chanDstt q == chanDstt d && chanVc q == chanVc d) || !groupFits (descs.take j) d))
  checkFields ((es.filter (·.kind == 5)).map (fun e =>
    (e.off, !statOk stats bed (field h 88 8) e.tile (BitVec.ofNat 32 (leNat (e.bytes img))))) ++ [(88, !statsOk stats bed (field h 88 8))])
  match (descs.zipIdx.find? fun (d, _) => d.extractLsb' 24 4 != d.extractLsb' 20 4 && !d.getLsbD 19) with
  | some (_, j) => throw (Stop.trap .cfgNoGraft (w64 j) 0)
  | none => pure ()
  let chans := descs.map fun d => ({ desc := d, depth := (d.extractLsb' 28 6).toNat + 1 } : Chan)
  match (bedTilesOf chans).find? fun u =>
      decide (480 < c.poolOf u (some g) + ((chans.filter fun ch => chanDstt ch.desc == u).foldl (fun n ch => n + ch.depth) 0)) with
  | some u => throw (Stop.trap .cfgPool (w64 u.val) 0)
  | none => pure ()
  let at_ := fun (k : Nat) => (es.filter (·.kind == k)).map fun e =>
    ((⟨e.tile % 1024, Nat.mod_lt _ (by decide)⟩ : TileId), e.isa, e.bytes img)
  .ok {
    graph := { image := va, bed, statrec := field h 88 8, chans
               sections := es.map fun e => (e.kind, ⟨e.tile % 1024, Nat.mod_lt _ (by decide)⟩, e.isa, e.off, e.len) }
    code := at_ 6, data := at_ 9 }
where
  /-- the consumer tiles of a channel table, in its order -/
  bedTilesOf (chans : List Chan) : List TileId := chans.map fun ch => chanDstt ch.desc

end Sys2Proof.Machine
end

