-- ==== Sys2Proof/Machine/Graph.lean ====
section
/-! DEFINITION. The graph commands of class 0x9 (R278 to R284): loading, shadow loading and rotation, depth, start, stop and switch; and
the happenings of the fabric: landings, graft nodes, swaps, starts and stops. -/
namespace Sys2Proof.Machine
open Sys2Proof

/-! ## Operands -/

/-- The context of a graph command. -/
def State.graphCtx (s : State) (iss : Issue) : Except Stop Context :=
  match s.ctx? iss.ctx with
  | some c => .ok c
  | none => .error (trapWith .protect)

/-- A graph slot operand. -/
def gslotOf (s : BitVec 16) : Fin 4 := ⟨immN s % 4, Nat.mod_lt _ (by decide)⟩
/-- A reply VC operand. -/
def greply (iss : Issue) (s : BitVec 16) : GReply := { tile := iss.tile, vc := if s = 0 then none else some (slotN s), job := iss.job }
/-- Send a graph reply (R278). -/
def State.sendG (s : State) (r : GReply) (status v : Nat) : State :=
  match r.vc with | some vc => s.sendWord r.tile vc (replyWord status v) | none => s

/-- A region register (R278): well formed, and a bed of the launch. -/
def checkRegion (c : Context) (w : Word) : Except Stop (BitVec 16) :=
  if !bedOk w then .error (trapWith .illegalField)
  else match c.launch with
    | some (l, _) => if bedInside (w.extractLsb' 0 16) l then .ok (w.extractLsb' 0 16) else .error (trapWith .protect)
    | none => .error (trapWith .protect)

/-- A region operand; 0x0000 is the rectangle of a graph slot.
Assumption 72 (DEDUCED). -/
def regionOf (c : Context) (iss : Issue) (slot : BitVec 16) (dflt : Option Graph) : Except Stop (BitVec 16) :=
  if slot ≠ 0 then checkRegion c (iss.getX (slotX slot))
  else match dflt with
    | some G => .ok G.bed
    | none => .error (trapWith .illegalField)

/-! ## gld (R279) -/

def gldAddr (c : Cmd) (iss : Issue) : Nat := (iss.getX (slotX c.s2)).toNat

/-- Every check of `gld`, in order.
Assumption 69 (DEDUCED).
Assumption 70 (DEDUCED). -/
def gldLoad (c : Cmd) (iss : Issue) (s : State) : Except Stop Loaded := do
  let va := gldAddr c iss
  let k ← s.graphCtx iss
  let g := gslotOf c.s1
  needAt (decide (va % 64 = 0)) .misaligned va
  need (k.liveSlot != some g.val && !k.regions.any (fun e => e.shadow == .loading && e.src == g.val) &&
    !(match k.starting with | some x => x.slot == g.val | none => false)) .illegalField
  s.loadImage k iss.tile g va (c.hint == 5)

/-- The context of a graph command as its check sees it: in an open clause, with the images that `gld` commands held before it load. -/
def State.graphAhead (s : State) (iss : Issue) : Except Stop Context := do
  let k ← s.graphCtx iss
  if iss.wave = 0xFF then .ok k
  else .ok ((s.tile iss.tile).held.foldl (fun k h => match h.instr with
    | .gld c => (match gldLoad c h.iss s with | .ok l => { k with gslots := k.gslots.set (gslotOf c.s1) (some l.graph) } | .error _ => k)
    | _ => k) k)

/-- The slot's channels take their places: copy channels named as producers are bound (R226, R273), until another image binds the channel anew.
Assumption 179 (DESIGN CHOICE). -/
def bindCopies (c : Context) (chans : List Chan) (s : State) : State :=
  chans.foldl (fun s ch =>
    if chanPort ch.desc = 8 ∧ c.holds (chanDstt ch.desc).val then
      let n : Fin 64 := ⟨chanSrct ch.desc % 64, Nat.mod_lt _ (by decide)⟩
      s.modDie (dieOf (chanDstt ch.desc)) fun D => { D with ch := D.ch.set n { D.ch[n] with bind := some (chanDstt ch.desc, chanVc ch.desc) } }
    else s) s

/-- The VCs of a context that serve a graph slot's channels go on doing so when a further image takes its place, and those of the image's
own slot begin anew (R274). -/
def State.keepQueues (s : State) (k : Context) (g : Fin 4) (chans : List Chan) : State :=
  let s := k.tiles.foldl (fun s t => s.modTile t fun T => { T with vcSlot := T.vcSlot.map fun o => if o = some g then none else o }) s
  chans.foldl (fun s ch =>
    let t := chanDstt ch.desc
    let vc := chanVc ch.desc
    match s.vcChan t vc with
    | some (h, _, _) => if h = g then s else s.modTile t fun T => { T with vcSlot := T.vcSlot.set vc (some h) }
    | none => s) s

/-- A good image takes its slot; its task code and scratchpad data are written, with presence bits left as they stand. -/
def State.applyImage (s : State) (k : Context) (g : Fin 4) (l : Loaded) : State :=
  let s := (s.keepQueues k g l.graph.chans).modCtx k.num fun k => { k with gslots := k.gslots.set g (some l.graph) }
  let s := bindCopies k l.graph.chans s
  let s := l.code.foldl (fun s (t, a, bs) => s.modTile t fun T => { T with istore := Memory.write T.istore a bs }) s
  l.data.foldl (fun s (t, a, bs) => s.modTile t fun T => { T with sp := Memory.write T.sp a bs }) s

/-- `gld g, [xa]`. -/
def chkGld (c : Cmd) (iss : Issue) (s : State) : Except Stop Unit := (gldLoad c iss s).map fun _ => ()
def effGld (c : Cmd) (iss : Issue) (s : State) : Except Stop State := do
  let l ← gldLoad c iss s
  let k ← s.graphCtx iss
  .ok (s.applyImage k (gslotOf c.s1) l)
def execGld (c : Cmd) (s : State) : Out := issueCommand (.gld c) c [] (chkGld c) (effGld c) s

/-! ## gsh (R280) -/

/-- The checks of `gsh`: an empty slot has nothing to fetch.
Assumption 71 (DEDUCED). -/
def gshOf (c : Cmd) (iss : Issue) (k : Context) : Except Stop (Context × BitVec 16) := do
  need (k.gslots[gslotOf c.s1]).isSome .illegalField
  let r ← regionOf k iss c.s2 k.gslots[gslotOf c.s1]
  .ok (k, r)
def gshRegion (c : Cmd) (iss : Issue) (s : State) : Except Stop (Context × BitVec 16) := s.graphCtx iss >>= gshOf c iss
def chkGsh (c : Cmd) (iss : Issue) (s : State) : Except Stop Unit := (s.graphAhead iss >>= gshOf c iss).map fun _ => ()
/-- `gsh g[, region]`: the fetch begins; while an earlier one loads, or the region's planes rotate, it waits. Other regions that share a
tile with the region lose their shadow words.
Assumption 73 (DESIGN CHOICE).
Assumption 74 (DEDUCED). -/
def effGsh (c : Cmd) (iss : Issue) (s : State) : Except Stop State := do
  let (k, r) ← gshRegion c iss s
  if k.regions.any fun e => bedsMeet e.bed r && (e.shadow == .loading || e.rotating) then throw (.block .graphCmd)
  .ok ((s.modCtx k.num fun k =>
    { k with regions := k.regions.map fun (e : GraphRegion) => if bedsMeet e.bed r then { e with shadow := .empty } else e }.setRegion { k.region r with
      shadow := .loading, src := (gslotOf c.s1).val, reply := greply iss c.s3, issuer := some iss }).postOnce
    .shadowLoaded { ctx := k.num, id := r.toNat })
def execGsh (c : Cmd) (s : State) : Out := issueCommand (.gsh c) c [] (chkGsh c) (effGsh c) s

/-- The images of the tiles of a region in a loaded slot, fetched for a tile; or the address that failed. -/
def State.fetchTiles (s : State) (ctx : Nat) (by_ : TileId) (G : Graph) (ts : List TileId) : Except Unit (List (TileId × ChainImage)) :=
  (ts.filter fun t => G.sections.any fun (k, u, _) => k == 1 && u == t).mapM fun t =>
    match s.readChain ctx by_ G t with
    | .ok (some i) => .ok (t, i)
    | _ => .error ()

/-- A fetch of image words has failed (R280, R283): late `F_CFG_FETCH` to the issuing task, and a failed reply.
Assumption 81 (DEDUCED). -/
def State.fetchFails (s : State) (iss : Issue) (image : Nat) (r : Option GReply) : State :=
  let s := s.engineFails iss .cfgFetch (w64 image) 0 true
  match r with | some r => s.sendG r 2 0 | none => s

/-- SHADOW_LOADED (R280): the fetch of a region's shadow words ends, loaded or failed. -/
def execShadowLoaded (s : State) : Out :=
  happening .shadowLoaded (fun s =>
    match s.ctx? s.focus.ctx with
    | none => some s
    | some c =>
      let e := c.region (BitVec.ofNat 16 s.focus.id)
      let becomes := fun (s : State) (v : ShadowState) => s.modCtx c.num fun c => c.setRegion { e with shadow := v }
      if e.shadow ≠ .loading then some s
      else
        match c.graph? e.src, e.issuer with
        | some G, some iss =>
          match s.fetchTiles c.num iss.tile G (bedTiles e.bed) with
          | .error _ => some ((becomes s .failed).fetchFails iss G.image (some e.reply))
          | .ok l =>
            let s := (bedTiles e.bed).foldl (fun s t => s.modTile t fun T => { T with shadowChain := none, frontier := [] }) s
            let s := l.foldl (fun s (t, i) => s.modTile t fun T => { T with shadowChain := some i }) s
            some ((becomes s .loaded).sendG e.reply 0 0)
        | _, _ => some (becomes s .failed)) s

/-! ## grot (R281) -/

/-- Every element of a lane has swapped, and ROT has passed its routers (R281). -/
def Tile.laneRotated (T : Tile) (x : Stream) (L : SlotId) : Bool :=
  x.lanes[L].elems.toList.all (·.swapped) && (List.finRange 7).all fun b => x.lanes[L].swapped[b] || !T.reads x L b 1

/-- The tiles of a region whose arrays run the live graph of a context. -/
def State.rotTiles (s : State) (c : Context) (r : BitVec 16) : List TileId :=
  (bedTiles r).filter fun t => match (s.tile t).stream with | some { use := .graph n, .. } => n == c.num | _ => false

/-- A tile runs its shadow words from now on: its element and router words, with the constants and transfers they name.
Assumption 78 (DEDUCED). -/
def Tile.promote (T : Tile) : Tile :=
  let new := fun (i : ChainImage) => match T.shadowChain with
    | some sh => { sh with lanes := i.lanes, stat := i.stat }
    | none => i
  { T with
    stream := T.stream.map fun x => { x with
      img := new x.img, rotIn := none
      lanes := x.lanes.map fun l => { l with swapped := Vector.replicate 7 false, half := Vector.replicate 7 false, elems := l.elems.map fun e => { e with swapped := false } } }
    shadowChain := none, frontier := [] }

/-- The ROT tokens of a rotation that stand in channels of a tile which its array does not read are absorbed (R281). -/
def State.absorbRot (s : State) (t : TileId) (n : BitVec 16) : State :=
  (List.finRange 16).foldl (fun s vc =>
    let rot := fun (f : Flit) => f.kind == 4 && f.data == n.setWidth 512
    if !(s.vchan t vc).q.any rot then s
    else
      let s := s.modVc t vc fun v => { v with q := v.q.filter fun f => !rot f }
      if (s.vchan t vc).q.head?.any (·.kind == 0) then s.offerStart t vc else s) s

/-- Once every element of the region has swapped, the rotation ends (R281, step 5).
Assumption 79 (DEDUCED). -/
def State.endRotation (s : State) (ctx : Nat) (r : BitVec 16) : Option State :=
  match s.ctx? ctx with
  | none => none
  | some c =>
    let e := c.region r
    let ts := s.rotTiles c r
    if !e.rotating || e.frozen then none
    else if ts.all fun t => match (s.tile t).stream with | some x => x.active.all fun L => (s.tile t).laneRotated x L | none => true then
      let s := ts.foldl (fun s t => s.modTile t Tile.promote) s
      let s := (bedTiles r).foldl (fun s t => s.modTile t fun T => { T with shadowChain := none, frontier := [] }) s
      let s := ((bedTiles r).filter fun t => (s.tile t).owner == some c.num).foldl (fun s t => s.absorbRot t e.rotNum) s
      some ((s.modCtx ctx fun c => c.setRegion { e with shadow := .empty, rotating := false }).sendG e.rotReply 0 e.rotNum.toNat)
    else none

/-- Step 2 of R281 on one tile of the region, with or without an array: elements that select no input swap, and send ROT on where they send
at all; a ROT stands at boundary 0 where no channel feeds it, and behind the last flit of every VC that its chain reads or a channel of the
graph ends at, and no element of the region feeds.
Assumption 76 (DEDUCED).
Assumption 77 (DEDUCED). -/
def State.enterRot (s : State) (c : Context) (r : BitVec 16) (t : TileId) (n : BitVec 16) : State :=
  let inner := fun (vc : SlotId) => c.liveChans.any fun ch => chanDstt ch.desc == t && chanVc ch.desc == vc && isEdge ch.desc &&
    (s.rotTiles c r).contains (srcTile ch.desc)
  let ports := (c.liveChans.filter fun ch => chanDstt ch.desc == t).map fun ch => chanVc ch.desc
  let place := fun (s : State) (vcs : List SlotId) =>
    (vcs.eraseDups.filter fun vc => !inner vc).foldl (fun s vc => s.landFlit t vc { kind := 4, data := n.setWidth 512 }) s
  match (s.tile t).stream with
  | none => place s ports
  | some x =>
    let rot : Tok := { kind := 4, val := n.setWidth 96 }
    let alone := fun (L : SlotId) (st : Fin 6) => (arcInputs ((s.tile t).eWord x L st)).isEmpty
    let x' := x.active.foldl (fun x L => (List.finRange 6).foldl (fun x st =>
      if alone L st then
        x.modElem L st fun e => { e with swapped := true, next := if eOp ((s.tile t).eWord x L st) = 0 then e.next else e.next ++ [rot] }
      else x) x) x
    let edge := s.edgeVc t x.img
    let noFeed := edge.isNone && rKind x.img.routers[0] != 3
    let s := s.setStream t (if noFeed then { x' with rotIn := some n } else x')
    let bits := (List.finRange 6).flatMap fun st => (x.active.filter fun L => alone L st).map fun L => st.val * 16 + L.val
    let s := s.modTile t fun T => { T with frontier := bits }
    let merged := fun (vc : SlotId) => !(x.img.routers.toList.any fun w => rKind w == 3 && rVc w == vc) &&
      !c.liveChans.any fun ch => chanDstt ch.desc == t && chanVc ch.desc == vc
    place s ((x.img.vcs ++ edge.toList ++ ports).filter fun vc => !merged vc)

/-- The checks of `grot` (R281, step 1). -/
def grotRegion (c : Cmd) (iss : Issue) (s : State) : Except Stop (Context × GraphRegion) := do
  let k ← s.graphCtx iss
  let e := k.region (← regionOf k iss c.s1 (k.liveSlot.bind k.graph?))
  need (e.shadow == .loading || e.shadow == .loaded) .illegalField
  .ok (k, e)
def chkGrot (c : Cmd) (iss : Issue) (s : State) : Except Stop Unit := (grotRegion c iss s).map fun _ => ()
/-- `grot [region]`.
Assumption 75 (DEDUCED). -/
def effGrot (c : Cmd) (iss : Issue) (s : State) : Except Stop State := do
  let (k, e) ← grotRegion c iss s
  if e.shadow = .loading ∨ e.rotating = true then throw (.block .graphCmd)
  let n := e.rotNum + 1
  let s := s.modCtx k.num fun k => k.setRegion { e with rotNum := n, rotating := true, rotReply := greply iss c.s2 }
  let ts := s.rotTiles k e.bed
  let s := ts.foldl (fun s t => (s.enterRot k e.bed t n).postOnce .rotSwap { tile := t, unit := 255, ctx := k.num }) s
  let s := ((bedTiles e.bed).filter fun t => !ts.contains t && (s.tile t).owner == some k.num).foldl (fun s t => s.enterRot k e.bed t n) s
  .ok ((s.endRotation k.num e.bed).getD s)
def execGrot (c : Cmd) (s : State) : Out := issueCommand (.grot c) c [] (chkGrot c) (effGrot c) s

/-- ROT_SWAP (R281): the element of stage `unit` in lane `lane`; an owed one takes the first that can swap, ends the rotation once all
have, and stays owed while the region rotates. -/
def execRotSwap (s : State) : Out :=
  happening .rotSwap (fun s =>
    let t := s.focus.tile
    match s.here.stream with
    | none => some s
    | some x =>
      if s.frozenAt t x then none
      else if s.focus.unit < 6 then s.moveIn t (fun s x => atElem s t x s.focus.lane s.focus.unit) 6 x
      else if !s.rotates t x then some s
      else
        match s.moveIn t (fun s x => firstMove (List.range 6) atElem s t x) 6 x with
        | some s' => some (s'.postOnce .rotSwap s.focus)
        | none => match x.use, s.regionOf t x with | .graph n, some e => s.endRotation n e.bed | _, _ => some s) s

/-! ## gdep (R282) -/

/-- The checks of `gdep`: slot, channel and new depth.
Assumption 86 (DESIGN CHOICE). -/
def gdepCheck (c : Cmd) (iss : Issue) (s : State) : Except Stop (Context × Fin 4 × Nat × Chan × Nat) := do
  let k ← s.graphCtx iss
  let j := iss.xOrImm c.s1 0
  let d := iss.xOrImm c.s2 0
  match k.liveSlot with
  | none => throw (trapWith .illegalField)
  | some n =>
    let g : Fin 4 := ⟨n % 4, Nat.mod_lt _ (by decide)⟩
    match k.liveChans[j]? with
    | none => throw (trapWith .illegalField)
    | some ch =>
      need (decide (1 ≤ d ∧ d ≤ 64)) .illegalField
      need (k.holds (chanDstt ch.desc).val) .protect
      need (decide (k.poolOf (chanDstt ch.desc) none - ch.claim + d ≤ 480)) .cfgPool
      .ok (k, g, j, ch, d)
def chkGdep (c : Cmd) (iss : Issue) (s : State) : Except Stop Unit := (gdepCheck c iss s).map fun _ => ()
/-- `gdep ch, depth`. -/
def effGdep (c : Cmd) (iss : Issue) (s : State) : Except Stop State := do
  let (k, g, j, ch, d) ← gdepCheck c iss s
  if s.chanIdle ch then .ok (s.modChan k.num g j fun ch => { ch with depth := d, newDepth := none })
  else .error (.block (.drain g.val j d))
def execGdep (c : Cmd) (s : State) : Out := issueCommand (.gdep c) c [] (chkGdep c) (effGdep c) s

/-! ## gstr, gstp, gsw (R283, R284) -/

/-- The checks of `gstr`. -/
def gstrOk (c : Cmd) (k : Context) : Except Stop Unit := need (k.liveSlot.isNone && (k.gslots[gslotOf c.s1]).isSome) .illegalField
def chkGstr (c : Cmd) (iss : Issue) (s : State) : Except Stop Unit := s.graphAhead iss >>= gstrOk c
/-- Begin the fetch of a graph's active words; the retention floors of its ports are 0 from then on (R301). -/
def State.beginStart (s : State) (ctx : Nat) (g : Nat) (iss : Issue) (r : Option GReply) : State :=
  (s.modCtx ctx fun k => { k with
    starting := some { slot := g, iss, reply := r }
    ports := k.ports.map fun p => if portSlot p.port = g then { p with floors := [0, 0, 0] } else p }).postOnce .activeWordsFetched { ctx }
/-- `gstr g`. -/
def effGstr (c : Cmd) (iss : Issue) (s : State) : Except Stop State := do
  let k ← s.graphCtx iss
  gstrOk c k
  if k.starting.isSome then throw (.block .graphCmd)
  .ok (s.beginStart k.num (gslotOf c.s1).val iss none)
def execGstr (c : Cmd) (s : State) : Out := issueCommand (.gstr c) c [] (chkGstr c) (effGstr c) s

/-- The tiles of a graph that have a chain image. -/
def Graph.tiles (G : Graph) : List TileId := (bedTiles G.bed).filter fun t => G.sections.any fun (k, u, _) => k == 1 && u == t

/-- The VCs a graph's channels end at serve it from now on: the flits of another slot's channel there are kept with that channel (R274). -/
def State.serveSlot (s : State) (ctx : Nat) (g : Fin 4) (chans : List Chan) : State :=
  chans.zipIdx.foldl (fun s (ch, j) =>
    let t := chanDstt ch.desc
    let vc := chanVc ch.desc
    if (s.tile t).owner ≠ some ctx then s
    else
      let s := match s.vcChan t vc with
        | some (h, i, _) =>
          if h = g then s
          else
            let v := s.vchan t vc
            let s := (s.modVc t vc fun _ => ch.parked).modChan ctx h i fun x => { x with parked := v }
            let s := s.modChan ctx g j fun x => { x with parked := {} }
            let s := if ch.parked.waiting.isEmpty then s else s.postOnce .flitSend { tile := t, unit := vc.val }
            if ch.parked.q.any (·.kind == 0) then s.offerStart t vc else s
        | none => s
      s.modTile t fun T => { T with vcSlot := T.vcSlot.set vc (some g) }) s

/-- A graph slot becomes live with the words fetched: its arrays run, its landings begin at index 0, and its ports serve what they hold (R266,
R283, R293). -/
def State.startGraph (s : State) (c : Context) (g : Fin 4) (G : Graph) (imgs : List (TileId × ChainImage)) (job : Nat) : State :=
  let s := s.modCtx c.num fun k => { k with
    liveSlot := some g.val, graphJob := job, statK := 0, starting := none
    gslots := k.gslots.set g (some { G with chans := G.chans.map fun ch => { ch with index := 0, seq := [], frozen := false } })
    ports := k.ports.map fun p => if portSlot p.port = g.val then { p with
      faulted := false, stuck := false, segAt := none, segIdx := 0, feeds := p.feeds.map fun f => { f with sent := 0, upto := none } } else p }
  let s := s.serveSlot c.num g G.chans
  let s := imgs.foldl (fun s (t, i) => (s.setStream t { use := .graph c.num, img := i }).postStream t) s
  let s := (c.ports.filter fun p => portSlot p.port == g.val).foldl (fun s p => s.offerServe p.port) s
  G.chans.foldl (fun s ch =>
    if chanLanding ch.desc = 1 ∧ (s.vchan (chanDstt ch.desc) (chanVc ch.desc)).q ≠ [] then
      s.postOnce .streamBufferLanding { tile := chanDstt ch.desc, unit := (chanVc ch.desc).val }
    else s) s

/-- ACTIVE_WORDS_FETCHED (R283, R284): once the arrays of the graph's tiles are free, the fetch of its words ends and firing is enabled;
or the fetch fails and no graph becomes live.
Assumption 80 (DEDUCED). -/
def execActiveWordsFetched (s : State) : Out :=
  happening .activeWordsFetched (fun s =>
    match s.ctx? s.focus.ctx with
    | none => some s
    | some c =>
      match c.starting with
      | none => some s
      | some x =>
        let stopped := s.modCtx c.num fun k => { k with starting := none }
        let g : Fin 4 := ⟨x.slot % 4, Nat.mod_lt _ (by decide)⟩
        match c.gslots[g] with
        | none => some stopped
        | some G =>
          if !(G.tiles.all fun t => (s.tile t).stream.isNone && !(s.tile t).stages.toList.any Option.isSome) ||
              G.chans.any (fun ch => chanGroup ch.desc != 0 && (match chanBox ch.desc with | some t => (s.tile t).mcst.isSome | none => false)) then none
          else
            match s.fetchTiles c.num x.iss.tile G G.tiles with
            | .error _ => some (stopped.fetchFails x.iss G.image x.reply)
            | .ok imgs =>
              let s := s.startGraph c g G imgs x.iss.job
              some (match x.reply with | some r => s.sendG r 0 0 | none => s)) s

/-- `gstp` and `gsw`: sources send no further SOT; with no graph live the stop is done at once. -/
def State.beginStop (s : State) (k : Context) (next : Option Nat) (iss : Issue) (r : GReply) : Except Stop State :=
  if k.starting.isSome ∨ k.stopping.isSome then .error (.block .graphCmd)
  else if k.liveSlot.isNone then
    .ok (match next with
      | none => s.sendG r 0 0
      | some g => s.beginStart k.num g iss (some r))
  else .ok ((s.modCtx k.num fun k => { k with stopping := some { next, iss := some iss, reply := r } }).postOnce .graphStopped { ctx := k.num })

/-- `gstp`.
Assumption 82 (DEDUCED). -/
def effGstp (c : Cmd) (iss : Issue) (s : State) : Except Stop State := do
  let k ← s.graphCtx iss
  s.beginStop k none iss (greply iss c.s1)
def execGstp (c : Cmd) (s : State) : Out := issueCommand (.gstp c) c [] chkNothing (effGstp c) s

/-- `gsw g`: the slot it switches to is loaded. -/
def gswOk (c : Cmd) (k : Context) : Except Stop Unit := need (k.gslots[gslotOf c.s1]).isSome .illegalField
def chkGsw (c : Cmd) (iss : Issue) (s : State) : Except Stop Unit := s.graphAhead iss >>= gswOk c
def effGsw (c : Cmd) (iss : Issue) (s : State) : Except Stop State := do
  let k ← s.graphCtx iss
  gswOk c k
  s.beginStop k (some (gslotOf c.s1).val) iss (greply iss c.s2)
def execGsw (c : Cmd) (s : State) : Out := issueCommand (.gsw c) c [] (chkGsw c) (effGsw c) s

/-- The tiles whose arrays run the live graph of a context. -/
def State.graphTiles (s : State) (c : Context) : List TileId :=
  c.tiles.filter fun t => match (s.tile t).stream with | some { use := .graph n, .. } => n == c.num | _ => false

/-- Whether an element has forwarded the EOT of every segment it has begun (R284). -/
def ElemSt.closed (e : ElemSt) : Bool := e.base.isNone && e.buf.isEmpty && (!e.sot || e.eot)
/-- Nothing of a graph is on its way: no token in its arrays, no segment open in an element, no data flit in its channels (R284). -/
def State.graphDrained (s : State) (c : Context) : Bool :=
  ((s.graphTiles c).all fun t => match (s.tile t).stream with
    | some x => x.active.all fun L => x.lanes[L].empty && x.lanes[L].elems.toList.all ElemSt.closed
    | none => true) &&
  c.liveChans.all fun ch =>
    let v := s.vchan (chanDstt ch.desc) (chanVc ch.desc)
    ch.graftQ.isEmpty && !(v.q ++ v.waiting).any (·.kind == 0)

/-- Nothing of a graph can move any further: no token of its arrays but those that an element without arcs would make, and no flit at a
landing or a graft node. -/
def State.graphStill (s : State) (c : Context) : Bool :=
  ((s.graphTiles c).all fun t => match (s.tile t).stream.map (·.nextClk 6) with
    | some x =>
      let s := s.setStream t x
      let moves := fun (L : SlotId) (u : Nat) =>
        (!(if h : u < 6 then let w := (s.tile t).eWord x L ⟨u, h⟩; eOp w != 0 && (arcInputs w).isEmpty else false) && (s.fireStep t x L u).isSome) ||
        (if h : u < 7 then (s.steerStep t x L ⟨u, h⟩).isSome || (s.mergeStep t x L ⟨u, h⟩).isSome || (s.carryStep t x L ⟨u, h⟩).isSome else false)
      s.frozenAt t x || x.active.all fun L => (List.range 16).all fun u => !moves L u
    | none => true) &&
  c.liveChans.all fun ch =>
    ch.graftQ.isEmpty && (chanLanding ch.desc != 1 || ch.frozen || (s.vchan (chanDstt ch.desc) (chanVc ch.desc)).q.isEmpty)

/-- The final statistics record (R287): every node's sum, in one.
Assumption 85 (DEDUCED). -/
def State.finalRecord (s : State) (c : Context) : State :=
  match c.liveSlot.bind c.graph? with
  | none => s
  | some G =>
    let on := (s.graphTiles c).filter fun t => match (s.tile t).stream with | some x => x.img.stat.getLsbD 31 | none => false
    match on.find? fun t => match (s.tile t).stream with | some x => x.img.stat.getLsbD 30 | none => false with
    | none => s
    | some root =>
      let sum := on.foldl (fun v t => Vector.ofFn fun i : Fin 16 => satAdd32 v[i] ((s.tile t).statSum[i]).toNat) (Vector.replicate 16 0)
      let s := on.foldl (fun s t => s.modTile t fun T => { T with statSum := Vector.replicate 16 0 }) s
      if G.statrec = 0 then s else s.statRecord c.num root G.statrec sum true

/-- GRAPH_STOPPED (R284): with the last EOTs forwarded and no data flit left, or, of a blighted graph, with every BLIGHT token forwarded as
far as it goes (R351), the graph stops, the final record is written, and the reply goes, or the next graph starts. Intervals in service go
back to what their ports hold.
Assumption 83 (DEDUCED). -/
def execGraphStopped (s : State) : Out :=
  happening .graphStopped (fun s =>
    match s.ctx? s.focus.ctx with
    | none => some s
    | some c =>
      match c.stopping with
      | none => some s
      | some x =>
        if !s.graphDrained c && !(x.force && s.graphStill c) then none
        else
          let live := c.liveSlot.getD 4
          let s := s.finalRecord c
          let s := (s.graphTiles c).foldl (fun s t => s.endStream t) s
          let back := fun (p : DPort) => match p.serving with
            | some (a, b) => { p with
                serving := none, init := none, bare := false, stuck := false, cuts := [], posts := [], held := (coalesce p.held a b).getD p.held, owed := p.owed.erase (a, b)
                feeds := p.feeds.map fun f => { f with now := [], want := f.now.foldl (fun l (a, b) => joinTicks l a b) f.want } }
            | none => p
          let s := s.modCtx c.num fun k => { k with
            liveSlot := none, stopping := none
            regions := k.regions.map fun (e : GraphRegion) => { e with rotating := false, frozen := false }
            ports := k.ports.map fun p => if portSlot p.port = live then back p else p }
          let s := (c.regions.filter (·.rotating)).foldl (fun s e => s.sendG e.rotReply 1 0) s
          let s := (s.graphTiles c ++ c.tiles).foldl (fun s t => (List.finRange 16).foldl (fun s v =>
            match (s.vchan t v).q with | f :: _ => if f.kind = 0 then s.offerStart t v else s | [] => s) s) s
          some (match x.next, x.iss with
            | some g, some iss => s.beginStart c.num g iss (some x.reply)
            | _, _ => s.sendG x.reply 0 0)) s

/-! ## Landings and graft nodes -/

/-- STREAM_BUFFER_LANDING (R266): the flit at the head of a stream-buffer channel is written to scratchpad with its presence bits; a
control flit only takes its place in the sequence. A failing flit is a fabric fault, after which the landing takes nothing.
Assumption 30 (DESIGN CHOICE).
Assumption 88 (DEDUCED). -/
def execStreamBufferLanding (s : State) : Out :=
  happening .streamBufferLanding (fun s =>
    let t := s.focus.tile
    if h : s.focus.unit < 16 then
      let vc : SlotId := ⟨s.focus.unit, h⟩
      match s.vcChan t vc, (s.vchan t vc).q, (s.tile t).owner with
      | some (g, j, ch), f :: rest, some ctx =>
        if chanLanding ch.desc ≠ 1 then some s
        else if ch.frozen then none
        else
          let more := fun (s : State) => if rest.isEmpty then s else s.postOnce .streamBufferLanding s.focus
          let pop := fun (s : State) => s.modVc t vc VChan.dropFlit
          if f.kind ≠ 0 then some (more ((pop s).modChan ctx g j fun ch => { ch with seq := ch.seq ++ [some f] }))
          else
            let off := chanBase ch.desc + 64 * ch.index
            let ws := presenceWords off 64
            let fails := fun (code : FaultCode) =>
              (s.modChan ctx g j fun ch => { ch with frozen := true }).fabricRecord ctx code t 13 0xFF ch.desc.toNat 0 g.val j []
            if Config.spShare (s.tile t).split < off + 64 then some (fails .protect)
            else if ws.any (s.tile t).present.contains then some (fails .sbRewrite)
            else
              let s := (pop s).modTile t fun T => { T with sp := Memory.write T.sp off (leBytes 64 f.data.toNat), present := setPresent T.present ws }
              some (more (s.modChan ctx g j fun ch => { ch with index := ch.index + 1, seq := ch.seq ++ [none] }))
      | _, _, _ => some s
    else some s) s

/-- GRAFT_FORWARD (R275): a graft node forwards its oldest flit once what the producer's graph wrote before it, on the producer's tile, has
performed; a plain write of an element performs as it fires.
Assumption 87 (DEDUCED). -/
def execGraftForward (s : State) : Out :=
  happening .graftForward (fun s =>
    if h : s.focus.unit < 4 then
      let g : Fin 4 := ⟨s.focus.unit, h⟩
      match (s.ctx? s.focus.ctx).bind (·.gslots[g]) with
      | none => some s
      | some G =>
        match G.chans[s.focus.id]? with
        | none => some s
        | some ch =>
          match ch.graftQ with
          | [] => some s
          | f :: rest =>
            let writes := (s.tile (srcTile ch.desc)).accesses.any fun a => a.iss.auto && a.iss.ctx == s.focus.ctx
            if writes then none
            else
              let s := (s.modChan s.focus.ctx g s.focus.id fun ch => { ch with graftQ := rest }).landFlit (chanDstt ch.desc) (chanVc ch.desc) f
              some (if rest.isEmpty then s else s.postOnce .graftForward s.focus)
    else some s) s

end Sys2Proof.Machine
end

