-- ==== Sys2Proof/Machine/Scalar.lean ====
section
/-! DEFINITION. The scalar words that compute, select, branch and frame a clause (R75 to R89), and a word no entry assigns (R66). -/
namespace Sys2Proof.Machine
open Sys2Proof

/-! ## Results -/

/-- A shift amount: b[5:0] (R75). -/
def shamt (b : Word) : Nat := b.toNat % 64
/-- The high 64 bits of the signed product (R75). -/
def mulHighS (a b : Word) : Word := (a.signExtend 128 * b.signExtend 128).extractLsb' 64 64
/-- The high 64 bits of the unsigned product. -/
def mulHighN (a b : Word) : Word := (a.setWidth 128 * b.setWidth 128).extractLsb' 64 64
/-- Signed division truncating toward zero, with the fixed results of R76. -/
def divS (a b : Word) : Word := if b = 0 then BitVec.allOnes 64 else a.sdiv b
def divN (a b : Word) : Word := if b = 0 then BitVec.allOnes 64 else a.udiv b
/-- The remainder takes the sign of the dividend; by zero it is the dividend (R76). -/
def remS (a b : Word) : Word := if b = 0 then a else a.srem b
def remN (a b : Word) : Word := if b = 0 then a else a.umod b
/-- Zero bits above the highest set bit; 64 for 0. -/
def countLeading (a : Word) : Nat := if a = 0 then 64 else 63 - Nat.log2 a.toNat
/-- Zero bits below the lowest set bit, looking at n bits from bit i. -/
def trailing (a : Word) : Nat → Nat → Nat
  | 0, i => i
  | n + 1, i => if a.getLsbD i then i else trailing a n (i + 1)
/-- Zero bits below the lowest set bit; 64 for 0. -/
def countTrailing (a : Word) : Nat := trailing a 64 0
/-- Set bits. -/
def countOnes (a : Word) : Nat := (List.range 64).foldl (fun n i => if a.getLsbD i then n + 1 else n) 0
/-- A field sign-extended to 64 bits (R34). -/
def sx {n : Nat} (f : BitVec n) : Word := f.signExtend 64
/-- The field a[lsb+width−1 : lsb], zero-extended (R80). -/
def bitField (a : Word) (lsb width : Nat) : Word := (a >>> lsb) &&& (BitVec.allOnes 64 >>> (64 - width))
/-- The field sign-extended from bit width−1 (R80). -/
def bitFieldS (a : Word) (lsb width : Nat) : Word := (a <<< (64 - lsb - width)).sshiftRight (64 - width)
/-- `d` with bits [lsb+width−1 : lsb] replaced by a[width−1 : 0] (R80). -/
def bitInsert (d a : Word) (lsb width : Nat) : Word :=
  let mask : Word := (BitVec.allOnes 64 >>> (64 - width)) <<< lsb
  (d &&& ~~~mask) ||| ((a <<< lsb) &&& mask)
/-- A bit as a word. -/
def bit01 (b : Bool) : Word := if b then 1 else 0

/-- A register form `rd, ra, rb` (R75). -/
def runRRR (f : Word → Word → Word) (d a b : XReg) (g : PReg) (s : State) : Out :=
  runX g d [a, b] (fun s => f (s.getX a) (s.getX b)) s
/-- A register form `rd, ra` (R75). -/
def runRR (f : Word → Word) (d a : XReg) (g : PReg) (s : State) : Out := runX g d [a] (fun s => f (s.getX a)) s

/-! ## Integer register forms (R75, R76) -/

/-- `add rd, ra, rb` (R75). -/
def execAdd (d a b : XReg) (g : PReg) (s : State) : Out := runRRR (fun a b => a + b) d a b g s
/-- `sub rd, ra, rb` (R75). -/
def execSub (d a b : XReg) (g : PReg) (s : State) : Out := runRRR (fun a b => a - b) d a b g s
/-- `and rd, ra, rb` (R75). -/
def execAnd (d a b : XReg) (g : PReg) (s : State) : Out := runRRR (fun a b => a &&& b) d a b g s
/-- `or rd, ra, rb` (R75). -/
def execOr (d a b : XReg) (g : PReg) (s : State) : Out := runRRR (fun a b => a ||| b) d a b g s
/-- `xor rd, ra, rb` (R75). -/
def execXor (d a b : XReg) (g : PReg) (s : State) : Out := runRRR (fun a b => a ^^^ b) d a b g s
/-- `andn rd, ra, rb` (R75). -/
def execAndn (d a b : XReg) (g : PReg) (s : State) : Out := runRRR (fun a b => a &&& ~~~b) d a b g s
/-- `sll rd, ra, rb` (R75). -/
def execSll (d a b : XReg) (g : PReg) (s : State) : Out := runRRR (fun a b => a <<< shamt b) d a b g s
/-- `srl rd, ra, rb` (R75). -/
def execSrl (d a b : XReg) (g : PReg) (s : State) : Out := runRRR (fun a b => a >>> shamt b) d a b g s
/-- `sra rd, ra, rb` (R75). -/
def execSra (d a b : XReg) (g : PReg) (s : State) : Out := runRRR (fun a b => a.sshiftRight (shamt b)) d a b g s
/-- `rol rd, ra, rb` (R75). -/
def execRol (d a b : XReg) (g : PReg) (s : State) : Out := runRRR (fun a b => a.rotateLeft (shamt b)) d a b g s
/-- `mul rd, ra, rb` (R75). -/
def execMul (d a b : XReg) (g : PReg) (s : State) : Out := runRRR (fun a b => a * b) d a b g s
/-- `mulh rd, ra, rb` (R75). -/
def execMulh (d a b : XReg) (g : PReg) (s : State) : Out := runRRR (fun a b => mulHighS a b) d a b g s
/-- `mulhn rd, ra, rb` (R75). -/
def execMulhn (d a b : XReg) (g : PReg) (s : State) : Out := runRRR (fun a b => mulHighN a b) d a b g s
/-- `div rd, ra, rb` (R76). -/
def execDiv (d a b : XReg) (g : PReg) (s : State) : Out := runRRR (fun a b => divS a b) d a b g s
/-- `divn rd, ra, rb` (R76). -/
def execDivn (d a b : XReg) (g : PReg) (s : State) : Out := runRRR (fun a b => divN a b) d a b g s
/-- `rem rd, ra, rb` (R76). -/
def execRem (d a b : XReg) (g : PReg) (s : State) : Out := runRRR (fun a b => remS a b) d a b g s
/-- `remn rd, ra, rb` (R76). -/
def execRemn (d a b : XReg) (g : PReg) (s : State) : Out := runRRR (fun a b => remN a b) d a b g s
/-- `min rd, ra, rb` (R75). -/
def execMin (d a b : XReg) (g : PReg) (s : State) : Out := runRRR (fun a b => if a.slt b then a else b) d a b g s
/-- `minn rd, ra, rb` (R75). -/
def execMinn (d a b : XReg) (g : PReg) (s : State) : Out := runRRR (fun a b => if a.ult b then a else b) d a b g s
/-- `max rd, ra, rb` (R75). -/
def execMax (d a b : XReg) (g : PReg) (s : State) : Out := runRRR (fun a b => if b.slt a then a else b) d a b g s
/-- `maxn rd, ra, rb` (R75). -/
def execMaxn (d a b : XReg) (g : PReg) (s : State) : Out := runRRR (fun a b => if b.ult a then a else b) d a b g s
/-- `slt rd, ra, rb` (R75). -/
def execSlt (d a b : XReg) (g : PReg) (s : State) : Out := runRRR (fun a b => if a.slt b then 1 else 0) d a b g s
/-- `sltn rd, ra, rb` (R75). -/
def execSltn (d a b : XReg) (g : PReg) (s : State) : Out := runRRR (fun a b => if a.ult b then 1 else 0) d a b g s
/-- `clz rd, ra`. -/
def execClz (d a : XReg) (g : PReg) (s : State) : Out := runRR (fun a => w64 (countLeading a)) d a g s
/-- `ctz rd, ra`. -/
def execCtz (d a : XReg) (g : PReg) (s : State) : Out := runRR (fun a => w64 (countTrailing a)) d a g s
/-- `popc rd, ra`. -/
def execPopc (d a : XReg) (g : PReg) (s : State) : Out := runRR (fun a => w64 (countOnes a)) d a g s

/-! ## Immediate forms (R77, R78) -/

/-- `addi rd, ra, imm`: the immediate is sign-extended. -/
def execAddi (d a : XReg) (i : BitVec 13) (g : PReg) (s : State) : Out := runRR (fun a => a + sx i) d a g s
/-- `andi rd, ra, imm`: the immediate is sign-extended. -/
def execAndi (d a : XReg) (i : BitVec 13) (g : PReg) (s : State) : Out := runRR (fun a => a &&& sx i) d a g s
/-- `ori rd, ra, imm`: the immediate is sign-extended. -/
def execOri (d a : XReg) (i : BitVec 13) (g : PReg) (s : State) : Out := runRR (fun a => a ||| sx i) d a g s
/-- `xori rd, ra, imm`: the immediate is sign-extended. -/
def execXori (d a : XReg) (i : BitVec 13) (g : PReg) (s : State) : Out := runRR (fun a => a ^^^ sx i) d a g s
/-- `slti rd, ra, imm`: the immediate is sign-extended. -/
def execSlti (d a : XReg) (i : BitVec 13) (g : PReg) (s : State) : Out := runRR (fun a => bit01 (a.slt (sx i))) d a g s
/-- `sltni rd, ra, imm`: the immediate is sign-extended. -/
def execSltni (d a : XReg) (i : BitVec 13) (g : PReg) (s : State) : Out := runRR (fun a => bit01 (a.ult (sx i))) d a g s
/-- `slli rd, ra, sh`. -/
def execSlli (d a : XReg) (n : BitVec 6) (g : PReg) (s : State) : Out := runRR (fun a => a <<< n.toNat) d a g s
/-- `srli rd, ra, sh`. -/
def execSrli (d a : XReg) (n : BitVec 6) (g : PReg) (s : State) : Out := runRR (fun a => a >>> n.toNat) d a g s
/-- `srai rd, ra, sh`. -/
def execSrai (d a : XReg) (n : BitVec 6) (g : PReg) (s : State) : Out := runRR (fun a => a.sshiftRight n.toNat) d a g s
/-- `roli rd, ra, sh`. -/
def execRoli (d a : XReg) (n : BitVec 6) (g : PReg) (s : State) : Out := runRR (fun a => a.rotateLeft n.toNat) d a g s

/-! ## Constants, bit fields, selects, predicates (R79 to R83) -/

/-- `lui rd, imm`: sx(imm21) << 12. -/
def execLui (d : XReg) (i : BitVec 21) (s : State) : Out := runX 0 d [] (fun _ => sx i <<< 12) s
/-- `pcai rd, imm`: pc + 4·sx(imm21), taken as 64-bit two's complement; in system mode the pc is the management core's own.
Assumption 12 (DESIGN CHOICE). -/
def execPcai (d : XReg) (i : BitVec 21) (s : State) : Out :=
  runX 0 d [] (fun s => (if s.sysMode then s.core.pc else s.cur.pc.setWidth 64) + sx i * 4) s
/-- `bfx rd, ra, lsb, width`; the word holds width − 1. -/
def execBfx (d a : XReg) (l w : BitVec 6) (g : PReg) (s : State) : Out := runRR (fun a => bitField a l.toNat (w.toNat + 1)) d a g s
/-- `bfx.s rd, ra, lsb, width`. -/
def execBfxS (d a : XReg) (l w : BitVec 6) (g : PReg) (s : State) : Out := runRR (fun a => bitFieldS a l.toNat (w.toNat + 1)) d a g s
/-- `bfi rd, ra, lsb, width`: rd is read as a source. -/
def execBfi (d a : XReg) (l w : BitVec 6) (g : PReg) (s : State) : Out :=
  runX g d [a] (fun s => bitInsert (s.getX d) (s.getX a) l.toNat (w.toNat + 1)) s
/-- `sel rd, ra, rb, pN`: the guard applies before the select. -/
def execSel (d a b : XReg) (p g : PReg) (s : State) : Out :=
  runWord g [d, a, b] [p] (fun s => .ok (s.setX d (if s.getP p then s.getX a else s.getX b))) s

/-- `pcmp.cond pd, ra, rb` (R82). -/
def runPcmp (f : Word → Word → Bool) (d : PReg) (a b : XReg) (g : PReg) (s : State) : Out :=
  runWord g [a, b] [d] (fun s => .ok (s.setP d (f (s.getX a) (s.getX b)))) s
/-- `pcmp.eq`. -/
def execPcmpEq (d : PReg) (a b : XReg) (g : PReg) (s : State) : Out := runPcmp (fun a b => a == b) d a b g s
/-- `pcmp.ne`. -/
def execPcmpNe (d : PReg) (a b : XReg) (g : PReg) (s : State) : Out := runPcmp (fun a b => a != b) d a b g s
/-- `pcmp.lt`. -/
def execPcmpLt (d : PReg) (a b : XReg) (g : PReg) (s : State) : Out := runPcmp (fun a b => a.slt b) d a b g s
/-- `pcmp.ge`. -/
def execPcmpGe (d : PReg) (a b : XReg) (g : PReg) (s : State) : Out := runPcmp (fun a b => !a.slt b) d a b g s
/-- `pcmp.ltn`. -/
def execPcmpLtn (d : PReg) (a b : XReg) (g : PReg) (s : State) : Out := runPcmp (fun a b => a.ult b) d a b g s
/-- `pcmp.gen`. -/
def execPcmpGen (d : PReg) (a b : XReg) (g : PReg) (s : State) : Out := runPcmp (fun a b => !a.ult b) d a b g s
/-- `plog pd, pa, pb, tt`: bit 2·a + b of the truth table (R83). -/
def execPlog (d a b : PReg) (t : BitVec 4) (g : PReg) (s : State) : Out :=
  runWord g [] [d, a, b]
    (fun s => .ok (s.setP d (t.getLsbD ((if s.getP a then 2 else 0) + (if s.getP b then 1 else 0))))) s

/-! ## Branches and jumps (R84 to R87) -/

/-- `b.eq ra, rb, label`. -/
def execBEq (a b : XReg) (o : BitVec 13) (s : State) : Out :=
  runBranch [a, b] [] (fun s => let a := s.getX a; let b := s.getX b; a == b) o.toInt s
/-- `b.ne ra, rb, label`. -/
def execBNe (a b : XReg) (o : BitVec 13) (s : State) : Out :=
  runBranch [a, b] [] (fun s => let a := s.getX a; let b := s.getX b; a != b) o.toInt s
/-- `b.lt ra, rb, label`. -/
def execBLt (a b : XReg) (o : BitVec 13) (s : State) : Out :=
  runBranch [a, b] [] (fun s => let a := s.getX a; let b := s.getX b; a.slt b) o.toInt s
/-- `b.ge ra, rb, label`. -/
def execBGe (a b : XReg) (o : BitVec 13) (s : State) : Out :=
  runBranch [a, b] [] (fun s => let a := s.getX a; let b := s.getX b; !a.slt b) o.toInt s
/-- `b.ltn ra, rb, label`. -/
def execBLtn (a b : XReg) (o : BitVec 13) (s : State) : Out :=
  runBranch [a, b] [] (fun s => let a := s.getX a; let b := s.getX b; a.ult b) o.toInt s
/-- `b.gen ra, rb, label`. -/
def execBGen (a b : XReg) (o : BitVec 13) (s : State) : Out :=
  runBranch [a, b] [] (fun s => let a := s.getX a; let b := s.getX b; !a.ult b) o.toInt s
/-- `bp.t pN, label`. -/
def execBpT (p : PReg) (o : BitVec 13) (s : State) : Out := runBranch [] [p] (fun s => s.getP p) o.toInt s
/-- `bp.f pN, label`. -/
def execBpF (p : PReg) (o : BitVec 13) (s : State) : Out := runBranch [] [p] (fun s => !s.getP p) o.toInt s

/-- `jal rd, label` (R86): the return address, then the jump; a target that traps leaves rd unchanged. -/
def execJal (d : XReg) (o : BitVec 21) (s : State) : Out :=
  if s.sysMode then .next ((s.setX d (s.core.pc + 4)).sysJump (s.core.pc + sx o * 4))
  else if s.clauseBars false false then .next (s.takeTrap .illegalOp 0 0 4 false)
  else
    match s.pendingRegs [d] [] with
    | some e => .next (s.stop 4 e)
    | none => finishTransfer s (s.setX d (w64 (s.cur.pc.toNat + 4))) (some (s.cur.pc.toNat + 4 * o.toInt))

/-- The target of a `jalr` (R87), with its checks in order: alignment, range (unsigned), tail word. -/
def jalrTarget (s : State) (t : Word) : Except Stop (BitVec 16) :=
  if t.toNat % 4 ≠ 0 then .error (.trap .misaligned t 0)
  else if 0xFFFC < t.toNat then .error (.trap .protect t 0)
  else if s.here.isTail t.toNat then .error (.trap .illegalOp t 0)
  else .ok (t.setWidth 16)

/-- `jalr rd, ra, imm` (R87). -/
def execJalr (d a : XReg) (i : BitVec 13) (g : PReg) (s : State) : Out :=
  if s.sysMode then
    .next (if s.getP g then (s.setX d (s.core.pc + 4)).sysJump (s.getX a + sx i) else s.sysJump (s.core.pc + 4))
  else if s.clauseBars false false then .next (s.takeTrap .illegalOp 0 0 4 false)
  else
    match s.pendingRegs [] [g] with
    | some e => .next (s.stop 4 e)
    | none =>
      if s.getP g then
        match s.pendingRegs [d, a] [] with
        | some e => .next (s.stop 4 e)
        | none =>
          match jalrTarget s (s.getX a + sx i) with
          | .error e => .next (s.stop 4 e)
          | .ok pc => .next ((s.setX d (w64 (s.cur.pc.toNat + 4))).jump pc)
      else finishTransfer s s none

/-! ## Clause header, no-operation, bad encodings (R54 to R58, R66, R88, R89) -/

/-- `nop` (R89): nothing but its issue clk; inside a clause it stands only as padding. -/
def execNop (s : State) : Out :=
  if s.clauseBars true false then .next (s.takeTrap .illegalOp 0 0 4 false)
  else if s.fallsOut 4 then .next (s.takeTrap .protect (w64 (s.cur.pc.toNat + 4)) 0 4 true)
  else .next (s.advance 4)

/-- The first padding word after the header that is not a `nop`, if any (R55). -/
def badPadding (T : Tile) (a : Nat) : Nat → Option Nat
  | 0 => none
  | n + 1 =>
    if a % 16 = 0 then none
    else if wordAt (Memory.read T.istore a 4) 0 = 0x88000000#32 then badPadding T (a + 4) n else some a

/-- The address after `n` commands from a 16-byte boundary; a `cpym` counts with its follow-on (R55). -/
def passCommands (T : Tile) : Nat → Nat → Nat
  | a, 0 => a
  | a, n + 1 => passCommands T (a + if isCpym (T.unit (a / 16)) then 32 else 16) n

/-- The pc after a clause header at `pc` that passes over `skip` commands (R88); it stops at a word that is no padding. -/
def clausePc (T : Tile) (pc skip : Nat) : Nat :=
  match badPadding T (pc + 4) 3 with
  | some a => a
  | none => passCommands T ((pc + 4 + 15) / 16 * 16) skip

/-- Whether another slot of the tile has a clause open (R57). -/
def State.otherClause (s : State) : Bool :=
  (List.finRange 16).any fun k => k != s.focus.slot && (s.here.slot k).cls.isOpen

/-- `cls n` (R54, R88): opens a clause, or resumes the open one at its own header; it ignores guards.
Assumption 147 (DESIGN CHOICE). -/
def execCls (n : BitVec 4) (s : State) : Out :=
  if s.sysMode then .next (s.advance 4)
  else if s.clauseBars false true then .next (s.takeTrap .illegalOp 0 0 4 false)
  else if s.fallsOut 4 then .next (s.takeTrap .protect (w64 (s.cur.pc.toNat + 4)) 0 4 true)
  else
    let k := s.cur
    let again := k.cls.isOpen && k.cls.hdr == k.pc
    if !again && s.otherClause then .next (s.blockSlot .clause)
    else
      let skip := if again then n.toNat - k.cls.remaining.toNat else 0
      let pc := clausePc s.here k.pc.toNat skip
      if 0xFFFC < pc then .next (s.takeTrap .protect (w64 pc) 0 4 true)
      else
        let k' : Slot :=
          if again then k
          else { k with
            cls := { hdr := k.pc, remaining := n, wave := k.wavectr, isOpen := true }
            wavectr := if k.wavectr = 0xFE then 0 else k.wavectr + 1 }
        .next ((s.modCur fun _ => k').jump (BitVec.ofNat 16 pc))

/-- A word or command that no entry assigns (R66, R67): it traps whatever its guard. The address of a misaligned escape word is the
PC (R31). A scalar word inside an open clause traps as R55 says, before its fields are looked at. -/
def execIllegalEncoding (code : FaultCode) (s : State) : Out :=
  let len := fetchLength s.cur.pc (s.here.fetch s.cur.pc 32)
  let code := if len = 4 ∧ code ≠ .misaligned ∧ s.clauseBars false true = true then .illegalOp else code
  .next (s.takeTrap code (if code = .misaligned then s.cur.pc.setWidth 64 else 0) 0 len false)

end Sys2Proof.Machine
end

