-- ==== Sys2Proof/Machine/Walk.lean ====
section
/-! DEFINITION. Pointer walks (R246 to R262, R396): `walk`, where a walk runs, its rules, its memory reads, its reply. -/
namespace Sys2Proof.Machine
open Sys2Proof

/-! ## Walks and walkers -/

/-- A walk in flight. -/
def State.walk? (s : State) (id : Nat) : Option Walk := s.walks.find? (·.id == id)
/-- Replace a walk. -/
def State.setWalk (s : State) (w : Walk) : State := { s with walks := s.walks.map fun x => if x.id = w.id then w else x }
/-- A walk ends: its walker and its tile count it no longer. -/
def State.dropWalk (s : State) (w : Walk) : State :=
  State.modTile { s with walks := s.walks.filter (·.id != w.id) } w.iss.tile fun T => { T with walksOut := T.walksOut - 1 }
/-- A walk has a rule to run, at the walker it is present at. -/
def State.oweRule (s : State) (w : Walk) : State :=
  if s.pending.contains (.rule w.walker) then s else { s with pending := s.pending ++ [.rule w.walker] }
/-- A walker by number. -/
def walkerIx (j : Nat) : Fin 128 := ⟨j % 128, Nat.mod_lt _ (by decide)⟩
/-- The walk whose turn it is at a walker (R246): of those present with a rule to run, the next by number after the one it ran last, round
the end. -/
def State.turnAt (s : State) (j : Nat) : Option Walk :=
  let ready := s.walks.filter fun w => w.owner.isSome && w.walker == j && w.phase == .running
  (ready.find? fun w => decide (s.walkLast[walkerIx j] < w.id)).or ready.head?

/-- Walks a walker owns, and walks present at it (R246, R248). -/
def State.owned (s : State) (j : Nat) : Nat := (s.walks.filter fun w => w.owner == some j).length
def State.present (s : State) (j : Nat) : Nat := (s.walks.filter fun w => w.owner.isSome && w.walker == j).length
/-- The HBM stack of a device physical address (R21). -/
def stackOf (pa : Nat) : Nat := 2 * (pa / 4096 % 8) + pa / 32768 % 2
/-- The walker of a stack with the least load, the lowest among equals. -/
def leastWalker (load : Nat → Nat) (stack : Nat) : Nat :=
  ((List.range 8).map (8 * stack + ·)).foldl (fun b j => if load j < load b then j else b) (8 * stack)

/-- The stack a walk's root is homed in (R247): none where its translation fails or leads elsewhere. -/
def State.rootStack (s : State) (iss : Issue) (root : Nat) : Option Nat :=
  if !translated root then none
  else
    match s.leafOf iss.ctx iss.tile root with
    | some (e, level) => if eBit e 10 || decide (Config.hbmBytes ≤ leafOut e level root) then none else some (stackOf (leafOut e level root))
    | none => none
/-- The walker that takes a walk (R247), which may be full. -/
def State.walkerFor (s : State) (iss : Issue) (root : Nat) : Nat :=
  match s.rootStack iss root with
  | some k => leastWalker s.owned k
  | none => 16 * (dieOf iss.tile).val

/-! ## Ends of a walk (R256 to R258) -/

/-- Fill words of a record (R257). -/
def fillWord (t : BitVec 5) : Word :=
  if t = 0 then BitVec.allOnes 64
  else (packFields (tagWidth t) (List.replicate (64 / tagWidth t) (fallowCode t))).setWidth 64

/-- A walk has its reply ready. -/
def State.walkEnds (s : State) (w : Walk) (status : Nat) (record : List Word) (fault rule : Nat) : State :=
  (s.setWalk { w with phase := .replying status record fault rule }).postOnce .walkReply { walk := w.id }

/-- The aux word of a walker's record (R341). -/
def Walk.aux (w : Walk) : Word := w64 (4 + w.walker * 256 + (if 31 < w.rule then w.last else w.rule) * 65536)

/-- A walk fault ends the walk under its policy, `F_ECC` as under policy 3 (R258). -/
def State.walkFault (s : State) (w : Walk) (code : FaultCode) (addr : Nat) : State :=
  let rule := if 31 < w.rule then w.last else w.rule
  match if code = .ecc then 3 else w.policy with
  | 0 => s.walkEnds w 3 [] code.val rule
  | 1 => s.walkEnds w 4 (List.replicate 8 (fillWord w.fmt)) code.val rule
  | 2 => (s.dropWalk w).engineFails w.iss code (w64 addr) w.aux true
  | _ =>
    let w := match w.reply with | .vc .. => { w with reply := .none } | _ => w
    (s.walkEnds w 1 [] code.val rule).engineFails w.iss code (w64 addr) w.aux false

/-- The header of a reply (R256). -/
def walkHeader (status n steps fault rule : Nat) : Word :=
  w64 (status * 2 ^ 48 + n * 2 ^ 44 + steps % 4096 * 2 ^ 32 + fault % 65536 * 2 ^ 16 + rule % 32)

/-- Write the words of a versioned reply, ascending, then the header (R257): the state, or what it had become and the fault. -/
def State.writeBlock (w : Walk) (v : Nat) : List (Nat × Word) → State → State × Option (FaultCode × Nat)
  | [], s => (s, none)
  | (a, d) :: l, s =>
    match s.writeVersioned w.iss.ctx w.iss.tile a v d with
    | .ok s => State.writeBlock w v l s
    | .error c => (s, some (c, a))

/-- The counter a reply raises (R258). -/
def walkCount (status : Nat) : List Nat := if status = 2 ∨ status = 3 then [12] else if status = 4 then [13] else []

/-- Send the reply of a walk that has ended (R257): a word, or a record and its header; a write that fails blights the job.
Assumption 61 (DEDUCED). -/
def State.sendWalk (s : State) (w : Walk) (status : Nat) (record : List Word) (fault rule : Nat) : State :=
  let header := walkHeader status record.length w.steps fault rule
  let s := s.dropWalk w
  match w.reply with
  | .none => s
  | .vc t vc => (s.sendWord t vc header).bumpAll w.iss (walkCount status)
  | .ver va v =>
    let words := (List.range 8).map fun i => (va + 8 + 8 * i, record.getD i (fillWord w.fmt))
    match State.writeBlock w v (words ++ [(va, header)]) s with
    | (s, none) => s.bumpAll w.iss (walkCount status)
    | (s, some (c, a)) =>
      (if status = 1 then s else s.engineFails w.iss c (w64 a) w.aux false).dropReply w.iss.ctx va v

/-- A walk whose reply is ready sends it. -/
def walkReplies (i : Instr) (s : State) : Out :=
  happening i (fun s =>
    match s.walk? s.focus.walk with
    | none => some s
    | some w =>
      match w.phase with
      | .replying status record fault rule => some (s.sendWalk w status record fault rule)
      | _ => some s) s

/-- WALK_REPLY (R257): a walk writes its reply after its reads. -/
def execWalkReply (s : State) : Out := walkReplies .walkReply s
/-- FALLOW_KEY_REPLY (R396): walker 0 of stack 2d answers a walk whose key is fallow. -/
def execFallowKeyReply (s : State) : Out := walkReplies .fallowKeyReply s

/-! ## Starting a walk (R247, R250 to R252) -/

/-- Fields of a `walk` command. -/
def walkSnap (c : Cmd) : Bool := c.eh.getLsbD 2
def walkWords (c : Cmd) : Nat := (c.ew.extractLsb' 0 2).toNat + 1
def walkIndex (c : Cmd) : Nat := (c.eh.extractLsb' 0 2 ++ c.ew).toNat
def walkKeyReg (c : Cmd) : Nat := (slotX c.s3).toNat
/-- An x register by number. -/
def regNum (n : Nat) : XReg := BitVec.ofNat 5 n
/-- The x registers a walk reads beside its slots. -/
def walkRegs (c : Cmd) : List XReg :=
  replyRegs c.s5 ++ (if isX c.s3 then (List.range (walkWords c + if walkSnap c then 1 else 0)).map fun i => regNum (walkKeyReg c + i) else [])

/-- The v register and the element a v key names. -/
def walkKeyV (c : Cmd) (iss : Issue) (s : State) : VReg := (s.tile iss.tile).vreg (slotV c.s3)
def walkElem (c : Cmd) (iss : Issue) (s : State) : Nat := (elems (walkKeyV c iss s).tag (walkKeyV c iss s)).getD (walkIndex c) 0
/-- Whether the key is a fallow element (R252, R396). -/
def walkFallow (c : Cmd) (iss : Issue) (s : State) : Bool :=
  isV c.s3 && !presentBits (walkKeyV c iss s).tag (walkElem c iss s)

/-- The check of a versioned reply; a walk with a fallow key takes no reservation (R396).
Assumption 140 (DEDUCED). -/
def State.walkOpensReply (s : State) (iss : Issue) (r : Reply) (fallow : Bool) : Except Stop State :=
  match r with
  | .ver va _ =>
    if fallow then
      if va % 8 ≠ 0 then .error (.trap .misaligned (w64 va) 0)
      else
        match s.locate iss.ctx iss.tile va { write := true, engine := true, versioned := true } with
        | .ok (.dev ..) => .ok s
        | .ok _ => .error (.trap .protect (w64 va) 0)
        | .error c => .error (.trap c (w64 va) 0)
    else s.openReply iss r
  | _ => .ok s

def walkProg (c : Cmd) (iss : Issue) : Nat := (iss.getX (slotX c.s1)).toNat
/-- The checks of R251, in its order: a v key's tag comes before its S, which R250 wants 0. -/
def chkWalk (c : Cmd) (iss : Issue) (s : State) : Except Stop Unit := do
  checkBlocks { c with eh := 0, ew := 0 } [c.s3] iss s
  if isX c.s3 then
    need (decide (walkKeyReg c + walkWords c - 1 ≤ 31) && (!walkSnap c || decide (walkKeyReg c + walkWords c ≤ 31))) .illegalField
  else
    let t := (walkKeyV c iss s).tag
    need (t != 0 && t != 6 && t != 7 && tagWidth t != 8) .formatMismatch
    need (!walkSnap c && decide (walkIndex c < tagCount t)) .illegalField
  needAt (walkProg c iss % 128 == 0) .misaligned (walkProg c iss)
  -- a v key that an earlier command has still to write decides only as the walk enters its queue whether it reserves
  let _ ← s.walkOpensReply iss (replyOf iss c.s5) (walkFallow c iss s || (isV c.s3 && (s.tile iss.tile).owesV [slotV c.s3]))
  if 64 ≤ (s.tile iss.tile).walksOut then .error (.block .tableFull) else .ok ()

/-- The key words of a walk. -/
def walkKey (c : Cmd) (iss : Issue) (s : State) : Vector Word 4 :=
  if isX c.s3 then Vector.ofFn fun i : Fin 4 => if i.val < walkWords c then iss.getX (regNum (walkKeyReg c + i.val)) else 0
  else Vector.ofFn fun i : Fin 4 => if i.val = 0 then w64 (walkElem c iss s) else 0

/-- Whether a walk's walker, and then the die that owns its stack, lack the translation of an address (R249).
Assumption 62 (DESIGN CHOICE). -/
def State.walkMiss (s : State) (w : Walk) (va : Nat) : Bool := (findTlb s.walkTlb[walkerIx w.walker] w.iss.ctx (va / 65536)).isNone
def State.walkMissDie (s : State) (w : Walk) (va : Nat) : Bool :=
  (findTlb s.dies[walkerDie w.walker].dtlb w.iss.ctx (va / 65536)).isNone
/-- The leaf for an address of a walk: from its walker's TLB, that of the die that owns the stack, or a page walk (R249). -/
def State.walkLeaf (s : State) (w : Walk) (va : Nat) : Option (BitVec 64 × Nat) :=
  s.leafVia s.walkTlb[walkerIx w.walker] (walkerDie w.walker) w.iss.ctx va

/-- Where a walk's rule program lies, in device or host memory and never in a peer window (R252, R379). -/
def State.progPlace (s : State) (w : Walk) : Option Loc :=
  match s.walkLeaf w w.progVa with
  | none => none
  | some (e, level) =>
    match if leafPerm e { read := true, engine := true } then s.leafLoc e level w.progVa else .error .protect with
    | .ok (.peer _) | .error _ => none
    | .ok l => some l
/-- A walk's rule program, once translated, is copied and its first rule is owed (R252).
Assumption 59 (DEDUCED). -/
def State.fetchProg (s : State) (w : Walk) : State :=
  let w := { w with phase := .running, parked := false }
  match s.progPlace w with
  | none => s.walkFault w .walkPointer w.progVa
  | some l =>
    if s.eccError then s.walkFault w .ecc w.progVa
    else
      let w := { w with prog := (leWords 4 (s.readLocs [(l, 128)])).map fun n => BitVec.ofNat 32 n }
      (s.setWalk w).oweRule w
/-- A walk arrives at a walker, which reads its rule program as it reads memory (R249, R252). -/
def State.arrive (s : State) (w : Walk) (j : Nat) : State :=
  let w := { w with owner := some j, walker := j, phase := .fetching }
  if !translated w.progVa then s.walkFault w .walkPointer w.progVa
  else if s.walkMiss w w.progVa then (s.setWalk w).postOnce .pageWalkDone { walk := w.id, unit := 1 }
  else s.fetchProg w

/-- Whether an earlier walk stands in the queue for the stack of a walker (R247).
Assumption 60 (DESIGN CHOICE). -/
def State.queuedFor (s : State) (w : Walk) (j : Nat) : Bool :=
  s.walks.any fun x => x.phase == .queued && decide (x.id < w.id) && s.walkerFor x.iss (x.w[0]).toNat / 8 == j / 8

def effWalk (c : Cmd) (iss : Issue) (s : State) : Except Stop State := do
  if 64 ≤ (s.tile iss.tile).walksOut then .error (.block .tableFull)
  else
    let fallow := walkFallow c iss s
    let s ← s.walkOpensReply iss (replyOf iss c.s5) fallow
    let root := iss.getX (slotX c.s2)
    let w : Walk := {
      id := s.nextWalk, iss, policy := (slotVal c.s4).toNat % 4, fmt := c.tag, limit := (slotVal c.s4).toNat / 4, progVa := walkProg c iss
      prog := [], key := walkKey c iss s, snap := if walkSnap c then some ((iss.getX (regNum (walkKeyReg c + walkWords c))).toNat % 2 ^ 32) else none
      w := (Vector.replicate 8 0).set 0 root, cond := .ne, rule := 0, steps := 0, walker := 16 * (dieOf iss.tile).val
      phase := if fallow then .replying 2 [] 0 0 else .queued, reply := replyOf iss c.s5 }
    let s := State.modTile { s with walks := s.walks ++ [w], nextWalk := s.nextWalk + 1 } iss.tile fun T => { T with walksOut := T.walksOut + 1 }
    if fallow then .ok (s.postOnce .fallowKeyReply { walk := w.id })
    else
      let j := s.walkerFor iss root.toNat
      .ok (if 32 ≤ s.owned j ∨ s.queuedFor w j then s.postOnce .walkDequeue { walk := w.id } else s.arrive w j)
/-- `walk.pol.fmt [xp], xroot, key, limit reply=…`. -/
def execWalk (c : Cmd) (s : State) : Out := issueCommand (.walk c) c (walkRegs c) (chkWalk c) (effWalk c) s

/-- WALK_DEQUEUE (R247): the walk at the head of a die's queue is taken once a walker it may go to has room. -/
def execWalkDequeue (s : State) : Out :=
  happening .walkDequeue (fun s =>
    match s.walk? s.focus.walk with
    | none => some s
    | some w =>
      if w.phase != .queued then some s
      else
        let j := s.walkerFor w.iss (w.w[0]).toNat
        if 32 ≤ s.owned j ∨ s.walks.any (fun x => x.phase == .queued && decide (x.id < w.id) && s.walkerFor x.iss (x.w[0]).toNat / 16 == j / 16)
        then none else some (s.arrive w j)) s

/-! ## Rules (R252 to R254) -/

/-- The word of a rule's register. -/
def Walk.reg (w : Walk) (r : BitVec 3) : Word := w.w[(⟨r.toNat, r.isLt⟩ : Fin 8)]
/-- Write a register of a walk. -/
def Walk.setReg (w : Walk) (r : BitVec 3) (v : Word) : Walk := { w with w := w.w.set (⟨r.toNat, r.isLt⟩ : Fin 8) v }

/-- A rule of the walk in focus (R252): the index check, the step limit, the step, then what it does. -/
def runRule (body : Walk → State → State) (s : State) : Out :=
  match s.walk? s.focus.walk with
  | none => .next s
  | some w =>
    if w.phase != .running then .next s
    else if 31 < w.rule then .next (s.walkFault w .illegalOp 0)
    else if w.steps = w.limit then .next (s.walkFault w .walkLimit 0)
    else .next (body { w with steps := w.steps + 1, last := w.rule } s)

/-- A rule ends at a rule index; the next one is owed. -/
def ruleTo (pc : Nat) (w : Walk) (s : State) : State := let w := { w with rule := pc }; (s.setWalk w).oweRule w
/-- A rule that only changes the walk's own registers. -/
def ruleNext (f : Walk → Walk) (w : Walk) (s : State) : State := ruleTo (w.rule + 1) (f w) s

/-- What a read must be before it is translated (R254): the base, the address, the granule of an emit. -/
def readable (base va n : Nat) : Bool :=
  decide (base ≠ 0 ∧ va % 8 = 0 ∧ va < Config.spBase ∧ va / 4096 = (va + 8 * n - 1) / 4096)

/-- Where a walk's read lies (R254): its physical address and whether the page is versioned, or the fault, which for an open peer window is
`F_PROTECT` (R379). -/
def State.walkPlace (s : State) (w : Walk) (va : Nat) : Except FaultCode (Nat × Bool) :=
  match s.walkLeaf w va with
  | none => .error .walkPointer
  | some (e, level) =>
    let out := leafOut e level va
    if eBit e 10 then .error .walkPointer
    else if Config.hbmBytes ≤ out then .error (if s.peerOpen out then .protect else .walkPointer)
    else if eBit e 2 && eBit e 4 then .ok (out, eBit e 5) else .error .protect

/-- A translated read waits for its words, first for a hand-off where another stack is their home (R248). -/
def State.walkReads (s : State) (w : Walk) (va : Nat) : State :=
  match s.walkPlace w va with
  | .error c => s.walkFault { w with parked := false } c va
  | .ok (pa, ver) =>
    (s.setWalk { w with parked := false, place := some (pa, ver) }).postOnce
      (if stackOf pa = w.walker / 8 then .walkMemoryRead else .walkHandoff) { walk := w.id }

/-- A rule that reads memory: it is checked and translated; where its walker's TLB lacks the page the read parks (R249). -/
def ruleRead (base : Word) (off : Int) (n : Nat) (d : BitVec 3) (nxt emit : Bool) (w : Walk) (s : State) : State :=
  let va := wrap64 (base.toNat + off)
  if !readable base.toNat va n then s.walkFault w .walkPointer va
  else
    let w := { w with phase := .reading va n d.toNat nxt emit, place := none, got := [] }
    if s.walkMiss w va then (s.setWalk w).postOnce .pageWalkDone { walk := w.id, unit := 1 } else s.walkReads w va

/-- What a walk waits to have translated: its rule program, or a rule's read. -/
def Walk.wants (w : Walk) : Option Nat :=
  match w.phase, w.place with
  | .fetching, _ => some w.progVa
  | .reading va .., none => some va
  | _, _ => none
/-- A walk goes on with its translation. -/
def State.walkGoesOn (s : State) (w : Walk) (va : Nat) : State := if w.phase = .fetching then s.fetchProg w else s.walkReads w va

/-- The TLB of the die or a page walk answers for a walk's read: it takes an entry of the parked pool, as there is room, while the page walk
runs, then its translation is cached (R180, R249). -/
def State.walkPaged (s : State) : Option State :=
  match s.walk? s.focus.walk with
  | none => some s
  | some w =>
    match w.wants with
    | some va =>
      let d := walkerDie w.walker
      if s.walkMissDie w va && !w.parked then if s.diePoolFull d then none else some ((s.setWalk { w with parked := true }).post .pageWalkDone s.focus)
      else if s.eccError then some (s.walkFault { w with parked := false } .ecc va)
      else match s.walkLeaf w va with
        | none => some (s.walkGoesOn w va)
        | some (leaf, level) =>
          let e : Tlb := { ctx := w.iss.ctx, page := va / 65536, level, leaf }
          let s : State := { s with walkTlb := s.walkTlb.set (walkerIx w.walker) (addTlb 64 s.walkTlb[walkerIx w.walker] e) (walkerIx w.walker).isLt }
          some ((s.modDie d fun D => { D with dtlb := addTlb 8192 D.dtlb e }).walkGoesOn w va)
    | none => some s

/-- PAGE_WALK_DONE (R179, R180, R249): a read of a walker, or an access of a tile, that missed its first TLB goes on or faults. -/
def execPageWalkDone (s : State) : Out :=
  happening .pageWalkDone (fun s => if s.focus.unit = 1 then s.walkPaged else s.accessPaged) s

/-- WALK_HANDOFF (R248): the walk moves to the walker of the stack that homes its next read with the fewest walks present. -/
def execWalkHandoff (s : State) : Out :=
  happening .walkHandoff (fun s =>
    match s.walk? s.focus.walk with
    | none => some s
    | some w =>
      match w.phase, w.place with
      | .reading .., some (pa, _) =>
        some ((s.setWalk { w with walker := leastWalker s.present (stackOf pa) }).postOnce .walkMemoryRead { walk := w.id })
      | _, _ => some s) s

/-- One word of a walk's read (R259): a versioned word gives its newest version, or under S the newest held at or below V. -/
def State.walkWord (s : State) (w : Walk) (pa : Nat) (ver : Bool) : Option Word :=
  if !ver then some (w64 (leNat (Memory.read s.mem pa 8)))
  else
    match w.snap with
    | none => some (s.vword pa).newest.2
    | some v => (((s.vword pa).versions.filter fun (u, _) => decide (u ≤ v)).getLast?).map (·.2)

/-- The words of a rule's read have arrived: a register is written, a pointer followed, or the record found. -/
def State.walkGot (s : State) (w : Walk) (ws : List Word) (d : Nat) (nxt emit : Bool) : State :=
  let v := ws.headD 0
  let w := { w with phase := .running, place := none, got := [] }
  if emit then s.walkEnds w 0 ws 0 w.rule
  else if nxt && v == 0 then s.walkEnds w 2 [] 0 w.rule
  else ruleNext (·.setReg (BitVec.ofNat 3 d) v) w s

/-- WALK_MEMORY_READ (R254): the next word of a rule's read arrives, each by itself, or the read faults. -/
def execWalkMemoryRead (s : State) : Out :=
  happening .walkMemoryRead (fun s =>
    match s.walk? s.focus.walk with
    | none => some s
    | some w =>
      match w.phase, w.place with
      | .reading va n d nxt emit, some (pa, ver) =>
        let k := 8 * w.got.length
        match s.walkWord w (pa + k) ver with
        | none => some (s.walkFault w .versionReclaimed (va + k))
        | some x =>
          if s.eccError then some (s.walkFault w .ecc (va + k))
          else
            let ws := w.got ++ [x]
            if ws.length < n then some ((s.setWalk { w with got := ws }).post .walkMemoryRead s.focus) else some (s.walkGot w ws d nxt emit)
      | _, _ => some s) s

/-- Whether the condition is in a mask. -/
def WCond.holds (c : WCond) (m : BitVec 4) : Bool :=
  m.getLsbD (match c with | .lt => 0 | .eq => 1 | .gt => 2 | .ne => 3)

/-- `wk.ldk wd, i`. -/
def execWkLdk (d : BitVec 3) (i : BitVec 2) (s : State) : Out :=
  runRule (ruleNext fun w => w.setReg d w.key[(⟨i.toNat, i.isLt⟩ : Fin 4)]) s
/-- `wk.ldw wd, [wa+off]`. -/
def execWkLdw (d a : BitVec 3) (o : BitVec 18) (s : State) : Out := runRule (fun w s => ruleRead (w.reg a) o.toInt 1 d false false w s) s
/-- `wk.hash wd, wa, b`: the field holds b − 1. -/
def execWkHash (d a : BitVec 3) (b : BitVec 6) (s : State) : Out :=
  runRule (ruleNext fun w => w.setReg d ((w.reg a * 0x9E3779B97F4A7C15) >>> (63 - b.toNat))) s
/-- `wk.idx wd, wa, wb, sh`. -/
def execWkIdx (d a b : BitVec 3) (sh : BitVec 6) (s : State) : Out :=
  runRule (ruleNext fun w => w.setReg d (w.reg a + (w.reg b <<< sh.toNat))) s
/-- `wk.cmp wa, wb`. -/
def execWkCmp (a b : BitVec 3) (s : State) : Out :=
  runRule (ruleNext fun w => { w with
    cond := if (w.reg a).toNat < (w.reg b).toNat then .lt else if w.reg a = w.reg b then .eq else .gt }) s
/-- `wk.eq wa, wb, mask`. -/
def execWkEq (a b : BitVec 3) (m : BitVec 8) (s : State) : Out :=
  runRule (ruleNext fun w => { w with
    cond := if (List.range 8).all fun i => !m.getLsbD i || (w.reg a).extractLsb' (8 * i) 8 == (w.reg b).extractLsb' (8 * i) 8 then .eq else .ne }) s
/-- `wk.lr wd, wa, l, r`. -/
def execWkLr (d a : BitVec 3) (l r : BitVec 9) (s : State) : Out :=
  runRule (fun w s =>
    match w.cond with
    | .lt => ruleRead (w.reg a) (8 * l.toNat) 1 d false false w s
    | .gt => ruleRead (w.reg a) (8 * r.toNat) 1 d false false w s
    | _ => ruleNext (fun w => w) w s) s
/-- `wk.nxt wd, wa, off`. -/
def execWkNxt (d a : BitVec 3) (o : BitVec 18) (s : State) : Out := runRule (fun w s => ruleRead (w.reg a) o.toInt 1 d true false w s) s
/-- `wk.add wd, wa, imm`. -/
def execWkAddImm (d a : BitVec 3) (i : BitVec 17) (s : State) : Out :=
  runRule (ruleNext fun w => w.setReg d (w.reg a + i.signExtend 64)) s
/-- `wk.add wd, wa, wb`. -/
def execWkAddReg (d a b : BitVec 3) (s : State) : Out := runRule (ruleNext fun w => w.setReg d (w.reg a + w.reg b)) s
/-- `wk.and wd, wa, imm`. -/
def execWkAndImm (d a : BitVec 3) (i : BitVec 17) (s : State) : Out :=
  runRule (ruleNext fun w => w.setReg d (w.reg a &&& i.signExtend 64)) s
/-- `wk.and wd, wa, wb`. -/
def execWkAndReg (d a b : BitVec 3) (s : State) : Out := runRule (ruleNext fun w => w.setReg d (w.reg a &&& w.reg b)) s
/-- `wk.chk wa, wb`. -/
def execWkChk (a b : BitVec 3) (s : State) : Out :=
  runRule (fun w s =>
    if (w.reg b).toNat ≤ (w.reg a).toNat then s.walkFault w .walkPointer (w.reg a).toNat else ruleNext (fun w => w) w s) s
/-- `wk.jmp.cond t`. -/
def execWkJmp (t : BitVec 5) (m : BitVec 4) (s : State) : Out :=
  runRule (fun w s => ruleTo (if w.cond.holds m then t.toNat else w.rule + 1) w s) s
/-- `wk.skip.cond`. -/
def execWkSkip (m : BitVec 4) (s : State) : Out :=
  runRule (fun w s => ruleTo (if w.cond.holds m then w.rule + 2 else w.rule + 1) w s) s
/-- `wk.emit [wa+off], n`: the field holds n − 1. -/
def execWkEmit (a n : BitVec 3) (o : BitVec 15) (s : State) : Out :=
  runRule (fun w s => ruleRead (w.reg a) o.toInt (n.toNat + 1) 0 false true w s) s
/-- `wk.miss`. -/
def execWkMiss (s : State) : Out := runRule (fun w s => s.walkEnds w 2 [] 0 w.rule) s
/-- A rule word no row of R253 allows: an operation 0x0F to 0x1F, or a field that must be zero and is not. -/
def execWkUnassignedRule (x : Word32) (s : State) : Out :=
  runRule (fun w s => s.walkFault w (if 0x0F ≤ (x.extractLsb' 27 5).toNat then .illegalOp else .illegalField) 0) s

end Sys2Proof.Machine
end

