-- ==== Sys2Proof/Machine/Clause.lean ====
section
/-! DEFINITION. What each command does at its port, for the happenings that deliver a command later: PORT_ACCEPT (R56),
CLAUSE_COMMAND_ENQUEUE (R57) and SLOT_UNBLOCK (R68). -/
namespace Sys2Proof.Machine
open Sys2Proof

/-- A command as its port takes it: its fields, the registers it reads beside its slots, its checks and its effect. -/
structure Body where
  cmd : Cmd
  extra : List XReg := []
  chk : Issue → State → Except Stop Unit
  eff : Issue → State → Except Stop State
  part : Issue → State → State := fun _ s => s

/-- The body of a command. -/
def bodyOf : Instr → Option Body
  | .vadd c => some { cmd := c, extra := [], chk := (chk2 c), eff := (eff2 fAdd c) }
  | .vsub c => some { cmd := c, extra := [], chk := (chk2 c), eff := (eff2 fSub c) }
  | .vmul c => some { cmd := c, extra := [], chk := (chk2 c), eff := (eff2 fMul c) }
  | .vfma c => some { cmd := c, extra := [], chk := (chk3 c), eff := (eff3 fFma c) }
  | .vfms c => some { cmd := c, extra := [], chk := (chk3 c), eff := (eff3 fFms c) }
  | .vmin c => some { cmd := c, extra := [], chk := (chk2 c), eff := (eff2 fMin c) }
  | .vmax c => some { cmd := c, extra := [], chk := (chk2 c), eff := (eff2 fMax c) }
  | .vabs c => some { cmd := c, extra := [], chk := (chk1 c inGroupA), eff := (eff1 fAbs c) }
  | .vneg c => some { cmd := c, extra := [], chk := (chk1 c negGroup), eff := (eff1 fNeg c) }
  | .vclamp c => some { cmd := c, extra := [], chk := (chk3 c), eff := (eff3 fClamp c) }
  | .vand c => some { cmd := c, extra := [], chk := (chkBits2 c), eff := (bitsOp2 c bAnd) }
  | .vor c => some { cmd := c, extra := [], chk := (chkBits2 c), eff := (bitsOp2 c bOr) }
  | .vxor c => some { cmd := c, extra := [], chk := (chkBits2 c), eff := (bitsOp2 c bXor) }
  | .vnot c => some { cmd := c, extra := [], chk := (chk1 c inGroupB), eff := (effBits bNot [c.s2] c) }
  | .vshl c => some { cmd := c, extra := [], chk := (chkShift c), eff := (bitsOp2 c bShl) }
  | .vshr c => some { cmd := c, extra := [], chk := (chkShift c), eff := (bitsOp2 c bShr) }
  | .vsra c => some { cmd := c, extra := [], chk := (chkShift c), eff := (bitsOp2 c bSra) }
  | .vcmp c => some { cmd := c, extra := [], chk := (chk2 c), eff := (effVcmp c) }
  | .vsel c => some { cmd := c, extra := [], chk := (chkVsel c), eff := (effMove (moveVsel c) [c.s2, c.s3] c) }
  | .vmov c => some { cmd := c, extra := [], chk := (chk1 c movGroup), eff := (effMove (fun _ iss s => s.block iss c c.s2) [c.s2] c) }
  | .vbcast c => some { cmd := c, extra := [], chk := (chkVbcast c), eff := (effMove (moveVbcast c) [c.s2] c) }
  | .vperm c => some { cmd := c, extra := [], chk := (chkVperm c), eff := (effMove (moveVperm c) [c.s2] c) }
  | .vshf c => some { cmd := c, extra := [], chk := (chk1 c inGroupC), eff := (effMove (moveVshf c) [c.s2] c) }
  | .vrcp c => some { cmd := c, extra := [], chk := (chk1 c tagFloat), eff := (eff1 (fSpecial .rcp) c) }
  | .vrsq c => some { cmd := c, extra := [], chk := (chk1 c tagFloat), eff := (eff1 (fSpecial .rsq) c) }
  | .vsqrt c => some { cmd := c, extra := [], chk := (chk1 c tagFloat), eff := (eff1 (fSpecial .sqrt) c) }
  | .vexp2 c => some { cmd := c, extra := [], chk := (chk1 c tagFloat), eff := (eff1 (fSpecial .exp2) c) }
  | .vlog2 c => some { cmd := c, extra := [], chk := (chk1 c tagFloat), eff := (eff1 (fSpecial .log2) c) }
  | .vtanh c => some { cmd := c, extra := [], chk := (chk1 c tagFloat), eff := (eff1 (fSpecial .tanh) c) }
  | .vsgm c => some { cmd := c, extra := [], chk := (chk1 c tagFloat), eff := (eff1 (fSpecial .sgm) c) }
  | .vsin c => some { cmd := c, extra := [], chk := (chk1 c tagFloat), eff := (eff1 (fSpecial .sin) c) }
  | .vred c => some { cmd := c, extra := [], chk := (chkReduce c), eff := (effVred c) }
  | .vacc c => some { cmd := c, extra := [], chk := (chkReduce c), eff := (effVacc c) }
  | .vdrn c => some { cmd := c, extra := [], chk := (chkVdrn c), eff := (effVdrn c) }
  | .vscan c => some { cmd := c, extra := [], chk := (chk1 c inScan), eff := (effVscan c) }
  | .vstr c => some { cmd := c, extra := [], chk := chkNothing, eff := (effVstr c) }
  | .vmrg c => some { cmd := c, extra := [], chk := chkNothing, eff := (effVmrg c) }
  | .vcar c => some { cmd := c, extra := [], chk := chkNothing, eff := (effVcar c) }
  | .vjoin c => some { cmd := c, extra := [], chk := chkNothing, eff := (effVjoin c) }
  | .vcfg c => some { cmd := c, extra := [], chk := (chkVcfg c), eff := (effVcfg c) }
  | .vrun c => some { cmd := c, extra := [], chk := (chkVrun c), eff := (effVrun c) }
  | .cvt c => some { cmd := c, extra := [], chk := (chkCvt c), eff := (effCvt false c) }
  | .cvtSat c => some { cmd := c, extra := [], chk := (chkCvt c), eff := (effCvt true c) }
  | .qblk c => some { cmd := c, extra := [], chk := (chkQblk c), eff := (effQblk c) }
  | .dqblk c => some { cmd := c, extra := [], chk := (chkDqblk c), eff := (effDqblk c) }
  | .pack6 c => some { cmd := c, extra := [], chk := (chkTag c 7), eff := (effMapRegs packSix c) }
  | .unpk6 c => some { cmd := c, extra := [], chk := (chkTag c 0x11), eff := (effMapRegs unpackSix c) }
  | .falFill c => some { cmd := c, extra := [], chk := (chkFalFill c), eff := (effFalFill c) }
  | .falTest c => some { cmd := c, extra := [], chk := (chkFalTest c), eff := (effFalTest c) }
  | .tagSet c => some { cmd := c, extra := [], chk := (chkTagSet c), eff := (effTagSet c) }
  | .mls c => some { cmd := c, extra := [], chk := (chkMls c), eff := (effMat (.mls c) c) }
  | .mswp c => some { cmd := c, extra := [], chk := noChk, eff := (effMat (.mswp c) c) }
  | .mst c => some { cmd := c, extra := [], chk := (chkMst c), eff := (effMat (.mst c) c) }
  | .msc c => some { cmd := c, extra := [], chk := (chkMsc c), eff := (effMat (.msc c) c) }
  | .mnm c => some { cmd := c, extra := [], chk := (chkMnm c), eff := (effMat (.mnm c) c) }
  | .mintDot c => some { cmd := c, extra := [], chk := (chkSparse c), eff := (effMat (.mintDot c) c) }
  | .mdr c => some { cmd := c, extra := [], chk := (chkMdr c), eff := (effMat (.mdr c) c) }
  | .mclr c => some { cmd := c, extra := [], chk := noChk, eff := (effMat (.mclr c) c) }
  | .mintCnt c => some { cmd := c, extra := [], chk := (chkSparse c), eff := (effMat (.mintCnt c) c) }
  | .mintScan c => some { cmd := c, extra := [], chk := (chkScan c), eff := (effMat (.mintScan c) c) }
  | .vld c => some { cmd := c, extra := [], chk := (chkVld c), eff := (effVld c) }
  | .vst c => some { cmd := c, extra := [], chk := (chkVst c), eff := (effVst c) }
  | .tld c => some { cmd := c, extra := [], chk := (chkTld c), eff := (effTld c) }
  | .tst c => some { cmd := c, extra := [], chk := (chkTst c), eff := (effTst c) }
  | .sbld c => some { cmd := c, extra := [], chk := (chkSbld c), eff := (effSbld c) }
  | .sbst c => some { cmd := c, extra := [], chk := (chkSbst c), eff := (effSbst c), part := (partSbst c) }
  | .sbclr c => some { cmd := c, extra := [], chk := (chkSbclr c), eff := (effSbclr c) }
  | .vamo c => some { cmd := c, extra := [], chk := (chkVamo c), eff := (effVamo c) }
  | .cpy c => some { cmd := c, extra := replyRegs c.s5, chk := (chkCpy c), eff := (effCpy c) }
  | .cpym c w => some { cmd := c, extra := replyRegs c.s5 ++ followRegs w, chk := (chkCpym c w), eff := (effCpym c w) }
  | .mcst c => some { cmd := c, extra := replyRegs c.s5, chk := (chkMcst c), eff := (effMcst c) }
  | .gath c => some { cmd := c, extra := [], chk := (chkGath c), eff := (effGath c) }
  | .scat c => some { cmd := c, extra := [], chk := (chkScat c), eff := (effScat c) }
  | .agc c => some { cmd := c, extra := [], chk := (chkAgc c), eff := (effAgc c) }
  | .seg c => some { cmd := c, extra := [], chk := (chkSeg c), eff := (effSeg c) }
  | .walk c => some { cmd := c, extra := walkRegs c, chk := (chkWalk c), eff := (effWalk c) }
  | .gld c => some { cmd := c, extra := [], chk := (chkGld c), eff := (effGld c) }
  | .gsh c => some { cmd := c, extra := [], chk := (chkGsh c), eff := (effGsh c) }
  | .grot c => some { cmd := c, extra := [], chk := (chkGrot c), eff := (effGrot c) }
  | .gdep c => some { cmd := c, extra := [], chk := (chkGdep c), eff := (effGdep c) }
  | .gstr c => some { cmd := c, extra := [], chk := (chkGstr c), eff := (effGstr c) }
  | .gstp c => some { cmd := c, extra := [], chk := chkNothing, eff := (effGstp c) }
  | .gsw c => some { cmd := c, extra := [], chk := (chkGsw c), eff := (effGsw c) }
  | _ => none

/-! ## Delivering a command -/

/-- The command at the pc of a slot. -/
def State.commandAt (s : State) (t : TileId) (k : SlotId) : Option (Instr × Body) :=
  let pc := (s.slot t k).pc
  let i := decode pc ((s.tile t).fetch pc 32)
  (bodyOf i).map fun b => (i, b)

/-- Whether a command would still block at its issue outside a clause, on anything but its port. -/
def State.cmdBlocks (s : State) (i : Instr) (b : Body) : Bool :=
  let blocks := fun {α : Type} (x : Except Stop α) => match x with | .error (.block _) => true | _ => false
  match busyStop i b.cmd s.focus.tile s with
  | some _ => true
  | none => blocks (b.chk s.issue s) || (!s.cur.cls.isOpen && blocks (b.eff s.issue s))

/-- PORT_ACCEPT (R56, R57, R68): the port of a BLOCKED slot's command has room, or the commands that a memory word follows have entered
theirs; the slot is READY, and its word issues once the sequencer selects it. -/
def execPortAccept (s : State) : Out :=
  happening .portAccept (fun s =>
    let t := s.focus.tile
    let k := s.focus.slot
    if (s.slot t k).status ≠ .blocked ∨ (s.slot t k).wait ≠ .fullPort then some s
    else if (match s.commandAt t k with | some (i, _) => !s.portRoom i | none => s.memWaits) then none
    else some (s.modSlot t k fun q => { q with status := .ready, wait := .none, run := 0 })) s

/-- A command that leaves its staging writes the registers it kept pending now, if it writes them at all (R116). -/
def State.leaveStaging (s : State) (t : TileId) (h : Held) : State :=
  let s := s.modTile t fun T => { T with held := T.held.erase h }
  if s.alive h.iss then
    s.modSlot h.iss.tile h.iss.slot fun k =>
      { k with pendX := k.pendX.filter (!(lateRegs h.instr).1.contains ·), pendP := k.pendP.filter (!(lateRegs h.instr).2.contains ·) }
  else s

/-- A held command enters its port's queue: its effect there, or the fault it meets there, which is late; none while it has to wait.
Assumption 111 (DEDUCED). -/
def State.enterHeld (s : State) (t : TileId) (h : Held) : Option State :=
  match bodyOf h.instr with
  | none => some (s.leaveStaging t h)
  | some b =>
    match busyStop h.instr b.cmd t s with
    | some _ => none
    | none =>
      match b.eff h.iss s with
      | .ok s => some (s.leaveStaging t h)
      | .error (.block (.drain g j d)) =>
        match (s.graph? h.iss.ctx g).bind (·.chans[j]?) with
        | some ch => if hg : g < 4 then
            (if ch.newDepth = some d then none else some (s.modChan h.iss.ctx ⟨g, hg⟩ j fun ch => { ch with newDepth := some d })) else none
        | none => none
      | .error (.block _) => none
      | .error (.trap code addr aux) =>
        -- a memory command names the log entry it has taken, from which a retry issues it again (R181, R182)
        let entry := if portOf h.instr = 5 ∨ portOf h.instr = 6 then (s.tile t).freeLog else none
        if (portOf h.instr = 5 ∨ portOf h.instr = 6) ∧ entry.isNone then none
        else
          let s := (b.part h.iss s).leaveStaging t h
          some (if s.alive h.iss then
              s.addLate h.iss.tile h.iss.slot { code, addr, pc := h.iss.pc, olog := entry, engine := false, aux, access := none
                                                cmd := entry.map fun e => (e, h.instr, h.iss) }
            else s.engineFails h.iss code addr aux true)

/-- The first released command, in clause order, that no earlier one bars and whose port takes it (R57). -/
def State.enterNext (s : State) (t : TileId) : List Held → List Held → Option State
  | _, [] => none
  | before, h :: rest =>
    match if !h.released || before.any (·.bars h.instr) then none else s.enterHeld t h with
    | some s => some s
    | none => s.enterNext t (before ++ [h]) rest

/-- CLAUSE_COMMAND_ENQUEUE (R57): a held command of a released clause enters its port's queue, in clause order at each port. -/
def execClauseCommandEnqueue (s : State) : Out :=
  happening .clauseCommandEnqueue (fun s =>
    if !s.here.held.any (·.released) then some s
    else (s.enterNext s.focus.tile [] s.here.held).map fun u => if u.here.held.any (·.released) then u.postOnce .clauseCommandEnqueue s.focus else u) s

/-! ## SLOT_UNBLOCK (R68) -/

/-- Whether the demand a BLOCKED `dmd` makes has room (R292). -/
def State.demandRoom (s : State) (t : TileId) (k : SlotId) (p : PortId) : Bool :=
  match decode (s.slot t k).pc ((s.tile t).fetch (s.slot t k).pc 32) with
  | .dmd _ a b _ _ _ =>
    (coalesce (s.port (portCtx p) p).held (readX (s.slot t k).x a).toNat (readX (s.slot t k).x b).toNat).isSome
  | _ => true

/-- Whether a hardware queue would serve a BLOCKED word now (R199). -/
def State.queueServes (s : State) (va : Nat) (read : Bool) : Bool :=
  match s.findHq s.ctxNum s.focus.tile va with
  | .error _ => true
  | .ok locs =>
  s.hqMayRead locs &&
  match s.openHq s.ctxNum s.focus.tile va (!read) with
  | .error _ => true
  | .ok q => s.hqReady q (!read) && (if read then q.desc.held != 0 else q.desc.held != q.desc.cap && !s.notifyFull q)

/-- Whether a barrier takes an arrival after generation n (R328). -/
def State.barrierTakes (s : State) (t : TileId) (bed : BitVec 16) (id n : Nat) : Bool :=
  match s.tileCtx t with
  | none => true
  | some c =>
    let b := c.barrier bed id
    decide (n ≤ b.gen) && (c.saving.isNone || c.mailRoom 1) && (b.outstanding || decide (s.barriersAt (dieOf ⟨bedOrigin bed % 1024, by omega⟩) < 256))

/-- Whether the cause of a wait has cleared, seen from the slot in focus; the others are cleared by happenings of their own.
Assumption 112 (DEDUCED). -/
def State.cleared (s : State) (w : Wait) : Bool :=
  let t := s.focus.tile
  let k := s.focus.slot
  let retry := match s.commandAt t k with
    | some (i, b) => !s.cmdBlocks i b
    | none => !s.poolFull t && (match decode (s.slot t k).pc ((s.tile t).fetch (s.slot t k).pc 32) with | .stvRsv .. => !s.rsvFull s.ctxNum | _ => true)
  match w with
  | .none => true
  | .pendingReg xs ps => !xs.any s.cur.pendX.contains && !ps.any s.cur.pendP.contains
  | .busyRegs vs ms => !vs.any s.here.busyV.contains && !ms.any s.here.busyM.contains
  | .fullPort | .version .. | .scheduler | .fence .. => false
  | .window => !s.here.winBusy k s.cur.win
  | .presence ws => ws.all s.here.present.contains && retry
  | .coalescer p => s.demandRoom t k p
  | .phase new => s.phaseOk t new
  | .barrier bed id n => s.barrierTakes t bed id n
  | .hwQueue va read => s.queueServes va read
  | .clause => !s.otherClause
  | .demandPort => true
  | .operandLog => s.here.freeLog.isSome
  | .drain g j d => match (s.graph? s.ctxNum g).bind (·.chans[j]?) with | some ch => ch.newDepth != some d || s.chanIdle ch | none => true
  | .graphCmd | .tableFull | .engineBusy | .agNode _ => retry

/-- A drained `gdep` completes: its depth applies, and its slot is READY behind it (R282). -/
def State.endGdep (s : State) (t : TileId) (k : SlotId) (g j : Nat) : State :=
  let s := match (s.graph? s.ctxNum g).bind (·.chans[j]?) with
    | some ch => if h : g < 4 then s.settleDepth s.ctxNum ⟨g, h⟩ j ch else s
    | none => s
  match s.commandAt t k with
  | some (i, b) =>
    let s := s.modTile t fun T => { T.modSlot k (·.noteCmd i b.cmd T.nextCmd) with nextCmd := T.nextCmd + 1 }
    s.completeWord t k 16
  | none => s.completeWord t k 16

/-- SLOT_UNBLOCK (R68): the cause of a BLOCKED slot has cleared and the slot is READY; its word issues again, but for a `gdep`, which completes. -/
def execSlotUnblock (s : State) : Out :=
  happening .slotUnblock (fun s =>
    let t := s.focus.tile
    let k := s.focus.slot
    if (s.slot t k).status ≠ .blocked then some s
    else if !s.cleared (s.slot t k).wait then none
    else if let .drain g j _ := (s.slot t k).wait then some (s.endGdep t k g j)
    else some (s.modSlot t k fun q => { q with status := .ready, wait := .none, run := 0 })) s

end Sys2Proof.Machine
end

