-- ==== Sys2Proof/Machine/Host.lean ====
section
/-! DEFINITION. The firmware's command set and its mailboxes (R367 to R378), the host link (R363 to R366, R375, R376), peer links (R379),
power and cooling (R380, R382), wiping and reset (R373, R374). -/
namespace Sys2Proof.Machine
open Sys2Proof

/-! ## Mailboxes (R367 to R369, R372) -/

/-- Firmware's own status codes (R369). -/
def stNotOwner : Nat := 0x8001
def stLifeCycle : Nat := 0x8002
def stArgument : Nat := 0x8003
def stExhausted : Nat := 0x8004
def stSignature : Nat := 0x8005
def stWiping : Nat := 0x8006
def stUnknown : Nat := 0x8007
def stBusy : Nat := 0x8008

/-- The opcode of a mailbox command (R370). -/
def mailOp : Instr → Option Nat
  | .ownClaim => some 0x01 | .ownGive => some 0x02 | .ownQuery => some 0x03 | .lifecycle => some 0x04
  | .keys => some 0x05 | .wipe => some 0x06 | .measure => some 0x07 | .telemetry => some 0x08
  | .quotaSet => some 0x09 | .queueMap => some 0x0A | .ctxCreate => some 0x0B | .ctxSave => some 0x0C
  | .ctxRestore => some 0x0D | .ctxKill => some 0x0E | .ctxResume => some 0x0F | .ptWrite => some 0x10
  | .imgVerify => some 0x11 | .launch => some 0x12 | .jobSubmit => some 0x13 | .demand => some 0x14
  | .dieMode => some 0x15 | .peerCfg => some 0x16 | .mailboxUnknownOpcode op => some op.toNat
  | _ => none

/-- The commands that wait for every accepted one and hold back every later one (R372). -/
def isBarrier : Instr → Bool
  | .ownGive | .lifecycle | .wipe => true
  | _ => false

/-- Who may issue a command (R370). -/
inductive Who where
  /-- any master -/
  | master
  /-- any master, and a virtual function for its tenant -/
  | masterOwn
  | owner
  /-- the owner, and a virtual function on its own contexts -/
  | own
  deriving DecidableEq, Repr

/-- The number of a master: PF0, PF1 and the sideband controller; virtual functions are none (R372).
Assumption 90 (PRESUMED). -/
def masterOf : Func → Option Nat
  | .pf n => some n.val
  | .sideband => some 2
  | .vf _ => none
/-- Whether a function may issue a command. -/
def State.mayIssue (s : State) (f : Func) (w : Who) : Bool :=
  match masterOf f with
  | some m => w == .master || w == .masterOwn || s.owner == some m
  | none => w == .masterOwn || w == .own

/-- The commands of a life-cycle state (R373). -/
def allowedIn (l : LifeCycle) (i : Instr) : Bool :=
  match l with
  | .operational => true
  | .provisioned => [Instr.ownClaim, .ownGive, .ownQuery, .lifecycle, .keys, .wipe, .measure, .telemetry].contains i
  | .blank => [Instr.ownClaim, .ownGive, .ownQuery, .lifecycle, .measure, .telemetry].contains i
  | .decommissioned => [Instr.ownQuery, .measure, .telemetry].contains i

/-- The context a command is on (R372); CTX_RESUME's is that of its tile. -/
def State.mailTarget (s : State) (i : Instr) (q : Req) : Option Nat :=
  match i with
  | .queueMap => some q.a0.toNat
  | .ctxSave | .ctxRestore | .ctxKill | .ptWrite | .launch | .jobSubmit | .demand => some q.target.toNat
  | .ctxResume => if h : q.a0.toNat < 1024 then (s.tileCtx ⟨q.a0.toNat, h⟩).map (·.num) else none
  | _ => none
/-- Whether a command waits for one accepted before it: any that holds back others, any where it waits for all itself, and one on the same
context; a kill ends a save that is under way (R356, R372). -/
def State.mailBehind (s : State) (m x : Mail) : Bool :=
  isBarrier x.instr || isBarrier m.instr ||
  ((s.mailTarget m.instr m.req).isSome && s.mailTarget m.instr m.req == s.mailTarget x.instr x.req &&
    !(m.instr == .ctxKill && x.instr == .ctxSave && x.begun))

/-- How a command stands: done, with its status and results; or its effect under way. -/
inductive MailRes where
  | done (status : Nat) (r : List Word) (s : State)
  | wait (s : State)

/-- Answer a command: its response is written and its mailbox is free. -/
def State.answer (s : State) (m : Mail) (status : Nat) (r : List Word) : State :=
  { s with
    mailQ := s.mailQ.filter fun x => !(x.instr == m.instr && x.func == m.func)
    responses := s.responses ++ [{ func := m.func, status, r }] }

/-- A mailbox command (R368, R372): a doorbell rung while the function's mailbox is busy is ignored; while a wipe runs all but OWN_QUERY
are refused; a command behind one that holds back, or one that waits for those before it, is accepted and waits.
Assumption 89 (DESIGN CHOICE).
Assumption 110 (DEDUCED).
Assumption 166 (DESIGN CHOICE). -/
def mailbox (i : Instr) (w : Who) (eff : Func → Req → Bool → State → MailRes) (s : State) : Out :=
  happening i (fun s =>
    let f := s.focus.func
    let q := s.focus.req
    let mine := fun (m : Mail) => m.instr == i && m.func == f && m.req == q
    let old := s.mailQ.find? mine
    let m : Mail := old.getD { instr := i, func := f, req := q }
    let run := fun (s : State) =>
      match eff f q m.begun s with
      | .done st r s => some (s.answer m st r)
      | .wait s =>
        if m.begun then none
        else some (State.postOnce { s with mailQ := s.mailQ.map fun x => if mine x then { x with begun := true } else x } i s.focus)
    if old.isNone && s.mailQ.any (·.func == f) then some s
    else
      let s := if old.isNone then { s with mailQ := s.mailQ ++ [m] } else s
      if m.begun then run s
      else if s.wiping && i != .ownQuery then some (s.answer m stWiping [])
      else
        let ahead := s.mailQ.takeWhile fun x => !mine x
        if !s.wiping && ahead.any (s.mailBehind m) then
          if old.isNone then some (s.postOnce i s.focus) else none
        else if !s.mayIssue f w then some (s.answer m stNotOwner [])
        else if !allowedIn s.life i then some (s.answer m stLifeCycle [])
        else if q.res0 != 0 then some (s.answer m stArgument [])
        else run s) s

/-- The context a command acts on: it is live, and a virtual function's is of its own tenant.
Assumption 97 (DEDUCED).
Assumption 98 (DEDUCED). -/
def State.mailCtx (s : State) (f : Func) (n : Nat) : Except Nat Context :=
  match s.ctx? n with
  | none => .error stArgument
  | some c =>
    match f with
    | .vf v => if c.tenant = v.val then (if c.live then .ok c else .error stArgument) else .error stNotOwner
    | _ => if c.live then .ok c else .error stArgument

/-- A command that ends at once, with a status alone where it fails. -/
def atOnce (g : Except Nat (List Word × State)) (s : State) : MailRes :=
  match g with
  | .ok (r, t) => .done 0 r t
  | .error st => .done st [] s
/-- Refuse with a firmware status. -/
def ask (b : Bool) (st : Nat) : Except Nat Unit := if b then .ok () else .error st
/-- A trap's code as a status (R369). -/
def ofStop {α : Type} (x : Except Stop α) : Except Nat α :=
  match x with
  | .ok a => .ok a
  | .error (.trap c _ _) => .error c.val
  | .error (.block _) => .error stExhausted

/-! ## Device memory as the host and firmware reach it (R364) -/

/-- Write firmware's bytes to device memory. -/
def State.putDev (s : State) (a : Nat) (bs : List Byte) : State := { s with mem := Memory.write s.mem a bs }

/-! ## Ownership (R372) -/

/-- OWN_CLAIM: an unowned device takes the claim; every other claim is refused. -/
def execOwnClaim (s : State) : Out :=
  mailbox .ownClaim .master (fun f _ _ s =>
    match s.owner, masterOf f with
    | none, some m => .done 0 [] { s with owner := some m }
    | _, _ => .done stNotOwner [] s) s
/-- OWN_GIVE: the named master is owner. -/
def execOwnGive (s : State) : Out :=
  mailbox .ownGive .owner (fun _ q _ s =>
    if q.a0.toNat ≤ 2 then .done 0 [] { s with owner := some q.a0.toNat } else .done stArgument [] s) s
/-- OWN_QUERY: the owner's id, or 0xFFFF. -/
def execOwnQuery (s : State) : Out :=
  mailbox .ownQuery .master (fun _ _ _ s => .done 0 [w64 (s.owner.getD 0xFFFF)] s) s

/-! ## Wiping (R374) -/

/-- Everything a wipe writes zero to; commands not yet answered, keys, life cycle, ownership, power states and the link stay.
Assumption 103 (DEDUCED). -/
def State.wiped (s : State) : State :=
  { s with
    tiles := Vector.replicate 1024 {}
    dies := s.dies.map fun d => { power := d.power, margin := d.margin, changing := d.changing, throttled := d.throttled }
    contexts := [], mem := [], vwords := [], verPages := [], reservations := [], walks := [], engineFaults := [], demand := []
    walkTlb := Vector.replicate 128 [], walkLast := Vector.replicate 128 0
    notifies := [], quotas := [], saved := [], verified := [], doorbells := [], peers := [], telemetry := {}, wiping := true
    cores := Vector.replicate 8 {}
    pending := (s.pending.filter fun m => match m with
      | .happen i _ => (mailOp i).isSome || i == .powerStateChangeEnd
      | _ => false) ++ [.happen .wipeEnd {}] }

/-- WIPE: it ends with the wipe. -/
def execWipe (s : State) : Out :=
  mailbox .wipe .owner (fun _ _ begun s => if begun then (if s.wiping then .wait s else .done 0 [] s) else .wait s.wiped) s

/-- WIPE_END (R374): the wipe ends, and commands are served again. -/
def execWipeEnd (s : State) : Out := happening .wipeEnd (fun s => some { s with wiping := false }) s

/-- What a reset leaves (R372 to R374): everything wiped, no owner, no command in flight; life cycle and keys persist.
Assumption 104 (DEDUCED). -/
def State.afterReset (s : State) : State :=
  { s.wiped with
    dies := Vector.replicate 8 {}, owner := none, measurements := [], ideKeys := [], mailQ := [], powered := true
    pending := [.happen .wipeEnd {}] }
/-- RESET. -/
def execReset (s : State) : Out := happening .reset (fun s => some s.afterReset) s

/-! ## Life cycle and keys (R370, R373, R378) -/

/-- The life-cycle state a number names, in R373's order.
Assumption 91 (PRESUMED). -/
def lifeOf : Nat → Option LifeCycle
  | 0 => some .blank | 1 => some .provisioned | 2 => some .operational | 3 => some .decommissioned | _ => none
/-- The transitions of R373. -/
def lifeStep (filled : Bool) : LifeCycle → LifeCycle → Bool
  | .blank, .provisioned => true
  | .provisioned, .operational => filled
  | .operational, .provisioned => true
  | _, .decommissioned => true
  | _, _ => false

/-- LIFECYCLE: a listed transition is made and the device is wiped. -/
def execLifecycle (s : State) : Out :=
  mailbox .lifecycle .owner (fun _ q begun s =>
    if begun then (if s.wiping then .wait s else .done 0 [] s)
    else
      match lifeOf q.a0.toNat with
      | none => .done stArgument [] s
      | some l =>
        if !lifeStep (s.keySets.toList.any (· != 0)) s.life l then .done stLifeCycle [] s
        else
          let s := { s with life := l }
          let s := if l = .decommissioned then { s with keys := Vector.replicate 8 [], keySets := Vector.replicate 8 0 } else s
          .wait s.wiped) s

/-- Bytes of a public key of a parameter set, and of a signature (R377).
Assumption 92 (PRESUMED). -/
def keyBytes (pset : Nat) : Nat := if pset = 1 then 32 else if pset = 2 then 48 else 64
def sigBytes (pset : Nat) : Nat := if pset = 1 then 7856 else if pset = 2 then 16224 else 29792

/-- KEYS: a key of parameter set 1 to 3 is read from device memory; parameter set 0 erases the slot.
Assumption 93 (DEDUCED). -/
def execKeys (s : State) : Out :=
  mailbox .keys .owner (fun _ q _ s => atOnce (do
    let n := q.a0.toNat
    let p := q.a2.toNat
    ask (decide (n < 8 ∧ p ≤ 3)) stArgument
    ask (p == 0 || inHbm q.a1.toNat (keyBytes p)) stArgument
    ask (p == 0 || !s.eccError) FaultCode.ecc.val
    let k := if p = 0 then [] else s.devBytes q.a1.toNat (keyBytes p)
    if h : n < 8 then .ok ([], { s with keys := s.keys.set n k, keySets := s.keySets.set n p }) else .error stArgument) s) s

/-! ## Measurement, signatures, telemetry (R376 to R378) -/

/-- A digest of 64 bytes. -/
def fix64 (l : List Byte) : List Byte := (l ++ List.replicate 64 0).take 64
/-- The number of a life-cycle state. -/
def lifeNum : LifeCycle → Nat
  | .blank => 0 | .provisioned => 1 | .operational => 2 | .decommissioned => 3
/-- The measurement log (R376); what a key slot's entry covers is its key's bytes. -/
def State.measurementLog (s : State) : List (List Byte) :=
  [fix64 Config.romDigests, fix64 (Config.coverDigest [BitVec.ofNat 8 (lifeNum s.life)])] ++
  ((List.finRange 8).map fun i => fix64 (shake256 s.keys[i])) ++ s.measurements

/-- MEASURE: the log is written to a buffer in device memory. -/
def execMeasure (s : State) : Out :=
  mailbox .measure .master (fun _ q _ s => atOnce (do
    let bs := s.measurementLog.flatten
    ask (inHbm q.a0.toNat bs.length) stArgument
    .ok ([], s.putDev q.a0.toNat bs)) s) s

/-- What telemetry reports (R370): to a master the package's counts and the power states of the dies asked for, to a virtual function its
tenant's alone. -/
def State.telemetryOf (s : State) (f : Func) (mask : Nat) : List Nat :=
  match f with
  | .vf v => [1, v.val, mask, (s.telemetry.qdropBy.filter (· == v.val)).length, (s.quotaUsed v.val).1, (s.quotaUsed v.val).2]
  | _ => [0, mask, s.telemetry.corrected, s.telemetry.hdmVerDrop, s.telemetry.qdrop, s.telemetry.throttle] ++
      ((List.finRange 8).filter fun d => mask.testBit d.val).map fun d =>
        match s.dies[d].power with | .p0 => 0 | .p1 => 1 | .p2 => 2 | .p3 => 3 | .s1 => 4

/-- TELEMETRY: counters and readings are written to a buffer; their layout, and the readings' values, are open.
Assumption 94 (DESIGN CHOICE). -/
def execTelemetry (s : State) : Out :=
  mailbox .telemetry .masterOwn (fun f q _ s => atOnce (do
    ask (decide (q.a1.toNat < 256)) stArgument
    let view := s.telemetryOf f q.a1.toNat
    let bs := (List.range (Config.telemetryBytes view s.draws)).map (Config.telemetryByte view s.draws)
    ask (inHbm q.a0.toNat bs.length) stArgument
    .ok ([], State.putDev { s with draws := s.draws + 1 } q.a0.toNat bs)) s) s

/-- The image IMG_VERIFY finds at a device address, if its signature verifies: its digest (R378). -/
def State.verifyImage (s : State) (a : Nat) : Option (List Byte) :=
  let h := s.devBytes a 96
  let nsec := field h 6 2
  let idx := field h 80 2
  if a % 64 ≠ 0 ∨ !inHbm a 96 ∨ field h 0 4 ≠ 0x1A494750 ∨ nsec = 0 ∨ 4096 < nsec ∨ field h 12 4 % 2 = 0 ∨ nsec ≤ idx then none
  else
    let tab := s.devBytes (a + 96) (16 * nsec)
    let es := (List.range nsec).map (sectAt tab)
    let top := 96 + 16 * nsec
    let end_ := es.foldl (fun n e => max n (e.off + e.len)) top
    if !inHbm a ((end_ + 15) / 16 * 16) then none
    else
      let img := s.devBytes a ((end_ + 15) / 16 * 16)
      let digest := (h.drop 16).take 64
      let sig := (sectAt tab idx).bytes img
      let pset := field sig 0 2
      let slot := field sig 2 1
      if !(shake256 (digested (img.take end_) es) == digest || shake256 (digested img es) == digest) then none
      else if (sectAt tab idx).kind ≠ 8 ∨ 8 ≤ slot ∨ field sig 3 5 ≠ 0 ∨ pset = 0 ∨ 3 < pset ∨ sig.length ≠ 8 + sigBytes pset then none
      else if h : slot < 8 then
        (if s.keySets[slot] = pset ∧ Config.signatureOk s.keys[slot] digest (sig.drop 8) = true then some digest else none)
      else none

/-- IMG_VERIFY: the image is recorded as verified, and a measurement entry is added. -/
def execImgVerify (s : State) : Out :=
  mailbox .imgVerify .owner (fun _ q _ s =>
    if s.eccError then .done FaultCode.ecc.val [] s else
    match s.verifyImage q.a0.toNat with
    | none => .done stSignature [] s
    | some d => .done 0 [] { s with verified := s.verified ++ [(q.a0.toNat, d)], measurements := s.measurements ++ [d] }) s

/-- SPDM_REQUEST (R376): a signed answer over the log; a key exchange sets the IDE keys. -/
def execSpdmRequest (kx : Bool) (s : State) : Out :=
  happening (.spdmRequest kx) (fun s =>
    let s := { s with
      linkReplies := s.linkReplies ++ [LinkReply.spdm (Config.spdmAnswer kx s.measurementLog s.draws)]
      ideKeys := if kx then Config.ideKeys s.draws else s.ideKeys }
    some { s with draws := s.draws + 1 }) s

/-! ## Quotas and doorbells (R317, R375) -/

/-- QUOTA_SET: refused below current use and above the package's sums.
Assumption 100 (DEDUCED). -/
def execQuotaSet (s : State) : Out :=
  mailbox .quotaSet .owner (fun _ q _ s => atOnce (do
    let t := q.a0.toNat
    ask (decide (t < 512)) stArgument
    let (us, uc) := s.quotaUsed t
    ask (decide (us ≤ q.a1.toNat ∧ uc ≤ q.a2.toNat)) stArgument
    let others := s.quotas.filter (·.tenant != t)
    let sum := fun (f : Quota → Nat) => others.foldl (fun n x => n + f x) 0
    ask (decide (sum (·.slots) + q.a1.toNat ≤ 8192 ∧ sum (·.counters) + q.a2.toNat ≤ 16384)) stExhausted
    .ok ([], { s with quotas := others ++ [{ tenant := t, slots := q.a1.toNat, counters := q.a2.toNat }] })) s) s

/-- QUEUE_MAP: doorbell a2 of the issuer is bound to a queue descriptor in plain device memory of a context, or unbound (R375). -/
def execQueueMap (s : State) : Out :=
  mailbox .queueMap .own (fun f q _ s => atOnce (do
    let c ← s.mailCtx f q.a0.toNat
    let i := q.a2.toNat
    ask (decide (i < 64 ∧ q.a3.toNat ≤ 1)) stArgument
    let rest := s.doorbells.filter fun d => !(d.func == f && d.idx == i)
    if q.a3 = 0 then .ok ([], { s with doorbells := rest })
    else
      let t : TileId := (c.tiles.head?).getD 0
      match s.locateRange c.num t q.a1.toNat 32 { read := true, write := true } with
      | .error _ => .error FaultCode.protect.val
      | .ok ls => do
        ask (ls.all fun (l, _) => match l with | .dev _ v _ => !v | _ => false) FaultCode.protect.val
        .ok ([], { s with doorbells := rest ++ [{ func := f, idx := i, ctx := c.num, desc := q.a1.toNat }] })) s) s

/-- QUEUE_DOORBELL_WRITE (R375): `hqw` of the word on the bound descriptor; a full queue drops it and counts; an unmapped doorbell, or one
whose descriptor does not serve, drops it.
Assumption 106 (DEDUCED). -/
def execQueueDoorbellWrite (i : Fin 64) (v : Word) (s : State) : Out :=
  happening (.queueDoorbellWrite i v) (fun s =>
    match s.doorbells.find? fun d => d.func == s.focus.func && d.idx == i.val with
    | none => some s
    | some d =>
      let t : TileId := (((s.ctx? d.ctx).map Context.tiles).getD []).head?.getD 0
      match s.openHq d.ctx t d.desc true with
      | .error _ => some s
      | .ok q =>
        if q.desc.held = q.desc.cap then some { s with telemetry := { s.telemetry with
          qdrop := s.telemetry.qdrop + 1, qdropBy := s.tenantOf d.ctx :: s.telemetry.qdropBy } }
        else if s.notifyFull q then some (s.post (.queueDoorbellWrite i v) s.focus)
        else some (s.hqPut q d.desc v)) s

/-! ## Contexts (R337, R353, R370) -/

/-- A context number may be given again once its context is gone and owes nothing. -/
def State.numFree (s : State) (n : Nat) : Bool :=
  match s.ctx? n with
  | none => true
  | some c => !c.live && c.records.isEmpty && c.jobs.all (fun j => j.replied || j.state == .done)
/-- The number firmware gives a new context: a free value among the numbers that are free.
Assumption 96 (DESIGN CHOICE). -/
def State.newNum (s : State) : Option Nat :=
  let k := (Config.freeWord s.draws).toNat
  ((List.range 1024).map fun i => (k + i) % 1024).find? s.numFree

/-- CTX_CREATE: the table root and the fault ring lie in device memory (R177, R338), and the ring's `produced` is 0 (R338). -/
def execCtxCreate (s : State) : Out :=
  mailbox .ctxCreate .owner (fun _ q _ s => atOnce (do
    let fl := q.a4.toNat
    let lim := fl / 4 % 64
    let ceil := fl / 1024 % 64
    ask (decide (q.a0.toNat < 512) && q.a1.extractLsb' 0 16 == 0 && decide (q.a3.toNat % 64 = 0) && inHbm q.a1.toNat 4096 &&
      inHbm q.a3.toNat 16448) stArgument
    ask (decide (fl < 65536) && fl / 2 % 2 == 0 && fl / 256 % 4 == 0 && (lim == 0 || decide (20 ≤ lim ∧ lim ≤ 32)) &&
      (ceil == 0 || decide (16 ≤ ceil ∧ ceil ≤ 40))) stArgument
    match s.newNum with
    | none => .error stExhausted
    | some n =>
      let wd := if ceil = 0 then 2 ^ 32 else 2 ^ ceil
      let c : Context := {
        num := n, tenant := q.a0.toNat, root := q.a1.toNat, saveArea := q.a2.toNat, ring := q.a3.toNat, debug := fl % 2 == 1
        saveLimit := if lim = 0 then 2 ^ 26 else 2 ^ lim, wdCeiling := wd, wdgl := min (2 ^ 28) wd }
      let s := State.remap (State.putDev { s with
        contexts := s.contexts.filter (fun (k : Context) => k.num != n) ++ [c], draws := s.draws + 1
        doorbells := s.doorbells.filter (·.ctx != n) } q.a3.toNat (leBytes 8 0))
      .ok ([w64 n], s.postOnce .watchdogExpiry { ctx := n })) s) s

/-- CTX_SAVE: as `ctxs`, on the context the request names; it is answered when the save has its status. -/
def execCtxSave (s : State) : Out :=
  mailbox .ctxSave .owner (fun _ q _ s =>
    if 1024 ≤ q.target.toNat then .done stArgument [] s
    else match s.trySave q.target.toNat with
      | (some r, s) => .done 0 [w64 r] s
      | (none, s) => .wait s) s
/-- CTX_RESTORE: as `ctxr`. -/
def execCtxRestore (s : State) : Out :=
  mailbox .ctxRestore .owner (fun _ q _ s =>
    if 1024 ≤ q.target.toNat then .done stArgument [] s
    else if s.eccError then .done FaultCode.ecc.val [] s
    else let (r, s) := s.tryRestore q.target.toNat; .done 0 [w64 r] s) s
/-- The effects of a kill have all performed: its record is written, and its jobs' cancelled replies have been delivered (R358, R368). -/
def State.killDone (s : State) (c : Context) : Bool :=
  c.records.isEmpty && c.jobs.all (fun (j : Job) => j.state != .cancelled || j.replied) &&
  !s.engineFaults.any (·.iss.ctx == c.num) && s.tiles.toList.all fun T => !T.accesses.any (·.iss.ctx == c.num)
/-- CTX_KILL: as `kil.c`; the answer comes once the kill's effects have performed. -/
def execCtxKill (s : State) : Out :=
  mailbox .ctxKill .owner (fun _ q begun s =>
    if 1024 ≤ q.target.toNat then .done stArgument [] s
    else match s.ctx? q.target.toNat with
      | some c =>
        if begun then (if c.live || s.killDone c then .done 0 [0] s else .wait s)
        else if c.live then .wait (s.killContext c.num none 3)
        else .done 0 [2] s
      | none => if begun then .done 0 [0] s else .done 0 [2] s) s

/-- CTX_RESUME (R342, R351): a FAULTED slot goes on; the context's cards are selected again.
Assumption 101 (DEDUCED). -/
def execCtxResume (s : State) : Out :=
  mailbox .ctxResume .owner (fun _ q _ s => atOnce (do
    if h : q.a0.toNat < 1024 ∧ q.a1.toNat < 16 ∧ q.a2.toNat ≤ 2 then
      let t : TileId := ⟨q.a0.toNat, h.1⟩
      match s.tileCtx t with
      | none => .error stArgument
      | some c =>
        if q.a2 ≠ 2 ∧ (s.slot t ⟨q.a1.toNat, h.2.1⟩).status ≠ .faulted then .error stArgument
        else
          let s := (s.modCtx c.num fun c => { c with selecting := true }).postOnce .jobSelect { die := c.home }
          .ok ([], if q.a2 = 2 then s else s.resumeSlot t ⟨q.a1.toNat, h.2.1⟩ (q.a2 == 0))
    else .error stArgument) s) s

/-! ## Page tables (R178, R185, R371) -/

/-- PT_WRITE (R371): the entry is written, and the context's cached translations of the range go. -/
def execPtWrite (s : State) : Out :=
  mailbox .ptWrite .owner (fun f q _ s => atOnce (do
    let c ← s.mailCtx f q.target.toNat
    let a := q.a0.toNat
    ask (decide (a % 8 = 0) && inHbm a 8) stArgument
    let s := (s.putDev a (leBytes 8 q.a1.toNat)).remap
    let out := fun (e : Tlb) => !(e.ctx == c.num && decide (q.a2.toNat / 65536 ≤ e.page) && decide (e.page * 65536 < q.a2.toNat + q.a3.toNat))
    .ok ([], { s with
      tiles := s.tiles.map fun T => { T with utlb := T.utlb.filter out, l1 := if T.owner = some c.num then [] else T.l1 }
      dies := s.dies.map fun D => { D with dtlb := D.dtlb.filter out }
      walkTlb := s.walkTlb.map fun l => l.filter out })) s) s

/-! ## LAUNCH (R371) -/

/-- The context has work that has not ended. -/
def State.launchBusy (s : State) (c : Context) : Bool :=
  c.jobs.any (·.incomplete) || c.liveSlot.isSome || c.starting.isSome || c.stopping.isSome || c.loading || c.rotating ||
  c.saving.isSome || c.ports.any (fun p => !p.held.isEmpty) || s.demand.any (fun d => portCtx d.port == c.num) ||
  c.tiles.any (fun t =>
    let T := s.tile t
    T.slots.toList.any (fun k => match k.status with | .free | .idle => false | _ => true) || !T.matQ.isEmpty ||
    !T.held.isEmpty || T.stages.toList.any Option.isSome || T.stream.isSome || T.mcst.isSome || T.ag.toList.any (·.cmd.isSome)) ||
  s.allCopies.any (fun k => k.iss.ctx == c.num) || s.walks.any (fun w => w.iss.ctx == c.num) || s.engineFaults.any (fun e => e.iss.ctx == c.num)

/-- The new rectangle takes the place of the old one: the old one's L1 shares are written back, nothing else of the old launch survives, and
every presence bit is clear (R17, R196, R371). -/
def State.relaunch (s : State) (c : Context) (bed : BitVec 16) (split : Bool) : State :=
  let s := c.tiles.foldl State.writeBack s
  let s := (s.purge c.num c.tiles).clearTiles c.tiles
  let s := (bedTiles bed).foldl (fun s t => s.modTile t fun T => { owner := some c.num, split, istore := T.istore }) s
  s.modCtx c.num fun c => { c with
    launch := some (bed, split), gslots := Vector.replicate 4 none, liveSlot := none, graphJob := 0, barriers := [], barLog := []
    ports := [], dmds := [], submits := [], statK := 0
    regions := [] }

/-- Load and start of LAUNCH: the state, with the fault code where one fails.
Assumption 130 (DEDUCED). -/
def State.launchGraph (s : State) (n : Nat) (g : Fin 4) (va : Nat) (start : Bool) : Nat × State :=
  let empty := fun (s : State) => s.modCtx n fun c => { c with gslots := c.gslots.set g none }
  match s.ctx? n with
  | none => (stArgument, s)
  | some c =>
    let t : TileId := (c.tiles.head?).getD 0
    let loaded : Except Nat State :=
      if va = 0 then .ok s
      else ofStop (do
        needAt (decide (va % 64 = 0)) .misaligned va
        let l ← s.loadImage c t g va false
        .ok (s.applyImage c g l))
    match loaded with
    | .error e => (e, empty s)
    | .ok s =>
      if !start then (0, s)
      else
        match (s.ctx? n).bind (·.gslots[g]) with
        | none => (FaultCode.illegalField.val, s)
        | some G =>
          match s.fetchTiles n t G G.tiles with
          | .error _ => (FaultCode.cfgFetch.val, empty s)
          | .ok imgs => (0, s.startGraph ((s.ctx? n).getD c) g G imgs 0)

/-- LAUNCH; stores of ended tasks that have still to perform at their tile are none of the work that refuses it, and it waits for them.
Assumption 102 (DEDUCED). -/
def execLaunch (s : State) : Out :=
  mailbox .launch .owner (fun f q _ s =>
    match s.mailCtx f q.target.toNat with
    | .error e => .done e [] s
    | .ok c =>
      if !bedOk q.a0 ∨ 1 < q.a1.toNat ∨ 3 < q.a3.toNat ∨ 1 < q.a4.toNat ∨ !c.resident then .done stArgument [] s
      else if s.launchBusy c then .done stBusy [] s
      else if c.tiles.any fun t => (s.tile t).accesses.any (!·.tileDone) then .wait s
      else
        let bed := q.a0.extractLsb' 0 16
        if s.contexts.any fun (k : Context) => k.num != c.num && k.live && k.resident && (match k.launch with | some (b, _) => bedsMeet bed b | none => false) then
          .done 0 [6] s
        else
          let s := s.relaunch c bed (q.a1 == 1)
          let g : Fin 4 := ⟨q.a3.toNat % 4, Nat.mod_lt _ (by decide)⟩
          let (st, s) := s.launchGraph c.num g q.a2.toNat (q.a4 == 1)
          if st = 0 then .done 0 [0] s else .done st [] s) s

/-! ## Jobs and demands (R307, R316) -/

/-- JOB_SUBMIT: the card is checked and admitted as `jsub` does it; the submission status is the command's status too (R316). -/
def execJobSubmit (s : State) : Out :=
  mailbox .jobSubmit .own (fun f q _ s =>
    match (do
    let c ← s.mailCtx f q.target.toNat
    let card ← ofStop (s.readCard c.num ((c.tiles.head?).getD 0) q.a0.toNat)
    ofStop (checkOwner c card q.a0.toNat)
    .ok (card, c)) with
    | .error st => .done st [] s
    | .ok (card, c) =>
      let (w, s) := s.takeCard c card q.a0 none
      .done (w.toNat / 2 ^ 48) [w] s) s

/-- DEMAND: as `dmd` without reply; it waits while the sink's coalescer is full. -/
def execDemand (s : State) : Out :=
  mailbox .demand .own (fun f q _ s =>
    match s.mailCtx f q.target.toNat with
    | .error e => .done e [] s
    | .ok c =>
      match ofStop (s.checkDemand c q.a0 q.a1.toNat q.a2.toNat) with
      | .error e => .done e [] s
      | .ok (g, j) =>
        match s.insertDemand c.num g j q.a1.toNat q.a2.toNat with
        | some s => .done 0 [] s
        | none => .wait s) s

/-! ## Power and cooling (R380, R382) -/

/-- The power state a number names, in R380's order. -/
def powerOf : Nat → Option Power
  | 0 => some .p0 | 1 => some .p1 | 2 => some .p2 | 3 => some .p3 | 4 => some .s1 | _ => none

/-- A die begins to change its state: issue pauses until the change ends.
Assumption 109 (DEDUCED). -/
def State.changePower (s : State) (d : DieId) (f : Die → Die) : State :=
  (s.modDie d fun D => { f D with changing := true }).postOnce .powerStateChangeEnd { die := d }

/-- DIE_MODE: each die of the mask takes its power state and timing margin; the command ends with the changes. -/
def execDieMode (s : State) : Out :=
  mailbox .dieMode .owner (fun _ q begun s =>
    let dies := (List.finRange 8).filter fun d => q.a0.getLsbD d.val
    if begun then (if dies.any fun d => s.dies[d].changing then .wait s else .done 0 [] s)
    else
      match powerOf q.a1.toNat with
      | none => .done stArgument [] s
      | some p =>
        if 256 ≤ q.a0.toNat ∨ 1 < q.a2.toNat then .done stArgument [] s
        else if dies.isEmpty then .done 0 [] s
        else .wait (dies.foldl (fun s d => s.changePower d fun D => { D with power := p, margin := q.a2 == 1, throttled := 0 }) s)) s

/-- POWER_STATE_CHANGE_END (R380): a die issues again. -/
def execPowerStateChangeEnd (s : State) : Out :=
  happening .powerStateChangeEnd (fun s => some (s.modDie s.focus.die fun D => { D with changing := false })) s

/-- One state down, to P3 at the lowest; and one up. -/
def powerDown : Power → Option Power | .p0 => some .p1 | .p1 => some .p2 | .p2 => some .p3 | _ => none
def powerUp : Power → Option Power | .p3 => some .p2 | .p2 => some .p1 | .p1 => some .p0 | _ => none

/-- A step of the thermal throttle, counted. -/
def State.thermalStep (s : State) (dest : Option Power) (n : Nat) : State :=
  match dest with
  | none => s
  | some p =>
    let s := s.changePower s.focus.die fun D => { D with power := p, throttled := n }
    { s with telemetry := { s.telemetry with throttle := s.telemetry.throttle + 1 } }

/-- THERMAL_THROTTLE (R382): the die steps down one power state. -/
def execThermalThrottle (s : State) : Out :=
  happening .thermalThrottle (fun s =>
    let D := s.dies[s.focus.die]
    some (s.thermalStep (powerDown D.power) (D.throttled + 1))) s
/-- THERMAL_RECOVERY (R382): a throttled die returns up one power state. -/
def execThermalRecovery (s : State) : Out :=
  happening .thermalRecovery (fun s =>
    let D := s.dies[s.focus.die]
    some (if D.throttled = 0 then s else s.thermalStep (powerUp D.power) (D.throttled - 1))) s
/-- THERMAL_SHUTDOWN (R382): the module removes power; all state is lost. -/
def execThermalShutdown (s : State) : Out :=
  happening .thermalShutdown (fun s => some { s.afterReset with powered := false, wiping := false, pending := [] }) s

/-! ## Peer links (R379) -/

/-- The copies that name a peer address of some window. -/
def State.copiesOver (s : State) (p : PeerWin → Bool) : List (Copy × Nat) :=
  s.allCopies.filterMap fun k =>
    let vas := k.rows.flatMap fun r => (pagesOf r.src r.len ++ (if k.dst = .mem then pagesOf r.dst r.len else [])).map (·.1)
    (vas.find? fun va => match s.locate k.iss.ctx k.iss.tile va { engine := true, copy := true } with
      | .ok (.peer a) => match s.peerWin a with | some w => p w | none => false
      | _ => false).map fun va => (k, va)
/-- Blight the jobs of the copies over some windows. -/
def State.failPeers (s : State) (p : PeerWin → Bool) (code : FaultCode) : State :=
  (s.copiesOver p).foldl (fun s (k, va) => s.engineFails k.iss code (w64 va) 0 false) s

/-- The blights that closing a window owes (R368): each job's copies have ended, its record is written and its cancelled reply sent. -/
def State.peersSettled (s : State) (owes : List (Nat × Nat)) : Bool :=
  owes.all fun (n, j) =>
    !s.engineFaults.any (fun e => !e.toTask && e.iss.ctx == n && e.iss.job == j) && !s.allCopies.any (fun k => k.iss.ctx == n && k.iss.job == j) &&
    (match s.ctx? n with
    | some c => c.records.isEmpty && c.jobs.all fun (x : Job) => x.num != j || x.state != .cancelled || x.replied
    | none => true)

/-- PEER_CFG: window a0 opens onto the peer's range from a2, or closes, which blights the copies that use it.
Assumption 99 (DEDUCED). -/
def execPeerCfg (s : State) : Out :=
  mailbox .peerCfg .owner (fun f q begun s =>
    -- the blights of a window's copies come before the answer (R368)
    let mine := fun (m : Mail) => m.instr == .peerCfg && m.func == f
    let w := q.a0.toNat
    let rest := s.peers.filter (·.idx != w)
    if begun then (if s.peersSettled ((s.mailQ.find? mine).elim [] (·.owes)) then .done 0 [] s else .wait s)
    else if !s.isMS then .done stNotOwner [] s
    else if ¬ (q.a0.toNat < 16 ∧ q.a1.toNat < 4096 ∧ q.a3.toNat ≤ 1) then .done stArgument [] s
    else if q.a3 = 0 then
      let owes := ((s.copiesOver (·.idx == w)).map fun (k, _) => (k.iss.ctx, k.iss.job)).eraseDups
      let t := { s.failPeers (·.idx == w) .xlate with peers := rest }
      if owes.isEmpty then .done 0 [] t
      else .wait { t with mailQ := t.mailQ.map fun m => if mine m then { m with owes } else m }
    else .done 0 [] { s with peers := rest ++ [
      { idx := w, ports := q.a1.extractLsb' 0 12, base := Config.peerBase + w * 2 ^ 36, peer := q.a2.toNat }] }) s

/-- PEER_LINK_FAILURE (R379): the copies striped over a failed port blight their jobs with `F_ECC`.
Assumption 19 (DESIGN CHOICE). -/
def execPeerLinkFailure (port : Fin 12) (s : State) : Out :=
  happening (.peerLinkFailure port) (fun s => some (s.failPeers (·.ports.getLsbD port.val) .ecc)) s

/-! ## The host link (R363 to R365) -/

/-- MAILBOX_UNKNOWN_OPCODE (R370). -/
def execMailboxUnknownOpcode (op : BitVec 16) (s : State) : Out :=
  if op = 0 ∨ 0x17 ≤ op.toNat then happening (.mailboxUnknownOpcode op) (fun s =>
    let m : Mail := { instr := .mailboxUnknownOpcode op, func := s.focus.func, req := s.focus.req }
    if s.mailQ.any (·.func == m.func) then some s else some (s.answer m (if s.wiping then stWiping else stUnknown) [])) s
  else .next s

/-- HDM_READ (R364): the host reads n bytes of device memory; an uncorrectable error is returned with CXL poison.
Assumption 107 (DESIGN CHOICE). -/
def execHdmRead (pa n : Nat) (s : State) : Out :=
  happening (.hdmRead pa n) (fun s =>
    some (if inHbm pa n then { s with linkReplies := s.linkReplies ++ [if s.eccError then LinkReply.poison else LinkReply.read (s.devBytes pa n)] } else s)) s
/-- HDM_WRITE (R364): the host writes device memory; what falls on a versioned page is dropped and counted. -/
def execHdmWrite (pa : Nat) (bs : List Byte) (s : State) : Out :=
  happening (.hdmWrite pa bs) (fun s =>
    if !inHbm pa bs.length then some s
    else
      let cells := bs.zipIdx.map fun (b, i) => (pa + i, b)
      let drop := cells.any fun (a, _) => s.isVersioned a
      let mem := (cells.filter fun (a, _) => !s.isVersioned a).foldl (fun m (a, b) => Memory.set m a b) s.mem
      some { s with
        mem, linkReplies := s.linkReplies ++ [LinkReply.writeDone]
        telemetry := if drop then { s.telemetry with hdmVerDrop := s.telemetry.hdmVerDrop + 1 } else s.telemetry }) s
/-- HOST_SNOOP (R365): the device holds no host line. -/
def execHostSnoop (addr : Word) (s : State) : Out :=
  happening (.hostSnoop addr) (fun s => some { s with linkReplies := s.linkReplies ++ [LinkReply.snoopMiss] }) s
/-- HOST_LINK_TRAINING (R363): sixteen, eight or four lanes, at 128 GT/s or a lower rate of the standard.
Assumption 108 (DESIGN CHOICE). -/
def execHostLinkTraining (lanes gtps : Nat) (s : State) : Out :=
  happening (.hostLinkTraining lanes gtps) (fun s =>
    some (if (lanes = 16 ∨ lanes = 8 ∨ lanes = 4) ∧ [8, 16, 32, 64, 128].contains gtps then { s with linkLanes := lanes, linkRate := gtps } else s)) s

end Sys2Proof.Machine
end

