-- ==== Sys2Proof/Machine/Dispatch.lean ====
section
/-! DEFINITION. One arm per instruction: a direct call of its meaning, or a rejection by name. -/
namespace Sys2Proof.Machine
open Sys2Proof

/-- What an instruction does in a state. -/
def exec (i : Instr) (s : State) : Host.Outcome State Fault Refusal :=
  match i with
  | .add d a b g => Sys2Proof.Machine.execAdd d a b g s
  | .sub d a b g => Sys2Proof.Machine.execSub d a b g s
  | .and d a b g => Sys2Proof.Machine.execAnd d a b g s
  | .or d a b g => Sys2Proof.Machine.execOr d a b g s
  | .xor d a b g => Sys2Proof.Machine.execXor d a b g s
  | .andn d a b g => Sys2Proof.Machine.execAndn d a b g s
  | .sll d a b g => Sys2Proof.Machine.execSll d a b g s
  | .srl d a b g => Sys2Proof.Machine.execSrl d a b g s
  | .sra d a b g => Sys2Proof.Machine.execSra d a b g s
  | .rol d a b g => Sys2Proof.Machine.execRol d a b g s
  | .mul d a b g => Sys2Proof.Machine.execMul d a b g s
  | .mulh d a b g => Sys2Proof.Machine.execMulh d a b g s
  | .mulhn d a b g => Sys2Proof.Machine.execMulhn d a b g s
  | .div d a b g => Sys2Proof.Machine.execDiv d a b g s
  | .divn d a b g => Sys2Proof.Machine.execDivn d a b g s
  | .rem d a b g => Sys2Proof.Machine.execRem d a b g s
  | .remn d a b g => Sys2Proof.Machine.execRemn d a b g s
  | .min d a b g => Sys2Proof.Machine.execMin d a b g s
  | .minn d a b g => Sys2Proof.Machine.execMinn d a b g s
  | .max d a b g => Sys2Proof.Machine.execMax d a b g s
  | .maxn d a b g => Sys2Proof.Machine.execMaxn d a b g s
  | .slt d a b g => Sys2Proof.Machine.execSlt d a b g s
  | .sltn d a b g => Sys2Proof.Machine.execSltn d a b g s
  | .clz d a g => Sys2Proof.Machine.execClz d a g s
  | .ctz d a g => Sys2Proof.Machine.execCtz d a g s
  | .popc d a g => Sys2Proof.Machine.execPopc d a g s
  | .addi d a im g => Sys2Proof.Machine.execAddi d a im g s
  | .andi d a im g => Sys2Proof.Machine.execAndi d a im g s
  | .ori d a im g => Sys2Proof.Machine.execOri d a im g s
  | .xori d a im g => Sys2Proof.Machine.execXori d a im g s
  | .slti d a im g => Sys2Proof.Machine.execSlti d a im g s
  | .sltni d a im g => Sys2Proof.Machine.execSltni d a im g s
  | .slli d a sh g => Sys2Proof.Machine.execSlli d a sh g s
  | .srli d a sh g => Sys2Proof.Machine.execSrli d a sh g s
  | .srai d a sh g => Sys2Proof.Machine.execSrai d a sh g s
  | .roli d a sh g => Sys2Proof.Machine.execRoli d a sh g s
  | .lui d im => Sys2Proof.Machine.execLui d im s
  | .pcai d im => Sys2Proof.Machine.execPcai d im s
  | .bfx d a l w g => Sys2Proof.Machine.execBfx d a l w g s
  | .bfxS d a l w g => Sys2Proof.Machine.execBfxS d a l w g s
  | .bfi d a l w g => Sys2Proof.Machine.execBfi d a l w g s
  | .sel d a b p g => Sys2Proof.Machine.execSel d a b p g s
  | .pcmpEq d a b g => Sys2Proof.Machine.execPcmpEq d a b g s
  | .pcmpNe d a b g => Sys2Proof.Machine.execPcmpNe d a b g s
  | .pcmpLt d a b g => Sys2Proof.Machine.execPcmpLt d a b g s
  | .pcmpGe d a b g => Sys2Proof.Machine.execPcmpGe d a b g s
  | .pcmpLtn d a b g => Sys2Proof.Machine.execPcmpLtn d a b g s
  | .pcmpGen d a b g => Sys2Proof.Machine.execPcmpGen d a b g s
  | .plog d a b t g => Sys2Proof.Machine.execPlog d a b t g s
  | .bEq a b o => Sys2Proof.Machine.execBEq a b o s
  | .bNe a b o => Sys2Proof.Machine.execBNe a b o s
  | .bLt a b o => Sys2Proof.Machine.execBLt a b o s
  | .bGe a b o => Sys2Proof.Machine.execBGe a b o s
  | .bLtn a b o => Sys2Proof.Machine.execBLtn a b o s
  | .bGen a b o => Sys2Proof.Machine.execBGen a b o s
  | .bpT p o => Sys2Proof.Machine.execBpT p o s
  | .bpF p o => Sys2Proof.Machine.execBpF p o s
  | .jal d o => Sys2Proof.Machine.execJal d o s
  | .jalr d a im g => Sys2Proof.Machine.execJalr d a im g s
  | .ldb d a o g => Sys2Proof.Machine.execLdb d a o g s
  | .ldbs d a o g => Sys2Proof.Machine.execLdbs d a o g s
  | .ldh d a o g => Sys2Proof.Machine.execLdh d a o g s
  | .ldhs d a o g => Sys2Proof.Machine.execLdhs d a o g s
  | .ldw d a o g => Sys2Proof.Machine.execLdw d a o g s
  | .ldws d a o g => Sys2Proof.Machine.execLdws d a o g s
  | .ldd d a o g => Sys2Proof.Machine.execLdd d a o g s
  | .stb d a o g => Sys2Proof.Machine.execStb d a o g s
  | .sth d a o g => Sys2Proof.Machine.execSth d a o g s
  | .stw d a o g => Sys2Proof.Machine.execStw d a o g s
  | .std d a o g => Sys2Proof.Machine.execStd d a o g s
  | .ldvEq d a b g => Sys2Proof.Machine.execLdvEq d a b g s
  | .ldvGe d a b g => Sys2Proof.Machine.execLdvGe d a b g s
  | .stv d a b g => Sys2Proof.Machine.execStv d a b g s
  | .stvRsv a b g => Sys2Proof.Machine.execStvRsv a b g s
  | .rclm d a b g => Sys2Proof.Machine.execRclm d a b g s
  | .amoAdd d a b sh o g => Sys2Proof.Machine.execAmoAdd d a b sh o g s
  | .amoAnd d a b sh o g => Sys2Proof.Machine.execAmoAnd d a b sh o g s
  | .amoOr d a b sh o g => Sys2Proof.Machine.execAmoOr d a b sh o g s
  | .amoXor d a b sh o g => Sys2Proof.Machine.execAmoXor d a b sh o g s
  | .amoMin d a b sh o g => Sys2Proof.Machine.execAmoMin d a b sh o g s
  | .amoMax d a b sh o g => Sys2Proof.Machine.execAmoMax d a b sh o g s
  | .amoMinn d a b sh o g => Sys2Proof.Machine.execAmoMinn d a b sh o g s
  | .amoMaxn d a b sh o g => Sys2Proof.Machine.execAmoMaxn d a b sh o g s
  | .amoSwap d a b sh o g => Sys2Proof.Machine.execAmoSwap d a b sh o g s
  | .amoCas d a b sh o g => Sys2Proof.Machine.execAmoCas d a b sh o g s
  | .amoTas d a b sh o g => Sys2Proof.Machine.execAmoTas d a b sh o g s
  | .amoFadd d a b sh o g => Sys2Proof.Machine.execAmoFadd d a b sh o g s
  | .fncAcq sh g => Sys2Proof.Machine.execFncAcq sh g s
  | .fncRel sh g => Sys2Proof.Machine.execFncRel sh g s
  | .fncAr sh g => Sys2Proof.Machine.execFncAr sh g s
  | .fncSc sh g => Sys2Proof.Machine.execFncSc sh g s
  | .xfncOe sh g => Sys2Proof.Machine.execXfncOe sh g s
  | .xfncEo sh g => Sys2Proof.Machine.execXfncEo sh g s
  | .pref a o g => Sys2Proof.Machine.execPref a o g s
  | .prefL2 a o g => Sys2Proof.Machine.execPrefL2 a o g s
  | .cfl a o g => Sys2Proof.Machine.execCfl a o g s
  | .cinv a o g => Sys2Proof.Machine.execCinv a o g s
  | .hqw d a g => Sys2Proof.Machine.execHqw d a g s
  | .hqwTry d a p g => Sys2Proof.Machine.execHqwTry d a p g s
  | .hqr d a g => Sys2Proof.Machine.execHqr d a g s
  | .hqrTry d a p g => Sys2Proof.Machine.execHqrTry d a p g s
  | .cls n => Sys2Proof.Machine.execCls n s
  | .tend => Sys2Proof.Machine.execTend s
  | .nop => Sys2Proof.Machine.execNop s
  | .csrR d n g => Sys2Proof.Machine.execCsrR d n g s
  | .csrW d a n g => Sys2Proof.Machine.execCsrW d a n g s
  | .csrS d a n g => Sys2Proof.Machine.execCsrS d a n g s
  | .csrC d a n g => Sys2Proof.Machine.execCsrC d a n g s
  | .seedWrite v => Sys2Proof.Machine.execSeedWrite v s
  | .trap a c g => Sys2Proof.Machine.execTrap a c g s
  | .wdg d a g => Sys2Proof.Machine.execWdg d a g s
  | .kilJ d a g => Sys2Proof.Machine.execKilJ d a g s
  | .kilC d a g => Sys2Proof.Machine.execKilC d a g s
  | .ctxs d a g => Sys2Proof.Machine.execCtxs d a g s
  | .ctxr d a g => Sys2Proof.Machine.execCtxr d a g s
  | .brk c => Sys2Proof.Machine.execBrk c s
  | .bar b v im g => Sys2Proof.Machine.execBar b v im g s
  | .phs d n g => Sys2Proof.Machine.execPhs d n g s
  | .phsTo d a g => Sys2Proof.Machine.execPhsTo d a g s
  | .lead n g => Sys2Proof.Machine.execLead n g s
  | .dep d a p g => Sys2Proof.Machine.execDep d a p g s
  | .jsub d a g => Sys2Proof.Machine.execJsub d a g s
  | .tbnd d a g => Sys2Proof.Machine.execTbnd d a g s
  | .tbndU n g => Sys2Proof.Machine.execTbndU n g s
  | .dmd p a b e v g => Sys2Proof.Machine.execDmd p a b e v g s
  | .drg p a g => Sys2Proof.Machine.execDrg p a g s
  | .drt p a g => Sys2Proof.Machine.execDrt p a g s
  | .dcut p a g => Sys2Proof.Machine.execDcut p a g s
  | .dcad p a b g => Sys2Proof.Machine.execDcad p a b g s
  | .dcan p a b g => Sys2Proof.Machine.execDcan p a b g s
  | .vadd c => Sys2Proof.Machine.execVadd c s
  | .vsub c => Sys2Proof.Machine.execVsub c s
  | .vmul c => Sys2Proof.Machine.execVmul c s
  | .vfma c => Sys2Proof.Machine.execVfma c s
  | .vfms c => Sys2Proof.Machine.execVfms c s
  | .vmin c => Sys2Proof.Machine.execVmin c s
  | .vmax c => Sys2Proof.Machine.execVmax c s
  | .vabs c => Sys2Proof.Machine.execVabs c s
  | .vneg c => Sys2Proof.Machine.execVneg c s
  | .vclamp c => Sys2Proof.Machine.execVclamp c s
  | .vand c => Sys2Proof.Machine.execVand c s
  | .vor c => Sys2Proof.Machine.execVor c s
  | .vxor c => Sys2Proof.Machine.execVxor c s
  | .vnot c => Sys2Proof.Machine.execVnot c s
  | .vshl c => Sys2Proof.Machine.execVshl c s
  | .vshr c => Sys2Proof.Machine.execVshr c s
  | .vsra c => Sys2Proof.Machine.execVsra c s
  | .vcmp c => Sys2Proof.Machine.execVcmp c s
  | .vsel c => Sys2Proof.Machine.execVsel c s
  | .vmov c => Sys2Proof.Machine.execVmov c s
  | .vbcast c => Sys2Proof.Machine.execVbcast c s
  | .vperm c => Sys2Proof.Machine.execVperm c s
  | .vshf c => Sys2Proof.Machine.execVshf c s
  | .vrcp c => Sys2Proof.Machine.execVrcp c s
  | .vrsq c => Sys2Proof.Machine.execVrsq c s
  | .vsqrt c => Sys2Proof.Machine.execVsqrt c s
  | .vexp2 c => Sys2Proof.Machine.execVexp2 c s
  | .vlog2 c => Sys2Proof.Machine.execVlog2 c s
  | .vtanh c => Sys2Proof.Machine.execVtanh c s
  | .vsgm c => Sys2Proof.Machine.execVsgm c s
  | .vsin c => Sys2Proof.Machine.execVsin c s
  | .vred c => Sys2Proof.Machine.execVred c s
  | .vacc c => Sys2Proof.Machine.execVacc c s
  | .vdrn c => Sys2Proof.Machine.execVdrn c s
  | .vscan c => Sys2Proof.Machine.execVscan c s
  | .vstr c => Sys2Proof.Machine.execVstr c s
  | .vmrg c => Sys2Proof.Machine.execVmrg c s
  | .vcar c => Sys2Proof.Machine.execVcar c s
  | .vjoin c => Sys2Proof.Machine.execVjoin c s
  | .vcfg c => Sys2Proof.Machine.execVcfg c s
  | .vrun c => Sys2Proof.Machine.execVrun c s
  | .cvt c => Sys2Proof.Machine.execCvt c s
  | .cvtSat c => Sys2Proof.Machine.execCvtSat c s
  | .qblk c => Sys2Proof.Machine.execQblk c s
  | .dqblk c => Sys2Proof.Machine.execDqblk c s
  | .pack6 c => Sys2Proof.Machine.execPack6 c s
  | .unpk6 c => Sys2Proof.Machine.execUnpk6 c s
  | .falFill c => Sys2Proof.Machine.execFalFill c s
  | .falTest c => Sys2Proof.Machine.execFalTest c s
  | .tagSet c => Sys2Proof.Machine.execTagSet c s
  | .mls c => Sys2Proof.Machine.execMls c s
  | .mswp c => Sys2Proof.Machine.execMswp c s
  | .mst c => Sys2Proof.Machine.execMst c s
  | .msc c => Sys2Proof.Machine.execMsc c s
  | .mnm c => Sys2Proof.Machine.execMnm c s
  | .mintDot c => Sys2Proof.Machine.execMintDot c s
  | .mdr c => Sys2Proof.Machine.execMdr c s
  | .mclr c => Sys2Proof.Machine.execMclr c s
  | .mintCnt c => Sys2Proof.Machine.execMintCnt c s
  | .mintScan c => Sys2Proof.Machine.execMintScan c s
  | .vld c => Sys2Proof.Machine.execVld c s
  | .vst c => Sys2Proof.Machine.execVst c s
  | .tld c => Sys2Proof.Machine.execTld c s
  | .tst c => Sys2Proof.Machine.execTst c s
  | .sbld c => Sys2Proof.Machine.execSbld c s
  | .sbst c => Sys2Proof.Machine.execSbst c s
  | .sbclr c => Sys2Proof.Machine.execSbclr c s
  | .vamo c => Sys2Proof.Machine.execVamo c s
  | .cpy c => Sys2Proof.Machine.execCpy c s
  | .cpym c follow => Sys2Proof.Machine.execCpym c follow s
  | .mcst c => Sys2Proof.Machine.execMcst c s
  | .gath c => Sys2Proof.Machine.execGath c s
  | .scat c => Sys2Proof.Machine.execScat c s
  | .agc c => Sys2Proof.Machine.execAgc c s
  | .seg c => Sys2Proof.Machine.execSeg c s
  | .walk c => Sys2Proof.Machine.execWalk c s
  | .gld c => Sys2Proof.Machine.execGld c s
  | .gsh c => Sys2Proof.Machine.execGsh c s
  | .grot c => Sys2Proof.Machine.execGrot c s
  | .gdep c => Sys2Proof.Machine.execGdep c s
  | .gstr c => Sys2Proof.Machine.execGstr c s
  | .gstp c => Sys2Proof.Machine.execGstp c s
  | .gsw c => Sys2Proof.Machine.execGsw c s
  | .wkLdk d im => Sys2Proof.Machine.execWkLdk d im s
  | .wkLdw d a o => Sys2Proof.Machine.execWkLdw d a o s
  | .wkHash d a b => Sys2Proof.Machine.execWkHash d a b s
  | .wkIdx d a b sh => Sys2Proof.Machine.execWkIdx d a b sh s
  | .wkCmp a b => Sys2Proof.Machine.execWkCmp a b s
  | .wkEq a b m => Sys2Proof.Machine.execWkEq a b m s
  | .wkLr d a l r => Sys2Proof.Machine.execWkLr d a l r s
  | .wkNxt d a o => Sys2Proof.Machine.execWkNxt d a o s
  | .wkAddImm d a im => Sys2Proof.Machine.execWkAddImm d a im s
  | .wkAddReg d a b => Sys2Proof.Machine.execWkAddReg d a b s
  | .wkAndImm d a im => Sys2Proof.Machine.execWkAndImm d a im s
  | .wkAndReg d a b => Sys2Proof.Machine.execWkAndReg d a b s
  | .wkChk a b => Sys2Proof.Machine.execWkChk a b s
  | .wkJmp t m => Sys2Proof.Machine.execWkJmp t m s
  | .wkSkip m => Sys2Proof.Machine.execWkSkip m s
  | .wkEmit a n o => Sys2Proof.Machine.execWkEmit a n o s
  | .wkMiss => Sys2Proof.Machine.execWkMiss s
  | .slotSelect => Sys2Proof.Machine.execSlotSelect s
  | .taskStart => Sys2Proof.Machine.execTaskStart s
  | .slotUnblock => Sys2Proof.Machine.execSlotUnblock s
  | .portAccept => Sys2Proof.Machine.execPortAccept s
  | .clauseCommandEnqueue => Sys2Proof.Machine.execClauseCommandEnqueue s
  | .pageWalkDone => Sys2Proof.Machine.execPageWalkDone s
  | .lateFault => Sys2Proof.Machine.execLateFault s
  | .loadComplete => Sys2Proof.Machine.execLoadComplete s
  | .accessPerform => Sys2Proof.Machine.execAccessPerform s
  | .stvHomeWrite => Sys2Proof.Machine.execStvHomeWrite s
  | .versionTimeout => Sys2Proof.Machine.execVersionTimeout s
  | .ldvComplete => Sys2Proof.Machine.execLdvComplete s
  | .fenceComplete => Sys2Proof.Machine.execFenceComplete s
  | .atomicAtNode => Sys2Proof.Machine.execAtomicAtNode s
  | .hqNotify => Sys2Proof.Machine.execHqNotify s
  | .laneStageResult => Sys2Proof.Machine.execLaneStageResult s
  | .elementFire => Sys2Proof.Machine.execElementFire s
  | .steerRoute => Sys2Proof.Machine.execSteerRoute s
  | .mergeTake => Sys2Proof.Machine.execMergeTake s
  | .carryTake => Sys2Proof.Machine.execCarryTake s
  | .vrunEnd => Sys2Proof.Machine.execVrunEnd s
  | .mlsLoaded => Sys2Proof.Machine.execMlsLoaded s
  | .zRowLand => Sys2Proof.Machine.execZRowLand s
  | .pairStageArrive => Sys2Proof.Machine.execPairStageArrive s
  | .pairTimeout => Sys2Proof.Machine.execPairTimeout s
  | .balanceDispatch => Sys2Proof.Machine.execBalanceDispatch s
  | .balanceSteal => Sys2Proof.Machine.execBalanceSteal s
  | .balanceTrigger => Sys2Proof.Machine.execBalanceTrigger s
  | .copyStart => Sys2Proof.Machine.execCopyStart s
  | .copyFlitDeliver => Sys2Proof.Machine.execCopyFlitDeliver s
  | .copyEndOfTile => Sys2Proof.Machine.execCopyEndOfTile s
  | .copyReply => Sys2Proof.Machine.execCopyReply s
  | .templateCopy => Sys2Proof.Machine.execTemplateCopy s
  | .cpymFollowOn => Sys2Proof.Machine.execCpymFollowOn s
  | .mcstFlitAccept => Sys2Proof.Machine.execMcstFlitAccept s
  | .agValueReturn => Sys2Proof.Machine.execAgValueReturn s
  | .engineFault => Sys2Proof.Machine.execEngineFault s
  | .walkDequeue => Sys2Proof.Machine.execWalkDequeue s
  | .walkMemoryRead => Sys2Proof.Machine.execWalkMemoryRead s
  | .walkHandoff => Sys2Proof.Machine.execWalkHandoff s
  | .walkReply => Sys2Proof.Machine.execWalkReply s
  | .fallowKeyReply => Sys2Proof.Machine.execFallowKeyReply s
  | .flitSend => Sys2Proof.Machine.execFlitSend s
  | .streamBufferLanding => Sys2Proof.Machine.execStreamBufferLanding s
  | .graftForward => Sys2Proof.Machine.execGraftForward s
  | .shadowLoaded => Sys2Proof.Machine.execShadowLoaded s
  | .rotSwap => Sys2Proof.Machine.execRotSwap s
  | .graphStopped => Sys2Proof.Machine.execGraphStopped s
  | .demandInsert => Sys2Proof.Machine.execDemandInsert s
  | .portServe => Sys2Proof.Machine.execPortServe s
  | .sourcePost => Sys2Proof.Machine.execSourcePost s
  | .cuttingWrite => Sys2Proof.Machine.execCuttingWrite s
  | .sinkEotAccept => Sys2Proof.Machine.execSinkEotAccept s
  | .cancelFlit => Sys2Proof.Machine.execCancelFlit s
  | .jobAdmit => Sys2Proof.Machine.execJobAdmit s
  | .conditionReeval => Sys2Proof.Machine.execConditionReeval s
  | .presenceReport => Sys2Proof.Machine.execPresenceReport s
  | .jobSelect => Sys2Proof.Machine.execJobSelect s
  | .triggerDeliver => Sys2Proof.Machine.execTriggerDeliver s
  | .jobComplete => Sys2Proof.Machine.execJobComplete s
  | .barrierComplete => Sys2Proof.Machine.execBarrierComplete s
  | .faultRecordWrite => Sys2Proof.Machine.execFaultRecordWrite s
  | .ringConsumedWrite v => Sys2Proof.Machine.execRingConsumedWrite v s
  | .watchdogExpiry => Sys2Proof.Machine.execWatchdogExpiry s
  | .saveLimitExpiry => Sys2Proof.Machine.execSaveLimitExpiry s
  | .ownClaim => Sys2Proof.Machine.execOwnClaim s
  | .ownGive => Sys2Proof.Machine.execOwnGive s
  | .ownQuery => Sys2Proof.Machine.execOwnQuery s
  | .lifecycle => Sys2Proof.Machine.execLifecycle s
  | .keys => Sys2Proof.Machine.execKeys s
  | .wipe => Sys2Proof.Machine.execWipe s
  | .measure => Sys2Proof.Machine.execMeasure s
  | .telemetry => Sys2Proof.Machine.execTelemetry s
  | .quotaSet => Sys2Proof.Machine.execQuotaSet s
  | .queueMap => Sys2Proof.Machine.execQueueMap s
  | .ctxCreate => Sys2Proof.Machine.execCtxCreate s
  | .ctxSave => Sys2Proof.Machine.execCtxSave s
  | .ctxRestore => Sys2Proof.Machine.execCtxRestore s
  | .ctxKill => Sys2Proof.Machine.execCtxKill s
  | .ctxResume => Sys2Proof.Machine.execCtxResume s
  | .ptWrite => Sys2Proof.Machine.execPtWrite s
  | .imgVerify => Sys2Proof.Machine.execImgVerify s
  | .launch => Sys2Proof.Machine.execLaunch s
  | .jobSubmit => Sys2Proof.Machine.execJobSubmit s
  | .demand => Sys2Proof.Machine.execDemand s
  | .dieMode => Sys2Proof.Machine.execDieMode s
  | .peerCfg => Sys2Proof.Machine.execPeerCfg s
  | .queueDoorbellWrite im v => Sys2Proof.Machine.execQueueDoorbellWrite im v s
  | .hdmRead pa n => Sys2Proof.Machine.execHdmRead pa n s
  | .hdmWrite pa bs => Sys2Proof.Machine.execHdmWrite pa bs s
  | .hostSnoop addr => Sys2Proof.Machine.execHostSnoop addr s
  | .spdmRequest keyExchange => Sys2Proof.Machine.execSpdmRequest keyExchange s
  | .reset => Sys2Proof.Machine.execReset s
  | .thermalThrottle => Sys2Proof.Machine.execThermalThrottle s
  | .thermalShutdown => Sys2Proof.Machine.execThermalShutdown s
  | .peerLinkFailure port => Sys2Proof.Machine.execPeerLinkFailure port s
  | .illegalEncoding code => Sys2Proof.Machine.execIllegalEncoding code s
  | .wkUnassignedRule w => Sys2Proof.Machine.execWkUnassignedRule w s
  | .mailboxUnknownOpcode op => Sys2Proof.Machine.execMailboxUnknownOpcode op s
  | .wipeEnd => Sys2Proof.Machine.execWipeEnd s
  | .powerStateChangeEnd => Sys2Proof.Machine.execPowerStateChangeEnd s
  | .thermalRecovery => Sys2Proof.Machine.execThermalRecovery s
  | .hostLinkTraining lanes gtps => Sys2Proof.Machine.execHostLinkTraining lanes gtps s
  | .activeWordsFetched => Sys2Proof.Machine.execActiveWordsFetched s

end Sys2Proof.Machine
end

