-- ==== Sys2Proof/Machine/Fetch.lean ====
section
/-! DEFINITION. Who moves in a step and what it runs: the agenda, what the device owes, the tiles' sequencers (R68 to R70) and the walkers
(R252). One step is one word, one rule or one happening; the order of the agents is the agenda's, then the model's own (assumption 8, DESIGN CHOICE). -/
namespace Sys2Proof.Machine
open Sys2Proof

/-- What a step does: run an instruction, let time pass, or stop for want of power. -/
inductive Choice where
  | run (i : Instr) (s : State)
  | idle (s : State)
  | noPower
  deriving DecidableEq, Repr

/-- Time passes (R3, R350; assumption 3, DESIGN CHOICE): `clk` and the watchdog counts go on by a free number of cycles; a clock that is held
counts none (R380; assumption 183, DESIGN CHOICE). While a fault
ring is full, `consumed` is read whenever it has been written (R338), and the watchdog of its context does not count. -/
def State.tick (s : State) : State :=
  let n := if s.dies.toList.all (·.power == .s1) then 0 else Config.elapsed s.draws
  { s with
    clk := s.clk + n
    draws := s.draws + 1
    contexts := s.contexts.map fun c =>
      if s.wdgCounts c then { c with wdgc := c.wdgc + n }
      else if c.produced < c.consumed + 256 then c
      else { c with consumed := s.ringConsumed c } }

/-- An event of the device or of its host: neither a word the sequencer fetches nor a rule nor a bad encoding. -/
def isHappening (i : Instr) : Bool :=
  (encodeWord i).isNone && (encodeRule i).isNone && (cmdOpcode i).isNone &&
  (match i with | .illegalEncoding _ => false | .seedWrite _ => false | _ => true)

/-- The RUNNING slot of a tile. -/
def Tile.running (T : Tile) : Option SlotId := (List.finRange 16).find? fun k => (T.slot k).status == .running

/-- The word of a slot is in focus; where a save waits for it, the tile stops behind it (R73). -/
def State.atSlot (s : State) (t : TileId) (k : SlotId) : State :=
  { (if (s.tile t).lastWord then s.modTile t fun T => { T with lastWord := false } else s) with
    sysMode := false, eccError := false, focus := { tile := t, slot := k } }

/-- What the sequencer of a tile does next (R70, R182): the late fault or the word of its RUNNING slot, or the selection of a READY slot. -/
def State.issueAt (s : State) (t : TileId) : Option (Instr × State) :=
  if !s.canIssue t then none
  else
    let T := s.tile t
    match T.running with
    | some k =>
      let q := T.slot k
      some (if q.late.isEmpty then decode q.pc (T.fetch q.pc 32) else .lateFault, s.atSlot t k)
    | none =>
      if (List.finRange 16).any fun k => (T.slot k).status == .ready then
        some (.slotSelect, { s with sysMode := false, eccError := false, focus := { tile := t } })
      else none

/-- The rule word of a walk (R252, R253): past the program's end, a word no row assigns. -/
def ruleAt (w : Walk) : Instr :=
  let x := w.prog.getD w.rule (BitVec.allOnes 32)
  match decodeRule x with
  | .illegalEncoding _ => .wkUnassignedRule x
  | i => i

/-- A management core runs the first of the words it holds, in system mode (R337); the others wait behind it (R353). -/
def State.coreWord (s : State) (d : DieId) : List Word32 → Option (Instr × State)
  | [] => none
  | w :: rest =>
    some (decodeScalar w, { s with
      sysMode := true, eccError := false, focus := { die := d }, cores := s.cores.set d { s.cores[d] with words := rest }
      pending := if rest.isEmpty || s.pending.contains (.core d) then s.pending else s.pending ++ [.core d] })

/-- The die of a demand port: that of its tile, for a channel its consumer's. -/
def State.portDie (s : State) : PortId → DieId
  | .oper _ _ t _ | .soft _ _ t _ _ => dieOf t
  | .sink c g j | .source c g j => match (s.graph? c g).bind (·.chans[j]?) with | some ch => dieOf (chanDstt ch.desc) | none => 0
/-- The die on whose arithmetic clock a happening waits (R3, R380): a tile's, a copy engine's, a walker's, or a context's home. The host, its
link, firmware, the containment unit and what changes power have none. -/
def State.clockDie (s : State) (i : Instr) (f : Focus) : Option DieId :=
  match i with
  | .slotSelect | .taskStart | .slotUnblock | .portAccept | .clauseCommandEnqueue | .lateFault | .loadComplete | .accessPerform | .stvHomeWrite
  | .versionTimeout | .ldvComplete | .fenceComplete | .atomicAtNode | .laneStageResult | .elementFire | .steerRoute | .mergeTake | .carryTake
  | .vrunEnd | .mlsLoaded | .zRowLand | .pairStageArrive | .pairTimeout | .balanceSteal | .mcstFlitAccept | .agValueReturn | .cpymFollowOn
  | .flitSend | .streamBufferLanding | .rotSwap | .triggerDeliver | .templateCopy => some (dieOf f.tile)
  | .copyStart | .copyFlitDeliver | .copyEndOfTile | .copyReply | .jobSelect => some f.die
  | .hqNotify => some (if h : f.unit < 1024 then dieOf ⟨f.unit, h⟩ else ⟨(f.unit - 1024) % 8, Nat.mod_lt _ (by decide)⟩)
  | .walkDequeue | .walkMemoryRead | .walkHandoff | .walkReply | .fallowKeyReply => (s.walks.find? (·.id == f.walk)).map fun w => walkerDie w.walker
  | .pageWalkDone => if f.unit = 1 then (s.walks.find? (·.id == f.walk)).map fun w => walkerDie w.walker else some (dieOf f.tile)
  | .demandInsert | .portServe | .sourcePost | .cuttingWrite | .sinkEotAccept | .cancelFlit => some (s.portDie f.port)
  | .balanceDispatch | .balanceTrigger | .graftForward | .shadowLoaded | .graphStopped | .activeWordsFetched | .jobAdmit | .conditionReeval
  | .presenceReport | .jobComplete | .barrierComplete => (s.ctx? f.ctx).map (·.home)
  | _ => none
/-- The arithmetic clock that a happening waits on is held (R380). -/
def State.clockHeld (s : State) (i : Instr) (f : Focus) : Bool := (s.clockDie i f).any fun d => s.dies[d].power == .s1

/-- What a move runs; none where it has nothing to run, and where its clock is held. -/
def State.runMove (s : State) : Move → Option (Instr × State)
  | .happen i f => if isHappening i && !s.clockHeld i f then some (i, { s with sysMode := false, eccError := false, focus := f }) else none
  | .happenErr i f => if isHappening i && !s.clockHeld i f then some (i, { s with sysMode := false, eccError := true, focus := f }) else none
  | .rule j => if s.dies[walkerDie (walkerIx j)].power == .s1 then none else (s.turnAt j).map fun w => (ruleAt w, { s with
      sysMode := false, eccError := false, focus := { walk := w.id }, walkLast := s.walkLast.set (walkerIx j) w.id (walkerIx j).isLt })
  | .issue t => s.issueAt t
  | .issueErr t => (s.issueAt t).map fun (i, s) => (i, { s with eccError := true })
  | .sys d w => s.coreWord d (s.cores[d].words ++ [w])
  | .sysErr d w => (s.coreWord d (s.cores[d].words ++ [w])).map fun (i, s) => (i, { s with eccError := true })
  | .core d => s.coreWord d s.cores[d].words
  | .evict _ _ | .corrected => none

/-- The tiles from one on, in cyclic order. -/
def tilesFrom (t : TileId) : List TileId := (List.finRange 1024).map fun i => ⟨(t.val + i.val) % 1024, by omega⟩

/-- Run the oldest owed move, putting a happening, or a walker that has a rule to run, last first, so that the others have their turn; a
system word leaves the list. -/
def State.runOwed (s : State) : Choice :=
  match s.pending with
  | [] => .idle s
  | m :: rest =>
    let s := { s with owedFirst := false, pending := match m with
      | .happen .. => rest ++ [m]
      | .rule j => if (s.turnAt j).isSome then rest ++ [m] else rest
      | _ => rest }
    match s.runMove m with
    | some (i, s) => .run i s
    | none => .idle s

/-- The next word of a sequencer: of the first tile that has one, from the tile whose turn it is. -/
def State.runTiles (s : State) : Option (Instr × State) :=
  ((tilesFrom s.turn).findSome? s.issueAt).map fun (i, r) =>
    (i, { r with owedFirst := true, turn := ⟨(r.focus.tile.val + 1) % 1024, by omega⟩ })

/-- What memory does by itself: a corrected error is counted (R19), and a line leaves L1, which takes no store with it: bytes not yet
written back stand with their store.
Assumption 133 (DESIGN CHOICE). -/
def State.evicted (s : State) : Move → State
  | .corrected => { s with telemetry := { s.telemetry with corrected := s.telemetry.corrected + 1 } }
  | .evict t line => s.modTile t fun T => { T with l1 := T.l1.filter (·.line != line) }
  | _ => s

/-- A RESET is the one move a package without power makes (R382). -/
def isReset : Move → Bool
  | .happen .reset _ => true
  | _ => false

/-- The choice of a step: the agenda's first move where there is one; otherwise sequencers and owed happenings in turn. -/
def State.choose (s : State) : Choice :=
  match s.agenda with
  | m :: rest =>
    let s := State.evicted { s with agenda := rest } m
    if !s.powered && !isReset m then .idle s
    else match s.runMove m with
    | some (i, s) => .run i s
    | none => .idle s
  | [] =>
    if !s.powered then .noPower
    else if s.owedFirst && !s.pending.isEmpty then s.runOwed
    else match s.runTiles with
    | some (i, s) => .run i s
    | none => s.runOwed

/-! ## Placing an instruction -/

/-- The context that a placed instruction runs in where tile 0 has none that runs: number 0, launched on the bed of tile 0. -/
def placedContext : Context := { num := 0, tenant := 0, root := 0, saveArea := 0, ring := 0, debug := false, saveLimit := 0, wdCeiling := 0,
                                 launch := some (0, false), wdgl := 2 ^ 16 }

/-- Make tile 0 belong to a context that runs. -/
def State.placeContext (s : State) : State :=
  if (match s.tileCtx 0 with | some c => s.ctxRuns c | none => false) then s
  else { s.modTile 0 fun T => { T with owner := some 0 } with
         contexts := placedContext :: s.contexts.filter fun (c : Context) => c.num != 0 }

/-- Put bytes at address 0 of tile 0's instruction store and make its slot 0 the RUNNING slot there. -/
def State.placeWord (s : State) (bytes : List Byte) : State :=
  s.modTile 0 fun T => { T with
    istore := Memory.write T.istore 0 bytes
    slots := Vector.ofFn fun k : SlotId =>
      if k = 0 then { T.slot 0 with status := .running, wait := .none, win := 0xFC0, pc := 0, cls := {}, late := [] }
      else if (T.slot k).status = .running then { T.slot k with status := .ready } else T.slot k }

end Sys2Proof.Machine
end

