-- ==== Sys2Proof/Machine/Step.lean ====
section
/-! DEFINITION. One step of the machine, and the placing of an instruction where the next step fetches. -/
namespace Sys2Proof.Machine
open Sys2Proof

/-- One step: time passes, an agent is chosen, and it runs its word, rule or happening. -/
def step (s : State) : Host.Outcome State Fault Refusal :=
  match s.tick.choose with
  | .run i t => exec i t
  | .idle t => .next t
  | .noPower => .fault .noPower

/-- The state with an instruction placed where `step` fetches next: at address 0 of tile 0's instruction store, slot 0 RUNNING there in a
context that runs, nothing on the agenda and no owed happening before it (assumption 9, DESIGN CHOICE). -/
def State.withFetchWord (s : State) (nbits w : Nat) : State :=
  (State.placeContext { s with
    powered := true, wiping := false, agenda := [], owedFirst := false, sysMode := false, eccError := false, turn := 0
    dies := s.dies.set 0 { s.dies[0] with power := .p0, changing := false } }).placeWord (tableBytes nbits w)

end Sys2Proof.Machine
end

