-- ==== Sys2Proof/Safety.lean ====
section
/-! DEFINITION. What counts as a safe run: every memory of the machine stays in its canonical form, and the machine never stops. -/
namespace Sys2Proof.Machine
open Sys2Proof

/-- The memories of a tile are in their canonical form. -/
def Tile.canonical (T : Tile) : Prop := Memory.wf T.istore = true ∧ Memory.wf T.sp = true

/-- Every memory is in its canonical form: HBM, each tile's instruction store and scratchpad, and those of saved images. -/
def State.canonical (s : State) : Prop :=
  Memory.wf s.mem = true ∧ (∀ t : TileId, (s.tile t).canonical) ∧ ∀ i ∈ s.saved, ∀ x ∈ i.tiles, x.2.canonical

/-- A decommissioned device (R373): its keys are erased, and no KEYS command is half done. -/
def State.final (s : State) : Prop :=
  s.life = .decommissioned ∧ s.keys = Vector.replicate 8 [] ∧ ∀ m ∈ s.mailQ, m.instr = .keys → m.begun = false

/-- A state reached from another by steps that answer a next state. -/
inductive Reaches : State → State → Prop where
  | refl (s : State) : Reaches s s
  | tail {s t u : State} : Reaches s t → step t = .next u → Reaches s u

/-- A safe state: its memories are canonical and the package has power or is about to be reset. -/
def State.safe (s : State) : Prop := s.canonical ∧ (s.powered = true ∨ s.agenda ≠ [])

/-- A safe run: every state reached is canonical. -/
def safeRun (s : State) : Prop := ∀ t, Reaches s t → t.canonical

/-! ## When a word takes its effect -/

/-- The registers a word names have no earlier write of the task outstanding (R72). -/
def State.settled (s : State) (xs : List XReg) (ps : List PReg) : Prop :=
  (∀ r ∈ xs, r ≠ 0 → r.toNat ∉ s.cur.pendX) ∧ (∀ p ∈ ps, p ≠ 0 → p.toNat ∉ s.cur.pendP)

/-- The word in focus stands where a word of `len` bytes may stand: no clause is open (R55), and the word after it still lies in the
instruction store (R30); firmware in system mode has neither limit (R337). -/
def State.stands (s : State) (len : Nat) : Prop :=
  s.sysMode = true ∨ (s.cur.cls.isOpen = false ∧ s.cur.pc.toNat + len ≤ 0xFFFC)

/-- A scalar word that names the registers `xs`, `ps` and the guard `g` takes its effect (R30, R35, R55, R72). -/
def State.wordFree (s : State) (g : PReg) (xs : List XReg) (ps : List PReg) : Prop :=
  s.stands 4 ∧ s.getP g = true ∧ (s.sysMode = true ∨ s.settled xs (g :: ps))

/-- The same for a word of a task. -/
def State.taskFree (s : State) (g : PReg) (xs : List XReg) (ps : List PReg) : Prop := s.sysMode = false ∧ s.wordFree g xs ps

/-- The same for a memory word of a task, which no command of a released clause keeps waiting (R57, R209). -/
def State.memFree (s : State) (g : PReg) (xs : List XReg) (ps : List PReg) : Prop := s.taskFree g xs ps ∧ s.memWaits = false

/-- A transfer of a task that reads `xs`, `ps` acts (R55, R72, R84). -/
def State.transferFree (s : State) (xs : List XReg) (ps : List PReg) : Prop :=
  s.sysMode = false ∧ s.cur.cls.isOpen = false ∧ s.settled xs ps

/-- A command outside a clause goes to its port: it may stand here, its guard holds, no register it names is still to be written, and no
held command of a clause stops it: none of a released clause must enter its queue first, and none touches the same registers (R30, R39, R53,
R57, R72). -/
def State.commandFree (s : State) (i : Instr) (c : Cmd) (extra : List XReg) : Prop :=
  s.sysMode = false ∧ s.cur.cls.isOpen = false ∧ s.cur.pc.toNat + cmdLen i ≤ 0xFFFC ∧ cmdGuard c s = true ∧
  s.settled (extra ++ (cmdRegs i c).1) (c.ga :: c.gb :: (cmdRegs i c).2) ∧ busyStop i c s.focus.tile s = none ∧
  ∀ h ∈ s.here.held, h.stops i = false

/-! ## What a word issues -/

/-- The step from `s` to `t` issues one access of the word in focus: it is the newest of its tile, of kind `k` over `ps`; with its places
known it owes its next happening, without them it is parked and owes the end of a page walk (R180, R181). -/
def State.issues (s t : State) (k : AccKind) (ps : List Piece) (locs : Option (List (Loc × Nat))) : Prop :=
  ∃ a : Access, t.here.accesses = s.here.accesses ++ [a] ∧ a.id = s.here.nextAcc ∧ a.iss = s.issue ∧ a.kind = k ∧ a.pieces = ps ∧
    a.tileDone = false ∧ a.parked = locs.isNone ∧ a.locs = locs.getD [] ∧
    .happen (if locs.isNone then .pageWalkDone else k.owes) { tile := s.focus.tile, id := a.id } ∈ t.pending

/-- What an access over `ps` needs to be issued: a free log entry, no fault the tile finds itself, and room in the parked pool where a page
has to be walked. -/
def State.accepts (s : State) (k : AccKind) (ps : List Piece) (locs : Option (List (Loc × Nat))) : Prop :=
  s.here.freeLog.isSome ∧ s.tryLocate s.issue k ps false = .ok locs ∧
    (locs = none → s.needsWalk s.issue ps = true → s.poolFull s.focus.tile = false)

/-- A word that holds its slot until it has performed finds a log entry, and room in the parked pool where a page has to be walked (R180,
R181). -/
def State.mayWalk (s : State) (va len : Nat) : Prop :=
  s.here.freeLog.isSome ∧ (s.needsWalk s.issue [{ va, len }] = true → s.poolFull s.focus.tile = false)

/-- The state in which such a word performs: the translations of its range are cached. -/
def State.walked (s : State) (va len : Nat) : State := s.fillTlbs s.issue [{ va, len }]

/-- A queue word finds the descriptor `q` at `va` and may perform at the node (R199, R209, R220); one that writes finds room in the node's
notify buffer (R333). -/
def State.queueFree (s : State) (va : Nat) (write : Bool) (q : Hq) : Prop :=
  let u := s.walked va 32
  s.mayWalk va 32 ∧ s.findHq s.ctxNum s.focus.tile va = .ok q.locs ∧ u.hqMayRead q.locs = true ∧
    u.openHq s.ctxNum s.focus.tile va write = .ok q ∧ u.hqReady q write = true ∧ (write = true → u.notifyFull q = false)

/-! ## What a step leaves alone -/

/-- Every byte of HBM, of each tile's scratchpad and of each instruction store reads as before, and so does every versioned word. -/
def State.sameMemory (s t : State) : Prop :=
  (∀ a, Memory.get t.mem a = Memory.get s.mem a) ∧ t.vwords = s.vwords ∧
  ∀ u : TileId, (∀ a, Memory.get (t.tile u).sp a = Memory.get (s.tile u).sp a) ∧
    ∀ a, Memory.get (t.tile u).istore a = Memory.get (s.tile u).istore a

/-- The same, and the L1 share of every tile holds what it held. -/
def State.sameBytes (s t : State) : Prop := s.sameMemory t ∧ ∀ u : TileId, (t.tile u).l1 = (s.tile u).l1

/-- Every x register and predicate is as before, but for those named of the task in focus of the first state; so are those of the management cores. -/
def State.sameFiles (s t : State) (xs : List XReg) (ps : List PReg) : Prop :=
  (∀ d : DieId, (∀ r ∉ xs, readX t.cores[d].x r = readX s.cores[d].x r) ∧ ∀ p ∉ ps, readP t.cores[d].p p = readP s.cores[d].p p) ∧
  ∀ (u : TileId) (k : SlotId),
    if u = s.focus.tile ∧ k = s.focus.slot then
      (∀ r ∉ xs, readX (t.slot u k).x r = readX (s.slot u k).x r) ∧ ∀ p ∉ ps, readP (t.slot u k).p p = readP (s.slot u k).p p
    else (t.slot u k).x = (s.slot u k).x ∧ (t.slot u k).p = (s.slot u k).p

/-- The v, a, m and z registers, the weight planes, the presence bits and the random state of every tile are as before. -/
def State.sameArrays (s t : State) : Prop :=
  ∀ u : TileId, (t.tile u).v = (s.tile u).v ∧ (t.tile u).a = (s.tile u).a ∧ (t.tile u).m = (s.tile u).m ∧ (t.tile u).z = (s.tile u).z ∧
    (t.tile u).active = (s.tile u).active ∧ (t.tile u).shadow = (s.tile u).shadow ∧ (t.tile u).present = (s.tile u).present ∧
    (t.tile u).lfsr = (s.tile u).lfsr

/-- An access has failed: its task owes a late fault with a code, at the access's word, that holds the access to issue again (R182). -/
def State.failsLate (s t : State) (a : Access) (c : FaultCode) : Prop :=
  ∃ l, (t.slot a.iss.tile a.iss.slot).late = (s.slot a.iss.tile a.iss.slot).late ++ [l] ∧ l.code = c ∧ l.pc = a.iss.pc ∧ l.access.isSome ∧
    t.here.access? s.focus.id = none ∧ s.sameBytes t ∧ s.sameFiles t [] [] ∧ s.sameArrays t

/-- The same, but for the v registers and the random state of the tile in focus. -/
def State.sameButV (s t : State) : Prop :=
  ∀ u : TileId, (t.tile u).a = (s.tile u).a ∧ (t.tile u).m = (s.tile u).m ∧ (t.tile u).z = (s.tile u).z ∧
    (t.tile u).active = (s.tile u).active ∧ (t.tile u).shadow = (s.tile u).shadow ∧ (t.tile u).present = (s.tile u).present ∧
    (u ≠ s.focus.tile → (t.tile u).v = (s.tile u).v ∧ (t.tile u).lfsr = (s.tile u).lfsr)

/-- The clause register, the window and the wave counter of every task and the phase and lead of every tile are as before, and so are the
summary word and the counters of every task but the one in focus. -/
def State.sameTasks (s t : State) : Prop :=
  ∀ u : TileId, (t.tile u).phase = (s.tile u).phase ∧ (t.tile u).lead = (s.tile u).lead ∧
    ∀ k : SlotId, (t.slot u k).cls = (s.slot u k).cls ∧ (t.slot u k).win = (s.slot u k).win ∧ (t.slot u k).wavectr = (s.slot u k).wavectr ∧
      (¬ (u = s.focus.tile ∧ k = s.focus.slot) → (t.slot u k).stat = (s.slot u k).stat ∧ (t.slot u k).cnt = (s.slot u k).cnt)

/-- The counters of the task in focus have risen by the numbers of a list, but for the one left out, and for REPLAY on a die in timing-margin
mode (R144). -/
def State.counted (s t : State) (l : List Nat) (but : Nat) : Prop :=
  ∀ j : Fin 16, j.val ≠ but → (j.val = 8 → s.dies[dieOf s.focus.tile].margin = false) → t.cur.cnt[j] = satAdd32 s.cur.cnt[j] (l.count j.val)

/-- FALLOW_IN (3) and NAN_IN (4) of source registers under a format, once for each such element (R117, R145). -/
def inputMarks (fmt : BitVec 5) (regs : List VReg) : List Nat :=
  List.replicate ((regs.flatMap (vals fmt)).count .fallow) 3 ++ List.replicate ((regs.flatMap (vals fmt)).count .nan) 4

/-- A command has written the registers of its destination block, in R44 order, and moved past itself. -/
def State.wroteBlock (s t : State) (c : Cmd) (res : List VReg) : Prop :=
  t.here.v = (s.here.setVs (blockRegs c (slotV c.s1)) res).v ∧ t.cur.pc = s.cur.pc + 16 ∧ s.sameBytes t ∧ s.sameFiles t [] [] ∧
    s.sameButV t ∧ s.sameTasks t

/-- A lane command holds its stage, whose result is owed (R119, R146). -/
def State.heldStage (s t : State) (c : Cmd) : Prop :=
  ∃ st, pickStage c s.issue s = .ok st ∧ t.here.stages = s.here.stages.set st (some s.issue.no) ∧
    .happen .laneStageResult { tile := s.focus.tile, unit := st.val } ∈ t.pending

/-- The summary word, the counters, the clause register, the window and the wave counter of every task, and the phase and lead of every
tile, are as before. -/
def State.sameStatus (s t : State) : Prop :=
  ∀ u : TileId, (t.tile u).phase = (s.tile u).phase ∧ (t.tile u).lead = (s.tile u).lead ∧
    ∀ k : SlotId, (t.slot u k).stat = (s.slot u k).stat ∧ (t.slot u k).cnt = (s.slot u k).cnt ∧ (t.slot u k).cls = (s.slot u k).cls ∧
      (t.slot u k).win = (s.slot u k).win ∧ (t.slot u k).wavectr = (s.slot u k).wavectr

/-! ## Firmware commands -/

/-- Who may issue a mailbox command (R370). -/
def mailWho : Instr → Option Who
  | .ownClaim | .ownQuery | .measure => some .master
  | .telemetry => some .masterOwn
  | .ownGive | .lifecycle | .keys | .wipe | .quotaSet | .ctxCreate | .ctxSave | .ctxRestore | .ctxKill | .ctxResume | .ptWrite | .imgVerify
  | .launch | .dieMode | .peerCfg => some .owner
  | .queueMap | .jobSubmit | .demand => some .own
  | _ => none

/-- The command of the function in focus, as it enters the mailboxes. -/
def State.mail (s : State) (i : Instr) : Mail := { instr := i, func := s.focus.func, req := s.focus.req }

/-- The state with the command accepted (R368). -/
def State.taken (s : State) (i : Instr) : State := { s.unpost i s.focus with mailQ := s.mailQ ++ [s.mail i] }

/-- The function's mailbox is free and no command holds this one back (R368, R372). -/
def State.mailFree (s : State) (i : Instr) : Prop :=
  (∀ m ∈ s.mailQ, m.func ≠ s.focus.func ∧ isBarrier m.instr = false) ∧ (isBarrier i = true → s.mailQ = [])

/-- The command is served: no wipe runs, its issuer may issue it, the life-cycle state allows it, and its reserved bytes are 0 (R368, R370,
R372, R373). -/
def State.served (s : State) (i : Instr) : Prop :=
  s.mailFree i ∧ s.wiping = false ∧ allowedIn s.life i = true ∧ s.focus.req.res0 = 0 ∧ ∃ w, mailWho i = some w ∧ s.mayIssue s.focus.func w = true

/-- The command is answered at once with a status and results, in the state its effect leaves (R368, R369). -/
def State.answers (s : State) (i : Instr) (status : Nat) (r : List Word) (v : State) : Prop :=
  exec i s = .next (v.answer (s.mail i) status r)

end Sys2Proof.Machine
end

