-- ==== Sys2Proof/Certificates/Slice0/Obligations.lean ====
section
/-! DEFINITION. The statements for the provers, drawn from the numbered rules of the spec. Where a statement rests on a choice of the model, its docstring says so
and names the assumption. -/
open Sys2Proof Sys2Proof.Machine

/-- R75, R76: the integer register forms. Where the word may take its effect, exec answers the state in which rd holds the result, computed
exactly and narrowed, and the pc lies past the word. R75: `clz`, `ctz` and `popc` count zero bits above the highest set bit, zero bits below
the lowest, and set bits; 64 for `clz` and `ctz` of 0. -/
def Obligations.IntegerRegisterForms : Prop :=
  (∀ (s : State) (d a b : XReg) (g : PReg), s.wordFree g [d, a, b] [] →
    let x := s.getX a
    let y := s.getX b
    let k := y.toNat % 64
    let put := fun v : Word => (Host.Outcome.next ((s.setX d v).advance 4) : Out)
    exec (.add d a b g) s = put (BitVec.ofNat 64 (x.toNat + y.toNat)) ∧
    exec (.sub d a b g) s = put (BitVec.ofInt 64 (x.toInt - y.toInt)) ∧
    exec (.and d a b g) s = put (x &&& y) ∧
    exec (.or d a b g) s = put (x ||| y) ∧
    exec (.xor d a b g) s = put (x ^^^ y) ∧
    exec (.andn d a b g) s = put (x &&& ~~~y) ∧
    exec (.sll d a b g) s = put (BitVec.ofNat 64 (x.toNat * 2 ^ k)) ∧
    exec (.srl d a b g) s = put (BitVec.ofNat 64 (x.toNat / 2 ^ k)) ∧
    exec (.sra d a b g) s = put (BitVec.ofInt 64 (x.toInt / 2 ^ k)) ∧
    (∃ v : Word, exec (.rol d a b g) s = put v ∧ ∀ j < 64, v.getLsbD j = x.getLsbD ((j + 64 - k) % 64)) ∧
    exec (.mul d a b g) s = put (BitVec.ofInt 64 (x.toInt * y.toInt)) ∧
    exec (.mulh d a b g) s = put (BitVec.ofInt 64 (x.toInt * y.toInt / 2 ^ 64)) ∧
    exec (.mulhn d a b g) s = put (BitVec.ofNat 64 (x.toNat * y.toNat / 2 ^ 64)) ∧
    exec (.min d a b g) s = put (if x.toInt < y.toInt then x else y) ∧
    exec (.minn d a b g) s = put (if x.toNat < y.toNat then x else y) ∧
    exec (.max d a b g) s = put (if y.toInt < x.toInt then x else y) ∧
    exec (.maxn d a b g) s = put (if y.toNat < x.toNat then x else y) ∧
    exec (.slt d a b g) s = put (if x.toInt < y.toInt then 1 else 0) ∧
    exec (.sltn d a b g) s = put (if x.toNat < y.toNat then 1 else 0)) ∧
  (∀ (s : State) (d a : XReg) (g : PReg), s.wordFree g [d, a] [] →
    let x := s.getX a
    let put := fun n : Nat => (Host.Outcome.next ((s.setX d (BitVec.ofNat 64 n)).advance 4) : Out)
    (∃ n, exec (.clz d a g) s = put n ∧
      (x = 0 → n = 64) ∧ (x ≠ 0 → n < 64 ∧ x.getLsbD (63 - n) = true ∧ ∀ j, 63 - n < j → x.getLsbD j = false)) ∧
    (∃ n, exec (.ctz d a g) s = put n ∧ (x = 0 → n = 64) ∧ (x ≠ 0 → x.getLsbD n = true ∧ ∀ j < n, x.getLsbD j = false)) ∧
    exec (.popc d a g) s = put ((List.range 64).filter fun j => x.getLsbD j).length)

/-- R76: division truncates toward zero, the remainder takes the sign of the dividend, and the two fixed cases. -/
def Obligations.DivisionTruncates : Prop :=
  ∀ (s : State) (d a b : XReg) (g : PReg), s.wordFree g [d, a, b] [] →
    let x := s.getX a
    let y := s.getX b
    let put := fun v : Word => (Host.Outcome.next ((s.setX d v).advance 4) : Out)
    exec (.div d a b g) s =
      put (if y = 0 then 0xFFFFFFFFFFFFFFFF else if x = 0x8000000000000000 ∧ y = 0xFFFFFFFFFFFFFFFF then 0x8000000000000000
           else BitVec.ofInt 64 (x.toInt.tdiv y.toInt)) ∧
    exec (.divn d a b g) s = put (if y = 0 then 0xFFFFFFFFFFFFFFFF else BitVec.ofNat 64 (x.toNat / y.toNat)) ∧
    exec (.rem d a b g) s =
      put (if y = 0 then x else if x = 0x8000000000000000 ∧ y = 0xFFFFFFFFFFFFFFFF then 0 else BitVec.ofInt 64 (x.toInt.tmod y.toInt)) ∧
    exec (.remn d a b g) s = put (if y = 0 then x else BitVec.ofNat 64 (x.toNat % y.toNat))

/-- R77, R78: the immediate forms. Every immediate is sign-extended; a shift takes its six-bit field. -/
def Obligations.ImmediateForms : Prop :=
  ∀ (s : State) (d a : XReg) (im : BitVec 13) (sh : BitVec 6) (g : PReg), s.wordFree g [d, a] [] →
    let x := s.getX a
    let i := im.toInt
    let k := sh.toNat
    let put := fun v : Word => (Host.Outcome.next ((s.setX d v).advance 4) : Out)
    exec (.addi d a im g) s = put (BitVec.ofInt 64 (x.toInt + i)) ∧
    exec (.andi d a im g) s = put (x &&& BitVec.ofInt 64 i) ∧
    exec (.ori d a im g) s = put (x ||| BitVec.ofInt 64 i) ∧
    exec (.xori d a im g) s = put (x ^^^ BitVec.ofInt 64 i) ∧
    exec (.slti d a im g) s = put (if x.toInt < i then 1 else 0) ∧
    exec (.sltni d a im g) s = put (if x.toNat < (BitVec.ofInt 64 i).toNat then 1 else 0) ∧
    exec (.slli d a sh g) s = put (BitVec.ofNat 64 (x.toNat * 2 ^ k)) ∧
    exec (.srli d a sh g) s = put (BitVec.ofNat 64 (x.toNat / 2 ^ k)) ∧
    exec (.srai d a sh g) s = put (BitVec.ofInt 64 (x.toInt / 2 ^ k)) ∧
    (∃ v : Word, exec (.roli d a sh g) s = put v ∧ ∀ j < 64, v.getLsbD j = x.getLsbD ((j + 64 - k) % 64))

/-- R79 to R81: constants, bit fields and the select; `lui` and `pcai` carry no guard, and `bfi` reads rd. (In system mode the pc is the
management core's own, log entry 12.) -/
def Obligations.ConstantsFieldsAndSelect : Prop :=
  ∀ (s : State) (d a b : XReg) (im : BitVec 21) (l w : BitVec 6) (p g : PReg),
    let put := fun v : Word => (Host.Outcome.next ((s.setX d v).advance 4) : Out)
    let n := w.toNat + 1
    (s.wordFree 0 [d] [] →
      exec (.lui d im) s = put (BitVec.ofInt 64 (im.toInt * 2 ^ 12)) ∧
      exec (.pcai d im) s = put (BitVec.ofInt 64 ((if s.sysMode then s.core.pc.toNat else s.cur.pc.toNat) + 4 * im.toInt))) ∧
    (l.toNat + n ≤ 64 → s.wordFree g [d, a] [] →
      exec (.bfx d a l w g) s = put (BitVec.ofNat 64 ((s.getX a).toNat / 2 ^ l.toNat % 2 ^ n)) ∧
      exec (.bfxS d a l w g) s = put (((s.getX a).extractLsb' l.toNat n).signExtend 64) ∧
      (∃ v : Word, exec (.bfi d a l w g) s = put v ∧
        ∀ j < 64, v.getLsbD j = if l.toNat ≤ j ∧ j < l.toNat + n then (s.getX a).getLsbD (j - l.toNat) else (s.getX d).getLsbD j)) ∧
    (s.wordFree g [d, a, b] [p] → exec (.sel d a b p g) s = put (if s.getP p then s.getX a else s.getX b)) ∧
    (s.stands 4 → (s.sysMode = true ∨ s.settled [] [g]) → s.getP g = false → exec (.sel d a b p g) s = .next (s.advance 4))

/-- R82, R83: the comparisons and the truth table write their predicate; a write to p0 is discarded. R51: x0 reads 0 and p0 reads true, a write
to either is discarded, any other register reads what was written last, and moving past a word changes neither file and adds the word's
length to the task's pc; memory stays. -/
def Obligations.PredicateWords : Prop :=
  (∀ (s : State) (d pa pb : PReg) (a b : XReg) (tt : BitVec 4) (g : PReg),
    let x := s.getX a
    let y := s.getX b
    let put := fun v : Bool => (Host.Outcome.next ((s.setP d v).advance 4) : Out)
    (s.wordFree g [a, b] [d] →
      exec (.pcmpEq d a b g) s = put (decide (x = y)) ∧
      exec (.pcmpNe d a b g) s = put (decide (x ≠ y)) ∧
      exec (.pcmpLt d a b g) s = put (decide (x.toInt < y.toInt)) ∧
      exec (.pcmpGe d a b g) s = put (decide (y.toInt ≤ x.toInt)) ∧
      exec (.pcmpLtn d a b g) s = put (decide (x.toNat < y.toNat)) ∧
      exec (.pcmpGen d a b g) s = put (decide (y.toNat ≤ x.toNat))) ∧
    (s.wordFree g [] [d, pa, pb] →
      exec (.plog d pa pb tt g) s = put (tt.getLsbD (2 * (s.getP pa).toNat + (s.getP pb).toNat)))) ∧
  (∀ (s : State) (r q : XReg) (v : Word) (p o : PReg) (b : Bool) (n : Nat),
    s.getX 0 = 0 ∧ s.getP 0 = true ∧ s.setX 0 v = s ∧ s.setP 0 b = s ∧
    (r ≠ 0 → (s.setX r v).getX q = if q = r then v else s.getX q) ∧
    (p ≠ 0 → (s.setP p b).getP o = if o = p then b else s.getP o) ∧
    (s.setX r v).getP o = s.getP o ∧ (s.setP p b).getX q = s.getX q ∧
    (s.advance n).getX q = s.getX q ∧ (s.advance n).getP o = s.getP o ∧
    (s.sysMode = false → (s.advance n).cur.pc = s.cur.pc + BitVec.ofNat 16 n) ∧
    (s.setX r v).mem = s.mem ∧ (s.setP p b).mem = s.mem ∧ (s.advance n).mem = s.mem)

/-- R35, R69: a guarded word whose predicate reads false moves past itself and does nothing else; it raises no fault of its own. -/
def Obligations.FalseGuardOnlyMovesPast : Prop :=
  ∀ (s : State) (y : BitVec 1) (o : BitVec 10) (c : BitVec 11) (i : BitVec 13) (k l : BitVec 2) (g p q r : PReg) (e : BitVec 4) (a b d : XReg) (m n : BitVec 6)
      (z : BitVec 8), s.sysMode = false → s.stands 4 → s.settled [] [g] → s.getP g = false →
    ∀ w ∈ ([
      .add d a b g, .sub d a b g, .and d a b g, .or d a b g, .xor d a b g, .andn d a b g, .sll d a b g, .srl d a b g, .sra d a b g,
      .rol d a b g, .mul d a b g, .mulh d a b g, .mulhn d a b g, .div d a b g, .divn d a b g, .rem d a b g, .remn d a b g, .min d a b g,
      .minn d a b g, .max d a b g, .maxn d a b g, .slt d a b g, .sltn d a b g, .clz d a g, .ctz d a g, .popc d a g, .addi d a i g,
      .andi d a i g, .ori d a i g, .xori d a i g, .slti d a i g, .sltni d a i g, .slli d a m g, .srli d a m g, .srai d a m g,
      .roli d a m g, .bfx d a m n g, .bfxS d a m n g, .bfi d a m n g, .sel d a b p g, .pcmpEq p d a g, .pcmpNe p d a g, .pcmpLt p d a g,
      .pcmpGe p d a g, .pcmpLtn p d a g, .pcmpGen p d a g, .plog p q r e g, .jalr d a i g, .ldb d a o g, .ldbs d a o g, .ldh d a o g,
      .ldhs d a o g, .ldw d a o g, .ldws d a o g, .ldd d a o g, .stb d a o g, .sth d a o g, .stw d a o g, .std d a o g, .ldvEq d a b g,
      .ldvGe d a b g, .stv d a b g, .stvRsv d a g, .rclm d a b g, .amoAdd d a b k l g, .amoAnd d a b k l g, .amoOr d a b k l g,
      .amoXor d a b k l g, .amoMin d a b k l g, .amoMax d a b k l g, .amoMinn d a b k l g, .amoMaxn d a b k l g, .amoSwap d a b k l g,
      .amoCas d a b k l g, .amoTas d a b k l g, .amoFadd d a b k l g, .fncAcq e g, .fncRel e g, .fncAr e g, .fncSc e g, .xfncOe e g,
      .xfncEo e g, .pref d o g, .prefL2 d o g, .cfl d o g, .cinv d o g, .hqw d a g, .hqwTry d a p g, .hqr d a g, .hqrTry d a p g,
      .csrR d c g, .csrW d a c g, .csrS d a c g, .csrC d a c g, .trap d o g, .wdg d a g, .kilJ d a g, .kilC d a g, .ctxs d a g,
      .ctxr d a g, .bar d e k g, .phs d o g, .phsTo d a g, .lead z g, .dep d a p g, .jsub d a g, .tbnd d a g, .tbndU e g,
      .dmd d a b y e g, .drg d a g, .drt d a g, .dcut d a g, .dcad d a b g, .dcan d a b g] : List Instr), exec w s = .next (s.advance 4)

/-- R84, R85: a branch whose condition holds goes to pc + 4·off where that lies in the store and is no tail word; otherwise it traps there with
the target as the address; one that is not taken advances by 4. R86, R87: `jal` and `jalr` write the return address and jump; a target that
may not be jumped to traps and leaves rd unchanged, the checks of `jalr` in their order. -/
def Obligations.TransfersGoToTheirTargets : Prop :=
  (∀ (s : State) (a b : XReg) (p : PReg) (o : BitVec 13),
    let x := s.getX a
    let y := s.getX b
    let target : Int := s.cur.pc.toNat + 4 * o.toInt
    ∀ i c xs ps, (i, c, xs, ps) ∈
        ([(.bEq a b o, decide (x = y), [a, b], []), (.bNe a b o, decide (x ≠ y), [a, b], []),
          (.bLt a b o, decide (x.toInt < y.toInt), [a, b], []), (.bGe a b o, decide (y.toInt ≤ x.toInt), [a, b], []),
          (.bLtn a b o, decide (x.toNat < y.toNat), [a, b], []), (.bGen a b o, decide (y.toNat ≤ x.toNat), [a, b], []),
          (.bpT p o, s.getP p, [], [p]), (.bpF p o, !s.getP p, [], [p])] : List (Instr × Bool × List XReg × List PReg)) →
      s.transferFree xs ps →
      (c = true → 0 ≤ target → target ≤ 0xFFFC → s.here.isTail target.toNat = false → exec i s = .next (s.jump (BitVec.ofInt 16 target))) ∧
      (c = true → (target < 0 ∨ 0xFFFC < target) → exec i s = .next (s.takeTrap .protect (BitVec.ofInt 64 target) 0 4 false)) ∧
      (c = true → 0 ≤ target → target ≤ 0xFFFC → s.here.isTail target.toNat = true →
        exec i s = .next (s.takeTrap .illegalOp (BitVec.ofInt 64 target) 0 4 false)) ∧
      (c = false → s.cur.pc.toNat + 4 ≤ 0xFFFC → exec i s = .next (s.advance 4))) ∧
  (∀ (s : State) (d a : XReg) (off : BitVec 21) (im : BitVec 13) (g : PReg),
    let ret : Word := BitVec.ofNat 64 (s.cur.pc.toNat + 4)
    let target : Int := s.cur.pc.toNat + 4 * off.toInt
    let t : Word := BitVec.ofInt 64 ((s.getX a).toInt + im.toInt)
    (s.transferFree [d] [] →
      (0 ≤ target → target ≤ 0xFFFC → s.here.isTail target.toNat = false →
        exec (.jal d off) s = .next ((s.setX d ret).jump (BitVec.ofInt 16 target))) ∧
      ((target < 0 ∨ 0xFFFC < target) → exec (.jal d off) s = .next (s.takeTrap .protect (BitVec.ofInt 64 target) 0 4 false))) ∧
    (s.transferFree [d, a] [g] → s.getP g = true →
      (t.toNat % 4 = 0 → t.toNat ≤ 0xFFFC → s.here.isTail t.toNat = false →
        exec (.jalr d a im g) s = .next ((s.setX d ret).jump (BitVec.ofNat 16 t.toNat))) ∧
      (t.toNat % 4 ≠ 0 → exec (.jalr d a im g) s = .next (s.takeTrap .misaligned t 0 4 false)) ∧
      (t.toNat % 4 = 0 → 0xFFFC < t.toNat → exec (.jalr d a im g) s = .next (s.takeTrap .protect t 0 4 false)) ∧
      (t.toNat % 4 = 0 → t.toNat ≤ 0xFFFC → s.here.isTail t.toNat = true →
        exec (.jalr d a im g) s = .next (s.takeTrap .illegalOp t 0 4 false))))

/-- R54, R55, R88, R89: `cls` opens a clause over the next n commands, takes the wave counter and passes its padding; a header that finds its
own clause open keeps it and passes the commands already counted; `nop` only moves past itself; inside an open clause every scalar word but
the padding, a second `cls` and a word no entry assigns included, traps whatever its guard. That the padding is passed in the header's own
step is the model's choice (assumption 147). -/
def Obligations.ClauseHeaderOpensAClause : Prop :=
  ∀ (s : State) (n : BitVec 4), s.sysMode = false →
    let pc := s.cur.pc.toNat
    let start := (pc + 4 + 15) / 16 * 16
    (s.cur.cls.isOpen = false → s.otherClause = false → pc % 4 = 0 → start ≤ 0xFFFC →
      (∀ a, pc + 4 ≤ a → a < start → a % 4 = 0 → wordAt (Memory.read s.here.istore a 4) 0 = 0x88000000#32) →
      ∃ t, exec (.cls n) s = .next t ∧ t.cur.pc = BitVec.ofNat 16 start ∧
        t.cur.cls = { hdr := s.cur.pc, remaining := n, wave := s.cur.wavectr, isOpen := true } ∧
        t.cur.wavectr = (if s.cur.wavectr = 0xFE then 0 else s.cur.wavectr + 1) ∧ s.sameBytes t ∧ s.sameFiles t [] [] ∧ s.sameArrays t) ∧
    (s.cur.cls.isOpen = true → s.cur.cls.hdr = s.cur.pc → pc + 4 ≤ 0xFFFC →
      let at' := clausePc s.here pc (n.toNat - s.cur.cls.remaining.toNat)
      at' ≤ 0xFFFC →
      ∃ t, exec (.cls n) s = .next t ∧ t.cur.pc = BitVec.ofNat 16 at' ∧ t.cur.cls = s.cur.cls ∧ t.cur.wavectr = s.cur.wavectr) ∧
    (s.cur.cls.isOpen = false → s.otherClause = true → pc + 4 ≤ 0xFFFC → exec (.cls n) s = .next (s.blockSlot .clause)) ∧
    (s.stands 4 → exec .nop s = .next (s.advance 4)) ∧
    (s.cur.cls.isOpen = true → s.cur.inPadding = true → pc + 4 ≤ 0xFFFC → exec .nop s = .next (s.advance 4)) ∧
    (s.cur.cls.isOpen = true → s.cur.inPadding = false → exec .nop s = .next (s.takeTrap .illegalOp 0 0 4 false)) ∧
    (s.cur.cls.isOpen = true → s.cur.pc ≠ s.cur.cls.hdr → exec (.cls n) s = .next (s.takeTrap .illegalOp 0 0 4 false)) ∧
    (∀ i : Instr, s.cur.cls.isOpen = true → (encodeWord i).isSome = true → i ≠ .nop → (∀ m, i ≠ .cls m) →
      exec i s = .next (s.takeTrap .illegalOp 0 0 4 false)) ∧
    (∀ code : FaultCode, s.cur.cls.isOpen = true → s.cur.pc ≠ s.cur.cls.hdr → fetchLength s.cur.pc (s.here.fetch s.cur.pc 32) = 4 →
      code ≠ .misaligned → exec (.illegalEncoding code) s = .next (s.takeTrap .illegalOp 0 0 4 false))

/-- R347, R348, R66: `trap`, an enabled `brk` and a word no entry assigns stop the task precisely with their code, address and aux; `brk`
without debugging acts as `nop`. (In an open clause a 4-byte word is a scalar word, which R55 gives F_ILLEGAL_OP.) R67, R339, R342: taking a
precise trap. The slot is FAULTED, its registers, pc and clause register stand, memory and every other slot are as they were, and the
context owes one more record, whose code, kind, tile, slot, pc, resume pc and address are the trap's; the resume pc is the header's inside a
clause, and past the word for a `brk`. R342, R357: firmware resumes a stopped slot. A retry issues the word again; a skip goes on past it; a
`brk` goes on past itself either way; the registers stand. (The resume itself is the firmware command CTX_RESUME.) -/
def Obligations.TrapsAreTakenAndResumed : Prop :=
  (∀ (s : State) (a : XReg) (c : BitVec 10) (k : BitVec 16) (g : PReg) (code : FaultCode),
    (s.taskFree g [a] [] → exec (.trap a c g) s = .next (s.takeTrap (.soft c) 0 (s.getX a) 4 false)) ∧
    (s.taskFree 0 [] [] →
      (s.debugging = true → exec (.brk k) s = .next (s.takeTrap .brk 0 (BitVec.ofNat 64 k.toNat) 4 false)) ∧
      (s.debugging = false → exec (.brk k) s = .next (s.advance 4))) ∧
    (s.sysMode = false → (s.cur.cls.isOpen = false ∨ fetchLength s.cur.pc (s.here.fetch s.cur.pc 32) ≠ 4 ∨ code = .misaligned) →
      exec (.illegalEncoding code) s =
        .next (s.takeTrap code (if code = .misaligned then BitVec.ofNat 64 s.cur.pc.toNat else 0) 0
          (fetchLength s.cur.pc (s.here.fetch s.cur.pc 32)) false))) ∧
  (∀ (s : State) (code : FaultCode) (addr aux : Word) (len : Nat) (fall : Bool), s.sysMode = false →
    let t := s.takeTrap code addr aux len fall
    t.cur.status = .faulted ∧ t.cur.pc = s.cur.pc ∧ t.cur.cls = s.cur.cls ∧
    s.sameBytes t ∧ s.sameFiles t [] [] ∧ s.sameArrays t ∧ s.sameStatus t ∧
    (∀ u k, ¬ (u = s.focus.tile ∧ k = s.focus.slot) → t.slot u k = s.slot u k) ∧
    ∀ (n : Nat) (c : Context), s.here.owner = some n → s.ctx? n = some c →
      ∃ (q : QueuedRecord) (c' : Context), t.ctx? n = some c' ∧ c'.records = c.records ++ [q] ∧
        let r := q.bits
        r.extractLsb' 0 16 = BitVec.ofNat 16 code.val ∧ r.extractLsb' 16 2 = 0 ∧ r.extractLsb' 24 1 = 0 ∧
        r.extractLsb' 26 1 = (if s.cur.cls.isOpen then 1 else 0) ∧
        r.extractLsb' 32 10 = BitVec.ofNat 10 s.focus.tile.val ∧ r.extractLsb' 48 4 = BitVec.ofNat 4 s.focus.slot.val ∧
        r.extractLsb' 56 8 = 0xFF ∧ r.extractLsb' 64 16 = s.cur.pc ∧
        r.extractLsb' 80 16 = (if s.cur.cls.isOpen then s.cur.cls.hdr else if code = .brk then s.cur.pc + 4 else s.cur.pc) ∧ r.extractLsb' 128 64 = addr) ∧
  (∀ (s : State) (t : TileId) (k : SlotId) (fi : FaultInfo) (retry : Bool),
    (s.slot t k).status = .faulted → (s.slot t k).fault = some fi → fi.late = false → fi.inClause = false →
    let r := (s.resumeSlot t k retry).slot t k
    r.status = .ready ∧ r.x = (s.slot t k).x ∧ r.p = (s.slot t k).p ∧ r.cls = (s.slot t k).cls ∧
    r.pc = (if fi.code = .brk then fi.pc + 4 else if retry || fi.fallThrough then fi.pc else fi.pc + BitVec.ofNat 16 fi.len))

/-- R344 to R346, R101, R314: `csr.r` reads each register of the table; a number not in it traps. R344, R345: the writing `csr` words. `w`
writes x[ra], `s` sets and `c` clears its bits; res0 bits are dropped, limits are checked, rd gets the old value; a read-only register traps
F_PROTECT. R349, R101: `wdg` reads the watchdog limit and, with a register named, sets it within the ceiling; a write of the seed puts it
into the tile's random state, 0 as 1. -/
def Obligations.ControlRegisters : Prop :=
  (∀ (s : State) (d : XReg) (n : BitVec 11) (g : PReg) (c : Context), s.taskFree g [d] [] → s.tileCtx s.focus.tile = some c →
    let k := s.cur
    let T := s.here
    (∀ m v, (m, v) ∈
        ([(0x000, k.stat), (0x001, BitVec.ofNat 64 k.cls.bits), (0x002, BitVec.ofNat 64 k.win.toNat), (0x003, BitVec.ofNat 64 T.lfsr.toNat),
          (0x004, BitVec.ofNat 64 c.lrect), (0x005, BitVec.ofNat 64 (mcOf s.focus.tile k.bed)), (0x006, BitVec.ofNat 64 (s.mpend s.focus.tile)),
          (0x007, c.pairto), (0x008, c.vto), (0x009, c.cptab), (0x00A, c.cpcnt),
          (0x00B, s.mcbWord s.focus.tile 0), (0x00C, s.mcbWord s.focus.tile 1), (0x00D, s.mcbWord s.focus.tile 2),
          (0x00E, s.mcbWord s.focus.tile 3), (0x00F, BitVec.ofNat 64 (linksOf s.focus.tile)), (0x010, BitVec.ofNat 64 c.wdgl),
          (0x011, BitVec.ofNat 64 c.wdgc), (0x012, BitVec.ofNat 64 c.num), (0x013, BitVec.ofNat 64 T.phase.toNat),
          (0x014, BitVec.ofNat 64 k.job)] : List (BitVec 11 × Word)) → exec (.csrR d m g) s = .next ((s.setX d v).advance 4)) ∧
    (∀ j : Fin 16, exec (.csrR d (BitVec.ofNat 11 (0x020 + j.val)) g) s = .next ((s.setX d (BitVec.ofNat 64 (k.cnt[j]).toNat)).advance 4)) ∧
    ((0x014 < n.toNat ∧ n.toNat < 0x020) ∨ 0x02F < n.toNat → exec (.csrR d n g) s = .next (s.takeTrap .illegalField 0 0 4 false))) ∧
  (∀ (s : State) (d a : XReg) (n : BitVec 11) (g : PReg) (c : Context), s.taskFree g [d, a] [] → s.tileCtx s.focus.tile = some c →
    let x := s.getX a
    ∀ (i : Instr) (f : Word → Word), (i, f) ∈
        ([(.csrW d a n g, fun _ => x), (.csrS d a n g, fun o => o ||| x), (.csrC d a n g, fun o => o &&& ~~~x)] : List (Instr × (Word → Word))) →
      let put := fun (t : State) (old : Word) => (Host.Outcome.next ((t.setX d old).advance 4) : Out)
      let limit := fun (ok : Bool) (t : State) (old : Word) => if ok then put t old else .next (s.takeTrap .illegalField 0 0 4 false)
      let w := fun (o : Word) => (f o).toNat
      (n = 0x000 → exec i s = put (s.modCur fun k => { k with stat := f s.cur.stat &&& 0x7FFFF }) s.cur.stat) ∧
      (n = 0x003 →
        let v := w (BitVec.ofNat 64 s.here.lfsr.toNat) % 2 ^ 32
        exec i s = put (s.modTile s.focus.tile fun T => { T with lfsr := if v = 0 then 1 else BitVec.ofNat 32 v }) (BitVec.ofNat 64 s.here.lfsr.toNat)) ∧
      (n = 0x007 → exec i s = limit (decide (256 ≤ w c.pairto ∧ w c.pairto ≤ 2 ^ 24)) (s.modCtx s.ctxNum fun k => { k with pairto := f c.pairto }) c.pairto) ∧
      (n = 0x008 → exec i s = limit (decide (4096 ≤ w c.vto ∧ w c.vto ≤ 2 ^ 28)) (s.modCtx s.ctxNum fun k => { k with vto := f c.vto }) c.vto) ∧
      (n = 0x009 → exec i s =
        limit (decide (w c.cptab % 64 = 0)) (s.modCtx s.ctxNum fun k => { k with cptab := f c.cptab &&& 0xFFFFFFFFFFFFF }) c.cptab) ∧
      (n = 0x00A → exec i s =
        limit (decide (w c.cpcnt % 2 ^ 13 ≤ 4096)) (s.modCtx s.ctxNum fun k => { k with cpcnt := f c.cpcnt &&& 0x1FFF }) c.cpcnt) ∧
      (∀ j : Fin 16, n.toNat = 0x020 + j.val → exec i s =
        put (s.modCur fun k => { k with cnt := k.cnt.set j (BitVec.ofNat 32 (w (BitVec.ofNat 64 (k.cnt[j]).toNat))) })
          (BitVec.ofNat 64 (s.cur.cnt[j]).toNat)) ∧
      (n = 0x001 ∨ n = 0x002 ∨ n = 0x004 ∨ n = 0x005 ∨ n = 0x006 ∨ (0x00B ≤ n.toNat ∧ n.toNat ≤ 0x014) →
        exec i s = .next (s.takeTrap .protect 0 0 4 false)) ∧
      ((0x014 < n.toNat ∧ n.toNat < 0x020) ∨ 0x02F < n.toNat → exec i s = .next (s.takeTrap .illegalField 0 0 4 false))) ∧
  (∀ (s : State) (d a : XReg) (g : PReg) (c : Context) (v : Word),
    (s.taskFree g [d, a] [] → s.tileCtx s.focus.tile = some c →
      (a = 0 → exec (.wdg d a g) s = .next ((s.setX d (BitVec.ofNat 64 c.wdgl)).advance 4)) ∧
      (a ≠ 0 → 2 ^ 16 ≤ (s.getX a).toNat → (s.getX a).toNat ≤ c.wdCeiling →
        exec (.wdg d a g) s =
          .next (((s.modCtx c.num fun k => { k with wdgl := (s.getX a).toNat }).setX d (BitVec.ofNat 64 c.wdgl)).advance 4)) ∧
      (a ≠ 0 → ((s.getX a).toNat < 2 ^ 16 ∨ c.wdCeiling < (s.getX a).toNat) →
        exec (.wdg d a g) s = .next (s.takeTrap .illegalField 0 0 4 false))) ∧
    exec (.seedWrite v) s = .next (s.modTile s.focus.tile fun T => { T with
      lfsr := if v.toNat % 2 ^ 32 = 0 then 1 else BitVec.ofNat 32 v.toNat }))

/-- R183, R184: a scalar load whose address is a multiple of its size and passes the tile's own checks issues one access, owes its completion,
and leaves rd pending; a misaligned one traps with the address. (The record's address, the access's first, is the model's choice, assumption
17.) -/
def Obligations.LoadsAreIssued : Prop :=
  ∀ (s : State) (d a : XReg) (o : BitVec 10) (g : PReg) (i : Instr) (size : Nat) (sg : Bool), (i, size, sg) ∈
      ([(.ldb d a o g, 1, false), (.ldbs d a o g, 1, true), (.ldh d a o g, 2, false), (.ldhs d a o g, 2, true),
        (.ldw d a o g, 4, false), (.ldws d a o g, 4, true), (.ldd d a o g, 8, false)] : List (Instr × Nat × Bool)) →
    s.memFree g [d, a] [] →
    let va := (BitVec.ofInt 64 ((s.getX a).toInt + o.toInt)).toNat
    let ps : List Piece := [{ va, len := size }]
    (va % size = 0 → ∀ locs, s.accepts (.load d sg) ps locs →
      ∃ t, exec i s = .next t ∧ s.issues t (.load d sg) ps locs ∧ t.cur.pc = s.cur.pc + 4 ∧ (d ≠ 0 → d.toNat ∈ t.cur.pendX) ∧
        s.sameBytes t ∧ s.sameFiles t [] [] ∧ s.sameArrays t ∧ s.sameStatus t) ∧
    (va % size ≠ 0 → exec i s = .next (s.takeTrap .misaligned (BitVec.ofNat 64 va) 0 4 false)) ∧
    (va % size = 0 → ∀ c v, s.here.freeLog.isSome → s.tryLocate s.issue (.load d sg) ps false = .error (c, v) →
      exec i s = .next (s.takeTrap c (BitVec.ofNat 64 v) 0 4 false))

/-- R183, R209: a scalar store issues one access holding the low bytes of rd; the slot goes on at once. A misaligned one traps. (With the
access's address, the model's choice, assumption 17.) R231: a doubleword stored at the block-transfer aperture puts a templated copy behind
the copies of the channel its address names, of the issuing tile's die. -/
def Obligations.StoresAreIssued : Prop :=
  (∀ (s : State) (d a : XReg) (o : BitVec 10) (g : PReg) (i : Instr) (size : Nat), (i, size) ∈
      ([(.stb d a o g, 1), (.sth d a o g, 2), (.stw d a o g, 4), (.std d a o g, 8)] : List (Instr × Nat)) →
    s.memFree g [d, a] [] →
    let va := (BitVec.ofInt 64 ((s.getX a).toInt + o.toInt)).toNat
    let ps : List Piece := [{ va, len := size, bytes := leBytes size (s.getX d).toNat }]
    (va % size = 0 → inAperture va = false → ∀ locs, s.accepts .store ps locs →
      ∃ t, exec i s = .next t ∧ s.issues t .store ps locs ∧ t.cur.pc = s.cur.pc + 4 ∧
        s.sameBytes t ∧ s.sameFiles t [] [] ∧ s.sameArrays t ∧ s.sameStatus t) ∧
    (va % size ≠ 0 → exec i s = .next (s.takeTrap .misaligned (BitVec.ofNat 64 va) 0 4 false)) ∧
    (va % size = 0 → inAperture va = true → (size ≠ 8 ∨ (va - Config.apertureBase) % 4096 ≠ 0 ∨ 64 ≤ (va - Config.apertureBase) / 4096) →
      exec i s = .next (s.takeTrap .protect (BitVec.ofNat 64 va) 0 4 false))) ∧
  (∀ (s : State) (d a : XReg) (o : BitVec 10) (g : PReg) (n : Fin 64), s.memFree g [d, a] [] → s.here.freeLog.isSome →
    (BitVec.ofInt 64 ((s.getX a).toInt + o.toInt)).toNat = Config.apertureBase + 4096 * n.val →
    (s.getX d).toNat / 2 ^ 12 % 16 = 0 →
    ∃ (t : State) (k : Copy), exec (.std d a o g) s = .next t ∧
      (t.dies[dieOf s.focus.tile].ch[n]).q = (s.dies[dieOf s.focus.tile].ch[n]).q ++ [k] ∧
      k.templ = some (s.getX d) ∧ k.iss = s.issue ∧ k.started = false ∧ t.cur.pc = s.cur.pc + 4 ∧
      .happen .templateCopy { tile := s.focus.tile, id := s.here.nextAcc } ∈ t.pending ∧ s.sameBytes t ∧ s.sameFiles t [] [])

/-- R184, R194, R195, R72: a returning load writes its destination with the bytes it reads, and the register is no longer pending. R175, R202:
where the tile holds no earlier store, those bytes are those of the lines its L1 holds, of memory elsewhere; a line of a cacheable page that
L1 does not hold enters it as memory holds it. R19, R176, R182: where its data holds an uncorrectable error the load is a late fault F_ECC
and writes nothing. (That a load fills its line at once and completes with one memory below the L1s, and when an error strikes, are the
model's choices, assumptions 133, 13 and 134.) R202, R209: a posted store performs first at tile scope, where no byte of memory changes, and
then in memory, where exactly its bytes change, and those of L1 that hold them (R175); `cfl` and `cinv` change none, and `cinv` leaves its
line in no L1 of the tile. R19, R176: a store that has to read the rest of some 8 bytes and finds an uncorrectable error there is a late
fault F_ECC. (That the store updates the lines of L1, and its error, are the model's choices, assumptions 133, 13 and 134.) -/
def Obligations.AccessesComplete : Prop :=
  (∀ (s : State) (a : Access), s.here.access? s.focus.id = some a → a.iss.tile = s.focus.tile → loadReady s.here a = true →
    let lines := s.linesOfAccess a
    let bs := s.loadBytes s.focus.tile a.iss a.id a.locs lines
    (s.eccError = true → s.alive a.iss = true → ∃ t, exec .loadComplete s = .next t ∧ s.failsLate t a .ecc) ∧
    (s.eccError = false →
    (∀ rd sg, a.kind = .load rd sg → s.alive a.iss = true →
      ∃ t, exec .loadComplete s = .next t ∧
        (∀ r, readX (t.slot a.iss.tile a.iss.slot).x r =
          if r = rd ∧ rd ≠ 0 then loadedWord sg bs else readX (s.slot a.iss.tile a.iss.slot).x r) ∧
        (t.slot a.iss.tile a.iss.slot).pendX = (s.slot a.iss.tile a.iss.slot).pendX.erase rd.toNat ∧
        (∀ n, lines = [n] → (∀ x ∈ s.here.l1, x.line ≠ n) → ∀ i < 64, t.here.l1Byte (64 * n + i) = some (Memory.get s.mem (64 * n + i))) ∧
        ((∀ n ∈ lines, ∃ x ∈ s.here.l1, x.line = n) → t.here.l1 = s.here.l1) ∧
        t.here.access? s.focus.id = none ∧ s.sameMemory t ∧ s.sameArrays t ∧ s.sameStatus t) ∧
    (∀ v tag, a.kind = .vload [v] tag → v < 64 →
      ∃ t, exec .loadComplete s = .next t ∧ t.here.vreg v = regOf tag (bs.take (regBytes tag)) ∧
        (∀ u < 64, u ≠ v → t.here.vreg u = s.here.vreg u) ∧ t.here.access? s.focus.id = none ∧ s.sameMemory t ∧ s.sameFiles t [] []) ∧
    (∀ (md : Fin 16) tag, a.kind = .mload md.val tag →
      ∃ t, exec .loadComplete s = .next t ∧ t.here.m[md] = { data := BitVec.ofNat 16384 (leNat bs), tag } ∧
        (∀ k : Fin 16, k ≠ md → t.here.m[k] = s.here.m[k]) ∧ t.here.access? s.focus.id = none ∧ s.sameMemory t ∧ s.sameFiles t [] []) ∧
    (s.here.accesses.all (fun b => !b.kind.hasData) = true →
      ((∀ x ∈ s.here.l1, x.line ∉ lines) → bs = s.readLocs a.locs) ∧
      (∀ pa sc n, a.locs = [(.dev pa false sc, n)] → ∀ i < n, (pa + i) / 64 ∈ lines → ∀ b, s.here.l1Byte (pa + i) = some b → bs[i]? = some b)))) ∧
  (∀ (s : State) (a : Access), s.here.access? s.focus.id = some a → a.iss.tile = s.focus.tile → Memory.wf s.mem = true →
    Memory.wf s.here.sp = true →
    (a.kind ∈ [.store, .vstore, .sbStore, .sbClear, .cacheOp true, .cacheOp false] → a.tileDone = false → storeReady s.here a = true →
      ∃ t, exec .accessPerform s = .next t ∧ t.here.access? s.focus.id = some { a with tileDone := true } ∧
        s.sameBytes t ∧ s.sameFiles t [] [] ∧ s.sameArrays t ∧ s.sameStatus t) ∧
    (a.kind ∈ [.store, .vstore] → a.tileDone = true → commitReady s.here a = true → s.eccError = true → a.partial_ = true →
      s.alive a.iss = true → ∃ t, exec .accessPerform s = .next t ∧ s.failsLate t a .ecc) ∧
    (a.kind ∈ [.store, .vstore] → a.tileDone = true → commitReady s.here a = true → s.eccError = false → ∀ n bs, (a.pieces.flatMap (·.bytes)) = bs → bs.length = n →
      (∀ pa sc, a.locs = [(.dev pa false sc, n)] →
        ∃ t, exec .accessPerform s = .next t ∧ t.here.access? s.focus.id = none ∧ s.sameFiles t [] [] ∧ s.sameArrays t ∧
          (∀ x, Memory.get t.mem x = if h : pa ≤ x ∧ x - pa < bs.length then bs[x - pa] else Memory.get s.mem x) ∧
          (∀ x v, t.here.l1Byte x = some v → ∀ h : pa ≤ x ∧ x - pa < bs.length, v = bs[x - pa]) ∧
          ∀ u : TileId, (t.tile u).sp = (s.tile u).sp) ∧
      (∀ off, a.locs = [(.sp s.focus.tile off, n)] →
        ∃ t, exec .accessPerform s = .next t ∧ t.here.access? s.focus.id = none ∧ s.sameFiles t [] [] ∧ s.sameArrays t ∧ t.mem = s.mem ∧
          (∀ x, Memory.get t.here.sp x = if h : off ≤ x ∧ x - off < bs.length then bs[x - off] else Memory.get s.here.sp x) ∧
          ∀ u : TileId, u ≠ s.focus.tile → (t.tile u).sp = (s.tile u).sp)) ∧
    (a.kind ∈ [.cacheOp true, .cacheOp false] → a.tileDone = true → commitReady s.here a = true →
      ∃ t, exec .accessPerform s = .next t ∧ t.here.access? s.focus.id = none ∧ s.sameMemory t ∧ s.sameFiles t [] [] ∧
        t.here.l1 = (if a.kind = .cacheOp true then s.here.l1.filter fun x => !(plainLines a.locs).contains x.line else s.here.l1)) ∧
    (∀ f pa sc, a.kind = .rclm f → a.locs = [(.dev pa true sc, 8)] → a.tileDone = true → commitReady s.here a = true →
      ∃ t, exec .accessPerform s = .next t ∧ (t.vword pa).floor = max (s.vword pa).floor f ∧
        ∀ v, v ∈ (t.vword pa).versions ↔ v ∈ (s.vword pa).versions ∧ (f ≤ v.1 ∨ v.1 = (s.vword pa).newest.1)))

/-- R180, R182, R197, R223: a page walk that ends finds the places of a parked access, which then owes its next happening; a walk that fails
gives its task a late fault with the access to issue again, as does an uncorrectable error in the walk (that it is a late F_ECC with the
access's first address is the model's choice, assumption 134). A prefetch never faults: it ends, with the L1 of other tiles as it was. An
element of a `vamo` goes to its node; one whose translation fails is a late fault that keeps the `vamo` at that element. R182, R206: a late
fault stops its task at the next word: the slot is FAULTED, the record names the faulting word, the task resumes at its present pc. -/
def Obligations.WalkedPagesAndLateFaults : Prop :=
  (∀ (s : State) (a : Access), s.here.access? s.focus.id = some a → a.parked = true → a.iss.tile = s.focus.tile →
    s.focus.unit ≠ 1 →
    (∀ l2, a.kind = .pref l2 → s.tryLocate a.iss a.kind a.pieces true ≠ .ok none →
      ∃ t, exec .pageWalkDone s = .next t ∧ t.here.access? s.focus.id = none ∧ (∀ k, (t.slot a.iss.tile k).late = (s.slot a.iss.tile k).late) ∧
        t.engineFaults = s.engineFaults ∧ (∀ u : TileId, u ≠ s.focus.tile → (t.tile u).l1 = (s.tile u).l1) ∧ s.sameMemory t ∧ s.sameFiles t [] []) ∧
    (a.kind.isVamo = true →
      (∀ locs, s.eccError = false → s.tryLocate a.iss a.kind a.pieces true = .ok (some locs) →
        ∃ t b, exec .pageWalkDone s = .next t ∧ t.here.access? s.focus.id = some b ∧ b = { a with parked := false, pooled := false, pieces := [] } ∧
          .happen .atomicAtNode s.focus ∈ t.pending ∧ s.sameBytes t ∧ s.sameFiles t [] []) ∧
      (∀ c va, s.tryLocate a.iss a.kind a.pieces true = .error (c, va) → s.alive a.iss = true →
        ∃ t l, exec .pageWalkDone s = .next t ∧ (t.slot a.iss.tile a.iss.slot).late = (s.slot a.iss.tile a.iss.slot).late ++ [l] ∧
          l.code = c ∧ l.addr = BitVec.ofNat 64 va ∧ l.pc = a.iss.pc ∧ l.olog = a.entry ∧ l.access.isSome = true ∧
          t.here.access? s.focus.id = none ∧ s.sameBytes t ∧ s.sameFiles t [] [])) ∧
    (a.kind.isVamo = false → (∀ l2, a.kind ≠ .pref l2) →
    (s.eccError = true → s.alive a.iss = true → ∃ t, exec .pageWalkDone s = .next t ∧ s.failsLate t a .ecc) ∧
    (∀ locs, s.eccError = false → s.tryLocate a.iss a.kind a.pieces true = .ok (some locs) →
      ∃ t b, exec .pageWalkDone s = .next t ∧ t.here.access? s.focus.id = some b ∧ b.parked = false ∧ b.locs = locs ∧ b.kind = a.kind ∧
        b.pieces = a.pieces ∧ b.iss = a.iss ∧ .happen a.kind.owes s.focus ∈ t.pending ∧ s.sameBytes t ∧ s.sameFiles t [] []) ∧
    (∀ c va, s.eccError = false → s.tryLocate a.iss a.kind a.pieces true = .error (c, va) → s.alive a.iss = true →
      ∃ t l, exec .pageWalkDone s = .next t ∧ (t.slot a.iss.tile a.iss.slot).late = (s.slot a.iss.tile a.iss.slot).late ++ [l] ∧
        l.code = c ∧ l.addr = BitVec.ofNat 64 va ∧ l.pc = a.iss.pc ∧ l.olog = a.entry ∧ l.access = some a ∧
        t.here.access? s.focus.id = none ∧ s.sameBytes t ∧ s.sameFiles t [] []))) ∧
  (∀ (s : State) (l : Late) (rest : List Late),
    let q := s.slot s.focus.tile s.focus.slot
    q.late = l :: rest → q.status ∈ [.running, .ready, .blocked] → q.wait ≠ .scheduler →
    ∃ (t : State) (fi : FaultInfo), exec .lateFault s = .next t ∧ t.cur.status = .faulted ∧ t.cur.late = rest ∧ t.cur.fault = some fi ∧
      fi.late = true ∧ fi.code = l.code ∧ fi.pc = l.pc ∧ fi.rpc = (if q.cls.isOpen then q.cls.hdr else q.pc) ∧ fi.access = l.access ∧
      t.cur.x = q.x ∧ t.cur.p = q.p ∧ t.cur.pc = q.pc ∧ t.cur.cls = q.cls ∧ s.sameBytes t ∧ s.sameArrays t)

/-- R197, R180: `pref` and `pref.l2` change no memory and never fault; where its page is known `pref` brings its line into the tile's L1 as
memory holds it, if the page is plain device memory and cacheable (R175; that it does so at once is the model's choice, assumption 133); a
failed translation drops either, and a miss of the micro-TLB is an access that waits for its translation. The management core's `pref` does
nothing (the model's choice, assumption 12). `cfl` and `cinv` issue one access over the 64-byte line of their address. -/
def Obligations.CacheWords : Prop :=
  ∀ (s : State) (a : XReg) (o : BitVec 10) (g : PReg),
    let va := (BitVec.ofInt 64 ((s.getX a).toInt + o.toInt)).toNat
    let ps : List Piece := [{ va := va / 64 * 64, len := 64 }]
    (∀ i l2, (i, l2) ∈ ([(.pref a o g, false), (.prefL2 a o g, true)] : List (Instr × Bool)) → s.wordFree g [a] [] →
      let pf : List Piece := [{ va, len := 1 }]
      (s.sysMode = true → exec i s = .next (s.advance 4)) ∧
      (s.sysMode = false → s.here.freeLog.isSome = true →
        (∀ e, s.tryLocate s.issue (.pref l2) pf false = .error e → exec i s = .next (s.advance 4)) ∧
        (∀ locs, s.tryLocate s.issue (.pref l2) pf false = .ok (some locs) →
          ∃ t, exec i s = .next (t.advance 4) ∧ t.cur = s.cur ∧ s.sameMemory t ∧ s.sameFiles t [] [] ∧ s.sameArrays t ∧ s.sameStatus t ∧
            (∀ u : TileId, u ≠ s.focus.tile → (t.tile u).l1 = (s.tile u).l1) ∧ (l2 = true → t = s) ∧
            (∀ pa sc e l, l2 = false → locs = [(.dev pa false sc, 1)] → (∀ x ∈ s.here.l1, x.line ≠ pa / 64) →
              s.leafOf s.ctxNum s.focus.tile va = some (e, l) →
              (e.getLsbD 11 = true → t.here.l1 = s.here.l1) ∧
              (e.getLsbD 11 = false → ∀ i < 64, t.here.l1Byte (pa / 64 * 64 + i) = some (Memory.get s.mem (pa / 64 * 64 + i))))) ∧
        (s.tryLocate s.issue (.pref l2) pf false = .ok none → (s.needsWalk s.issue pf = true → s.poolFull s.focus.tile = false) →
          ∃ t, exec i s = .next t ∧ s.issues t (.pref l2) pf none ∧ t.cur.pc = s.cur.pc + 4 ∧ s.sameBytes t ∧ s.sameFiles t [] [] ∧
            s.sameArrays t ∧ s.sameStatus t))) ∧
    (s.memFree g [a] [] → va < 2 ^ 52 → ∀ i inval locs, (i, inval) ∈ ([(.cfl a o g, false), (.cinv a o g, true)] : List (Instr × Bool)) →
      s.accepts (.cacheOp inval) ps locs →
      ∃ t, exec i s = .next t ∧ s.issues t (.cacheOp inval) ps locs ∧ t.cur.pc = s.cur.pc + 4 ∧
        s.sameBytes t ∧ s.sameFiles t [] [] ∧ s.sameArrays t ∧ s.sameStatus t)

/-- R204 to R206: a fence whose accesses have performed at its scope completes at once, one at elem or lane scope always; otherwise the slot
blocks and completes when they have; a fence that a late fault stopped shows that in `stat`. Which accesses each kind covers: loads for
`acq` and `xfnc.eo`, loads and stores for `rel`, `sc` and `xfnc.oe`; `ar` waits for the loads and keeps its order of stores by the store
barrier (a choice of the model, assumption 10). A fence that orders later loads, at a scope wider than the tile or behind engines, leaves no
line in L1 (R175 keeps L1 apart from other tiles' stores; that a line leaves then is the model's way to keep R204's f cells, assumption
133). R204, R206: a BLOCKED fence completes once the accesses it covers have performed and no late fault waits before it: the slot is READY
at the next word. -/
def Obligations.Fences : Prop :=
  (∀ (s : State) (scope : BitVec 4) (g : PReg) (i : Instr) (kind : Nat), (i, kind) ∈
      ([(.fncAcq scope g, 0), (.fncRel scope g, 1), (.fncAr scope g, 2), (.fncSc scope g, 3), (.xfncOe scope g, 4), (.xfncEo scope g, 5)] :
        List (Instr × Nat)) →
    s.memFree g [] [] →
    let mine := s.here.accesses.filter fun b => sameTask b.iss s.issue && decide (b.id < s.here.nextAcc) && b.kind.ordinary
    let wide := decide (2 < scope.toNat) || kind == 4
    let noLoads := ∀ b ∈ mine, b.kind.isLoad = false
    let noStores := ∀ b ∈ mine, b.kind.isStore = true → wide = false ∧ b.tileDone = true
    let covered := noLoads ∧ (kind ∈ [1, 3, 4] → noStores) ∧ (kind = 2 → ∀ b ∈ mine, b.parked = false)
    (scope.toNat ≤ 1 ∨ covered →
      ∃ t, exec i s = .next t ∧ t.cur.pc = s.cur.pc + 4 ∧ t.cur.fenced = false ∧
        t.cur.stat = (if s.cur.fenced then s.cur.stat ||| 2 ^ 18 else s.cur.stat) ∧ s.sameMemory t ∧ s.sameFiles t [] [] ∧ s.sameArrays t ∧
        t.here.l1 = (if 2 ≤ scope.toNat ∧ (kind = 5 ∨ (wide = true ∧ kind ∈ [0, 2, 3])) then [] else s.here.l1)) ∧
    (2 ≤ scope.toNat → ¬ covered →
      exec i s = .next (s.blockSlot (.fence kind wide s.here.nextAcc)))) ∧
  (∀ (s : State) (kind : Nat) (wide : Bool) (upto : Nat),
    let q := s.slot s.focus.tile s.focus.slot
    q.status = .blocked → q.wait = .fence kind wide upto →
    (q.late = [] → fenceDone s.here (s.issueOf s.focus.tile s.focus.slot) kind wide upto = true →
      ∃ t, exec .fenceComplete s = .next t ∧ t.cur.status = .ready ∧ t.cur.wait = .none ∧ t.cur.pc = q.pc + 4 ∧
        t.cur.stat = (if q.fenced then q.stat ||| 2 ^ 18 else q.stat) ∧ s.sameMemory t ∧ s.sameFiles t [] [] ∧ s.sameArrays t ∧
        t.here.l1 = (if kind = 5 ∨ (wide = true ∧ kind ∈ [0, 2, 3]) then [] else s.here.l1)) ∧
    ((q.late ≠ [] ∨ fenceDone s.here (s.issueOf s.focus.tile s.focus.slot) kind wide upto = false) → exec .fenceComplete s = .next s))

/-- R187: `ldv` reads a held version at once, the newest one under `ge`; it traps where the version can no longer come, and blocks otherwise, to
be completed by LDV_COMPLETE; an uncorrectable error traps F_ECC (R176). R191: an `ldv` is an acquire at its page's scope, so that at one
wider than the tile no line stays in L1 (assumption 133). (The error and its address are the model's choice, assumption 134.) R187, R68: the
awaited version appears: LDV_COMPLETE writes rd and the slot is READY at the next word; where it can no longer come the task traps; while it
is open nothing happens. -/
def Obligations.VersionedLoads : Prop :=
  (∀ (s : State) (d a b : XReg) (g : PReg) (pa : Nat) (ver : Bool) (sc : Nat), s.memFree g [d, a, b] [] →
    let va := (s.getX a).toNat
    let v := (s.getX b).toNat % 2 ^ 32
    let w := s.vword pa
    let newest := w.newest.1
    va % 8 = 0 → s.mayWalk va 8 →
    s.locate s.ctxNum s.focus.tile va { read := true, versioned := true } = .ok (.dev pa ver sc) → ldvFree s.here s.issue pa = true →
    let trap := fun c : FaultCode => (Host.Outcome.next (s.takeTrap c (BitVec.ofNat 64 va) 0 4 false) : Out)
    let u := s.walked va 8
    let s' := if 2 < sc then u.acquireL1 s.focus.tile else u
    (s.eccError = true → exec (.ldvEq d a b g) s = trap .ecc ∧ exec (.ldvGe d a b g) s = trap .ecc) ∧
    (s.eccError = false →
    (∀ x, assocGet w.versions v = some x → exec (.ldvEq d a b g) s = .next ((s'.setX d x).advance 4)) ∧
    (assocGet w.versions v = none → (v ∈ w.never ∨ (w.floor ≤ v ∧ v ≤ newest)) → exec (.ldvEq d a b g) s = trap .versionNever) ∧
    (assocGet w.versions v = none → v ∉ w.never → v < w.floor → v ≤ newest → exec (.ldvEq d a b g) s = trap .versionReclaimed) ∧
    (assocGet w.versions v = none → v ∉ w.never → newest < v →
      exec (.ldvEq d a b g) s = .next (s.blockSlot (.version va pa v false d))) ∧
    (v ≤ newest → exec (.ldvGe d a b g) s = .next ((s'.setX d w.newest.2).advance 4)) ∧
    (newest < v → (∃ u ∈ w.never, v ≤ u) → s.reservedFrom pa v = false → exec (.ldvGe d a b g) s = trap .versionNever) ∧
    (newest < v → (∀ u ∈ w.never, u < v) → exec (.ldvGe d a b g) s = .next (s.blockSlot (.version va pa v true d))))) ∧
  (∀ (s : State) (va pa v : Nat) (ge : Bool) (rd : XReg),
    let q := s.slot s.focus.tile s.focus.slot
    let now := s.ldvNow (s.issueOf s.focus.tile s.focus.slot) pa v ge
    q.status = .blocked → q.wait = .version va pa v ge rd →
    (s.eccError = true → ∃ t, exec .ldvComplete s = .next t ∧ t.cur.status = .faulted ∧ t.cur.pc = q.pc ∧ t.cur.x = q.x ∧ s.sameBytes t) ∧
    (∀ x, s.eccError = false → now = some (.ok x) →
      ∃ t, exec .ldvComplete s = .next t ∧ t.cur.status = .ready ∧ t.cur.wait = .none ∧ t.cur.pc = q.pc + 4 ∧ t.cur.p = q.p ∧
        (∀ r, readX t.cur.x r = if r = rd ∧ rd ≠ 0 then x else readX q.x r) ∧ s.sameMemory t ∧ s.sameArrays t ∧ s.sameStatus t ∧
        t.here.l1 = (if 2 < s.scopeOf s.focus.tile va then [] else s.here.l1)) ∧
    (∀ c, s.eccError = false → now = some (.error c) →
      ∃ t, exec .ldvComplete s = .next t ∧ t.cur.status = .faulted ∧ t.cur.pc = q.pc ∧ t.cur.x = q.x ∧ s.sameBytes t) ∧
    (s.eccError = false → now = none → exec .ldvComplete s = .next s))

/-- R188 to R190: `stv`, `stv.rsv` and `rclm` are posted: each issues one access; `rclm` over no bytes does nothing; a misaligned one traps.
(The address of a misaligned one is the model's choice, assumption 17.) R188, R190, R191: at its home port a released `stv` adds its version
above the newest, which clears the never marks and reservations at or below it; a version at or below the newest is a late fault; with four
versions held it waits under its limit, and VERSION_TIMEOUT faults it late. A `stv.rsv` enters its reservation. -/
def Obligations.VersionedStores : Prop :=
  (∀ (s : State) (d a b : XReg) (g : PReg), s.memFree g [d, a, b] [] →
    let va := (s.getX a).toNat
    let v := (s.getX b).toNat % 2 ^ 32
    let len := (s.getX d).toNat
    let posted := fun (i : Instr) (k : AccKind) (ps : List Piece) => ∀ locs, s.accepts k ps locs →
      ∃ t, exec i s = .next t ∧ s.issues t k ps locs ∧ t.cur.pc = s.cur.pc + 4 ∧
        s.sameBytes t ∧ s.sameFiles t [] [] ∧ s.sameArrays t ∧ s.sameStatus t
    (va % 8 = 0 → posted (.stv d a b g) (.stv v (s.getX d)) [{ va, len := 8 }]) ∧
    (va % 8 = 0 → s.rsvFull s.ctxNum = false → posted (.stvRsv a b g) (.stvRsv v) [{ va, len := 8 }]) ∧
    (va % 8 = 0 → s.rsvFull s.ctxNum = true → exec (.stvRsv a b g) s = .next (s.blockSlot .tableFull)) ∧
    (va % 8 = 0 → len % 8 = 0 → len ≠ 0 → posted (.rclm d a b g) (.rclm v) [{ va, len }]) ∧
    (va % 8 = 0 → len = 0 → s.here.freeLog.isSome → exec (.rclm d a b g) s = .next (s.advance 4)) ∧
    (va % 8 ≠ 0 → ∀ i ∈ ([.stv d a b g, .stvRsv a b g, .rclm d a b g] : List Instr),
      exec i s = .next (s.takeTrap .misaligned (BitVec.ofNat 64 va) 0 4 false)) ∧
    (va % 8 = 0 → len % 8 ≠ 0 → exec (.rclm d a b g) s = .next (s.takeTrap .misaligned (BitVec.ofNat 64 va) 0 4 false))) ∧
  (∀ (s : State) (a : Access) (pa sc : Nat) (ls : List (Loc × Nat)) (va : Nat),
    s.here.access? s.focus.id = some a → a.iss.tile = s.focus.tile → a.locs = (.dev pa true sc, 8) :: ls →
    (a.pieces.head?.map (·.va)) = some va →
    let w := s.vword pa
    let fails := fun (i : Instr) (c : FaultCode) => s.alive a.iss = true →
      ∃ t l, exec i s = .next t ∧ (t.slot a.iss.tile a.iss.slot).late = (s.slot a.iss.tile a.iss.slot).late ++ [l] ∧ l.code = c ∧
        l.addr = BitVec.ofNat 64 va ∧ t.vwords = s.vwords ∧ t.reservations = s.reservations ∧ t.here.access? s.focus.id = none
    (a.parked = false → heldBack s.here a = false → releasedAt s.here a.iss a.id (decide (2 < sc)) = true →
      barKept s.here a.iss a.bar = true →
      (∀ v d, a.kind = .stv v d →
        (w.newest.1 < v → w.versions.length < 4 →
          ∃ t, exec .stvHomeWrite s = .next t ∧ t.here.access? s.focus.id = none ∧
            (t.vword pa).versions = w.versions ++ [(v, d)] ∧ (t.vword pa).newest = (v, d) ∧ (t.vword pa).floor = w.floor ∧
            (∀ u, u ∈ (t.vword pa).never ↔ u ∈ w.never ∧ v < u) ∧
            (∀ r, r ∈ t.reservations ↔ r ∈ s.reservations ∧ ¬ (r.pa = pa ∧ r.v ≤ v)) ∧ (∀ x, x ≠ pa → t.vword x = s.vword x) ∧
            t.mem = s.mem ∧ s.sameFiles t [] [] ∧ s.sameArrays t) ∧
        (v ≤ w.newest.1 → fails .stvHomeWrite .versionReclaimed) ∧
        (w.newest.1 < v → 4 ≤ w.versions.length → a.deadline = none →
          ∃ t b, exec .stvHomeWrite s = .next t ∧ t.here.access? s.focus.id = some b ∧ b.kind = a.kind ∧ b.deadline.isSome ∧
            .happen .versionTimeout s.focus ∈ t.pending ∧ s.sameBytes t)) ∧
      (∀ v, a.kind = .stvRsv v →
        (w.newest.1 < v → ∃ t, exec .stvHomeWrite s = .next t ∧ t.here.access? s.focus.id = none ∧
            t.reservations = s.reservations ++ [{ ctx := a.iss.ctx, va := a.va, pa, v }] ∧ s.sameBytes t ∧ s.sameFiles t [] []) ∧
        (v ≤ w.newest.1 → fails .stvHomeWrite .versionReclaimed))) ∧
    (∀ dl, a.deadline = some dl → dl ≤ s.clk → 4 ≤ w.versions.length → fails .versionTimeout .versionFull))

/-- R217, R220: an `amo` of 1, 2, 4 or 8 bytes issues one access with its operation, order, operand and comparand, and leaves rd pending; a
misaligned one traps. (With the access's address, the model's choice, assumption 17.) -/
def Obligations.AtomicsAreIssued : Prop :=
  ∀ (s : State) (d a b : XReg) (sz o : BitVec 2) (g : PReg) (i : Instr) (op : BitVec 4), (i, op) ∈
      ([(.amoAdd d a b sz o g, 0), (.amoAnd d a b sz o g, 1), (.amoOr d a b sz o g, 2), (.amoXor d a b sz o g, 3), (.amoMin d a b sz o g, 4),
        (.amoMax d a b sz o g, 5), (.amoMinn d a b sz o g, 6), (.amoMaxn d a b sz o g, 7), (.amoSwap d a b sz o g, 8),
        (.amoCas d a b sz o g, 9), (.amoTas d a b sz o g, 10), (.amoFadd d a b sz o g, 11)] : List (Instr × BitVec 4)) →
    s.memFree g [d, a, b] [] →
    let va := (s.getX a).toNat
    let size := 2 ^ sz.toNat
    let k : AccKind := .amo op size o d (s.getX b) (s.getX d)
    let ps : List Piece := [{ va, len := size }]
    (va % size = 0 → ∀ locs, s.accepts k ps locs →
      ∃ t, exec i s = .next t ∧ s.issues t k ps locs ∧ t.cur.pc = s.cur.pc + 4 ∧ (d ≠ 0 → d.toNat ∈ t.cur.pendX) ∧
        s.sameBytes t ∧ s.sameFiles t [] [] ∧ s.sameArrays t ∧ s.sameStatus t) ∧
    (va % size ≠ 0 → exec i s = .next (s.takeTrap .misaligned (BitVec.ofNat 64 va) 0 4 false))

/-- R214, R218: at its node an integer atomic of n bytes in plain memory replaces exactly its bytes in one step, as the table of operations
says, and rd gets the old value (for `tas`, the old bit). R216: its line is then in no L1 of the tile. R176, R220: on an uncorrectable error
memory is not written and the task owes a late fault. (That an acquiring `amo` empties the tile's L1, and when the error strikes, are the
model's choices, assumptions 133 and 134.) R219: `amo.fadd` at its node: a fallow operand leaves the word and counts in FALLOW_IN, a fallow
word takes the operand, otherwise the sum rounded once under rne; rd gets the old value. -/
def Obligations.AtomicsExecuteAtTheirNode : Prop :=
  (∀ (s : State) (a : Access) (op : Nat) (n : Nat) (ord : BitVec 2) (rd : XReg) (bv cv : Word) (pa sc : Nat),
    s.here.access? s.focus.id = some a → a.iss.tile = s.focus.tile → a.kind = .amo (BitVec.ofNat 4 op) n ord rd bv cv →
    a.locs = [(.dev pa false sc, n)] → n ∈ [1, 2, 4, 8] → Memory.wf s.mem = true → amoReady s.here a ord = true → s.alive a.iss = true →
    (s.eccError = true → ∃ t, exec .atomicAtNode s = .next t ∧ s.failsLate t a .ecc) ∧
    (s.eccError = false →
    let bits := 8 * n
    let old := leNat (Memory.read s.mem pa n)
    let b := bv.toNat % 2 ^ bits
    let sg := fun x : Nat => (BitVec.ofNat bits x).toInt
    ∀ new out, (op, new, out) ∈
        ([(0, (old + b) % 2 ^ bits, old), (1, old &&& b, old), (2, old ||| b, old), (3, old ^^^ b, old),
          (4, if sg b < sg old then b else old, old), (5, if sg old < sg b then b else old, old),
          (6, if b < old then b else old, old), (7, if old < b then b else old, old), (8, b, old),
          (9, if old = cv.toNat % 2 ^ bits then b else old, old),
          (10, old ||| 2 ^ (b % bits), old / 2 ^ (b % bits) % 2)] : List (Nat × Nat × Nat)) →
    ∃ t, exec .atomicAtNode s = .next t ∧ leNat (Memory.read t.mem pa n) = new ∧
      (∀ x, (x < pa ∨ pa + n ≤ x) → Memory.get t.mem x = Memory.get s.mem x) ∧
      (∀ r, readX (t.slot a.iss.tile a.iss.slot).x r =
        if r = rd ∧ rd ≠ 0 then BitVec.ofNat 64 out else readX (s.slot a.iss.tile a.iss.slot).x r) ∧
      t.here.l1 = (if ord.getLsbD 0 then [] else s.here.l1.filter fun x => !(linesOf pa n).contains x.line) ∧
      t.here.access? s.focus.id = none ∧ s.sameArrays t ∧ s.sameStatus t ∧ ∀ u : TileId, (t.tile u).sp = (s.tile u).sp)) ∧
  (∀ (s : State) (a : Access) (n : Nat) (ord : BitVec 2) (rd : XReg) (bv cv : Word) (pa sc : Nat) (fmt : BitVec 5),
    s.here.access? s.focus.id = some a → a.iss.tile = s.focus.tile → a.kind = .amo 11 n ord rd bv cv →
    a.locs = [(.dev pa false sc, n)] → (n, fmt) ∈ ([(4, 1), (2, 2)] : List (Nat × BitVec 5)) → Memory.wf s.mem = true →
    amoReady s.here a ord = true → s.alive a.iss = true → a.iss.follow = false → s.eccError = false →
    let old := leNat (Memory.read s.mem pa n)
    let b := bv.toNat % 2 ^ (8 * n)
    let sum := roundVal fmt 0 false 0 false (exactAdd 0 (decodeVal fmt old) (decodeVal fmt b))
    ∃ t, exec .atomicAtNode s = .next t ∧
      leNat (Memory.read t.mem pa n) =
        (if presentBits fmt b = false then old else if presentBits fmt old = false then b else sum.code) % 2 ^ (8 * n) ∧
      (t.slot a.iss.tile a.iss.slot).cnt[3] =
        (if presentBits fmt b = false then satAdd32 ((s.slot a.iss.tile a.iss.slot).cnt[3]) 1 else
          if presentBits fmt old = false then (s.slot a.iss.tile a.iss.slot).cnt[3]
          else satAdd32 ((s.slot a.iss.tile a.iss.slot).cnt[3]) (sum.counts.count 3)) ∧
      (∀ r, readX (t.slot a.iss.tile a.iss.slot).x r =
        if r = rd ∧ rd ≠ 0 then BitVec.ofNat 64 old else readX (s.slot a.iss.tile a.iss.slot).x r) ∧
      (∀ x, (x < pa ∨ pa + n ≤ x) → Memory.get t.mem x = Memory.get s.mem x))

/-- R221 to R223: `vamo` issues one access holding its present elements in order. At the node the next element replaces one word of plain memory
and is counted; one that misses the micro-TLB is parked (R180); with none left the access ends, and the reply VC gets one word, the number
of elements performed, at once where it has room. An uncorrectable error ends it and is an engine fault. -/
def Obligations.VectorAtomics : Prop :=
  ∀ (s : State) (c : Cmd) (fmt : BitVec 5),
    (s.commandFree (.vamo c) c [] → chkVamo c s.issue s = .ok () → checkTags c (s.block s.issue c c.s2) = .ok fmt →
      ∃ t a, exec (.vamo c) s = .next t ∧ t.here.accesses = s.here.accesses ++ [a] ∧ a.iss = s.issue ∧
        a.kind = .vamo (vamoOp c) fmt (vamoElems c s.issue s fmt).1 0 (if c.s5 = 0 then .none else .vc s.focus.tile (slotN c.s5)) ∧
        .happen .atomicAtNode { tile := s.focus.tile, id := a.id } ∈ t.pending ∧ t.cur.pc = s.cur.pc + 16 ∧
        s.sameBytes t ∧ s.sameFiles t [] [] ∧ s.sameArrays t) ∧
    (∀ a op done reply, s.here.access? s.focus.id = some a → a.iss.tile = s.focus.tile → a.parked = false → Memory.wf s.mem = true →
      (∀ b ∈ s.here.accesses, sameTask b.iss a.iss = true → b.id < a.id → b.kind.isVamo = false) →
      (∀ k va v rest pa sc, a.kind = .vamo op fmt ((k, va, v) :: rest) done reply →
        s.tryLocate a.iss a.kind [{ va, len := 4 }] false = .ok (some [(.dev pa false sc, 4)]) →
        (s.eccError = true → ∃ t e, exec .atomicAtNode s = .next t ∧ t.engineFaults = s.engineFaults ++ [e] ∧ e.code = .ecc ∧ e.toTask = false ∧
          t.here.access? s.focus.id = none ∧ s.sameBytes t) ∧
        (s.eccError = false →
        let old := leNat (Memory.read s.mem pa 4)
        ∃ t b, exec .atomicAtNode s = .next t ∧ leNat (Memory.read t.mem pa 4) = (vamoStep op.toNat fmt old v.toNat).1 % 2 ^ 32 ∧
          (∀ x, (x < pa ∨ pa + 4 ≤ x) → Memory.get t.mem x = Memory.get s.mem x) ∧
          t.here.access? s.focus.id = some b ∧ b.kind = .vamo op fmt rest (done + 1) reply ∧
          .happen .atomicAtNode s.focus ∈ t.pending ∧ s.sameFiles t [] [])) ∧
      (∀ k va v rest, a.kind = .vamo op fmt ((k, va, v) :: rest) done reply → s.tryLocate a.iss a.kind [{ va, len := 4 }] false = .ok none →
        (s.needsWalk a.iss [{ va, len := 4 }] = true → s.poolFull s.focus.tile = false) →
        ∃ t b, exec .atomicAtNode s = .next t ∧ t.here.access? s.focus.id = some b ∧ b.kind = a.kind ∧ b.parked = true ∧
          b.pieces = [{ va, len := 4 }] ∧ .happen .pageWalkDone s.focus ∈ t.pending ∧ s.sameBytes t ∧ s.sameFiles t [] []) ∧
      (∀ vc, a.kind = .vamo op fmt [] done (.vc s.focus.tile vc) →
        ∃ t, exec .atomicAtNode s = .next t ∧ t.here.access? s.focus.id = none ∧ s.sameBytes t ∧ s.sameFiles t [] [] ∧
          t = ((s.unpost .atomicAtNode s.focus).modTile s.focus.tile fun T => T.dropAccess s.focus.id).sendWord s.focus.tile vc (BitVec.ofNat 64 done) ∧
          (s.vcGroup s.focus.tile vc = [] → s.vcChan s.focus.tile vc = none → (s.vchan s.focus.tile vc).eat = none →
            s.vcFree s.focus.tile vc = true → (t.vchan s.focus.tile vc).q = (s.vchan s.focus.tile vc).q ++
              [{ kind := 0, data := BitVec.ofNat 512 (done % 2 ^ 64) }])))

/-- R198, R199, R333: the queue words. On a descriptor that opens and is ready, `hqw` appends at the tail and `hqr` takes from the head; a full
or empty queue blocks the slot, or, under `.try`, only writes the predicate false. A waiting notify word goes to its VC once there is room. -/
def Obligations.QueueWords : Prop :=
  ∀ (s : State) (d a : XReg) (p g : PReg) (q : Hq),
    let va := (s.getX a).toNat
    let u := s.walked va 32
    let v := BitVec.ofNat 64 (leNat (u.readLocs q.entry))
    let put := fun (at' : Nat) (bs : List Byte) (f : Nat → Byte) (x : Nat) => if at' ≤ x ∧ x < at' + bs.length then bs.getD (x - at') 0 else f x
    (s.memFree g [d, a] [p] → s.queueFree va true q →
      (q.desc.held ≠ q.desc.cap →
        exec (.hqw d a g) s = .next (((u.hqPut q va (s.getX d)).afterHq q false).advance 4) ∧
        exec (.hqwTry d a p g) s = .next ((((u.hqPut q va (s.getX d)).afterHq q false).setP p true).advance 4) ∧
        (∀ pa sc ea sc', q.locs = [(.dev pa false sc, 32)] → q.entry = [(.dev ea false sc', 8)] → Memory.wf s.mem = true →
          ∀ i ∈ ([.hqw d a g, .hqwTry d a p g] : List Instr), ∃ t, exec i s = .next t ∧
            (∀ x, Memory.get t.mem x =
              put (pa + 12) (leBytes 4 ((q.desc.tail + 1) % 2 ^ 32)) (put ea (leBytes 8 (s.getX d).toNat) (Memory.get s.mem)) x) ∧
            t.notifies = (if q.desc.nen = true ∧ q.desc.held = 0 then
              s.notifies ++ [{ node := nodeOf q.locs, tile := q.desc.ntile, vc := q.desc.nvc, word := BitVec.ofNat 64 va }] else s.notifies) ∧
            t.cur.pc = s.cur.pc + 4 ∧ t.vwords = s.vwords ∧ s.sameFiles t [] (if i = .hqw d a g then [] else [p]) ∧ s.sameArrays t ∧ s.sameStatus t ∧
            ∀ w : TileId, (t.tile w).sp = (s.tile w).sp ∧ (t.tile w).istore = (s.tile w).istore)) ∧
      (q.desc.held = q.desc.cap →
        exec (.hqw d a g) s = .next (s.blockSlot (.hwQueue va false)) ∧ exec (.hqwTry d a p g) s = .next ((u.setP p false).advance 4))) ∧
    (s.memFree g [d, a] [p] → s.queueFree va false q →
      (q.desc.held ≠ 0 →
        exec (.hqr d a g) s = .next ((((u.hqGet q).2.afterHq q true).setX d v).advance 4) ∧
        exec (.hqrTry d a p g) s = .next (((((u.hqGet q).2.afterHq q true).setX d v).setP p true).advance 4) ∧
        (∀ pa sc ea sc', q.locs = [(.dev pa false sc, 32)] → q.entry = [(.dev ea false sc', 8)] → Memory.wf s.mem = true →
          ∀ i ∈ ([.hqr d a g, .hqrTry d a p g] : List Instr), ∃ t, exec i s = .next t ∧
            (∀ x, Memory.get t.mem x = put (pa + 8) (leBytes 4 ((q.desc.head + 1) % 2 ^ 32)) (Memory.get s.mem) x) ∧
            t.getX d = (if d = 0 then 0 else BitVec.ofNat 64 (leNat (Memory.read s.mem ea 8))) ∧ t.notifies = s.notifies ∧
            t.cur.pc = s.cur.pc + 4 ∧ t.vwords = s.vwords ∧ s.sameFiles t [d] (if i = .hqr d a g then [] else [p]) ∧ s.sameArrays t ∧ s.sameStatus t ∧
            ∀ w : TileId, (t.tile w).sp = (s.tile w).sp ∧ (t.tile w).istore = (s.tile w).istore)) ∧
      (q.desc.held = 0 →
        exec (.hqr d a g) s = .next (s.blockSlot (.hwQueue va true)) ∧ exec (.hqrTry d a p g) s = .next ((u.setP p false).advance 4))) ∧
    (∀ n, s.notifies.find? (fun m => m.node == s.focus.unit) = some n → s.vcRoom n.tile n.vc = true →
      let u := { s.unpost .hqNotify s.focus with notifies := s.notifies.erase n }
      ∃ t, exec .hqNotify s = .next t ∧ t.notifies = s.notifies.erase n ∧ (∀ x y, t.vchan x y = (u.sendWord n.tile n.vc n.word).vchan x y) ∧
        (s.vcChan n.tile n.vc = none → (s.vchan n.tile n.vc).eat = none →
          t.vchan n.tile n.vc = { s.vchan n.tile n.vc with q := (s.vchan n.tile n.vc).q ++ [{ kind := 0, data := n.word.setWidth 512 }] }) ∧
        s.sameBytes t ∧ s.sameFiles t [] [] ∧ s.sameArrays t)

/-- R192 to R196: the block and tile loads and stores. A command that passes its entry's checks issues one access over its registers or rows;
`sbld` reads its block at once where every word is present, and blocks where one is not. An uncorrectable error met by `sbld` traps F_ECC
with the block's first address (the model's choice, assumption 134). -/
def Obligations.BlockMemoryCommands : Prop :=
  ∀ (s : State) (c : Cmd) (locs : Option (List (Loc × Nat))),
    let iss := s.issue
    let issued := fun (i : Instr) (chk : Except Stop Unit) (k : AccKind) (ps : List Piece) =>
      s.commandFree i c [] → chk = .ok () → s.accepts k ps locs →
      ∃ t, exec i s = .next t ∧ s.issues t k ps locs ∧ t.cur.pc = s.cur.pc + 16 ∧
        s.sameBytes t ∧ s.sameFiles t [] [] ∧ s.sameArrays t ∧ s.sameStatus t
    issued (.vld c) (chkVld c iss s) (.vload (blockRegs c (slotV c.s1)) c.tag) (loadPieces c iss c.tag) ∧
    issued (.tld c) (chkTld c iss s) (.mload (slotN c.s1).val c.tag) (mPieces c iss none) ∧
    issued (.tst c) (chkTst c iss s) .vstore (mPieces c iss (some (s.here.m[slotN c.s1]))) ∧
    issued (.sbclr c) (chkSbclr c iss s) .sbClear (sbclrPieces c iss) ∧
    (∀ fmt, storeTag c iss s = .ok fmt →
      issued (.vst c) (chkVst c iss s) .vstore (storePieces c iss s fmt) ∧
      ((sbSplit iss s.here.presentAhead (storePieces c iss s fmt)).2 = none →
        issued (.sbst c) (chkSbst c iss s) .sbStore (storePieces c iss s fmt)) ∧
      (∀ p, (sbSplit iss s.here.presentAhead (storePieces c iss s fmt)) = ([], some p) → s.commandFree (.sbst c) c [] →
        chkSbst c iss s = .ok () → exec (.sbst c) s = .next (s.takeTrap .sbRewrite (BitVec.ofNat 64 p.va) 0 16 false))) ∧
    (s.commandFree (.sbld c) c [] → chkSbld c iss s = .ok () →
      let offs := (blockAddrs c iss (regBytes c.tag)).filterMap (ownOffset iss)
      let words := offs.flatMap fun o => presenceWords o (regBytes c.tag)
      let places : List (Loc × Nat) := offs.map fun o => (.sp s.focus.tile o, regBytes c.tag)
      let a : Access := { id := s.here.nextAcc, iss, olog := none, kind := .vload [] c.tag, pieces := [], locs := places, parked := false,
                          wave := (s.noteWave iss s.here.nextAcc (waveInfo c iss)).1 }
      ((∀ w ∈ words, w ∈ s.here.present) → s.here.freeLog.isSome → loadReady s.here a = true → s.eccError = false →
        ∃ t, exec (.sbld c) s = .next t ∧ t.cur.pc = s.cur.pc + 16 ∧
          t.here.v = (s.here.setVs (blockRegs c (slotV c.s1))
            (regsOf c.tag (blockRegs c (slotV c.s1)).length (s.loadBytes s.focus.tile iss s.here.nextAcc places []))).v ∧
          t.here.present = s.here.present ∧ s.sameBytes t ∧ s.sameFiles t [] []) ∧
      ((∀ w ∈ words, w ∈ s.here.present) → s.here.freeLog.isSome → loadReady s.here a = true → s.eccError = true →
        exec (.sbld c) s = .next (s.takeTrap .ecc (BitVec.ofNat 64 (((blockAddrs c iss (regBytes c.tag)).head?).getD 0)) 0 16 false)) ∧
      (s.here.freeLog.isSome → loadReady s.here a = true → (words.filter fun w => !s.here.present.contains w) ≠ [] →
        exec (.sbld c) s = .next (s.blockSlot (.presence (words.filter fun w => !s.here.present.contains w)))))

/-- R70, R71, R90, R68: a task's life. A sequencer with no RUNNING slot selects its next READY one; an IDLE slot starts on the word at the head
of its VC, with the registers R51 gives, and with no line in its tile's L1, a start being an acquire (R335; assumption 133); `tend` makes
the slot IDLE once nothing of it is outstanding, and gives up issue before. -/
def Obligations.TasksStartAndEnd : Prop :=
  ∀ (s : State),
    let q := s.cur
    let t0 := s.focus.tile
    (∀ k, s.canIssue t0 = true → (∀ j, (s.slot t0 j).status ≠ .running) → s.here.nextReady = some k →
      ∃ t, exec .slotSelect s = .next t ∧ (t.slot t0 k).status = .running ∧ (t.slot t0 k).run = 0 ∧ (t.slot t0 k).pc = (s.slot t0 k).pc ∧
        (∀ u j, ¬ (u = t0 ∧ j = k) → t.slot u j = s.slot u j) ∧ s.sameBytes t ∧ s.sameFiles t [] [] ∧ s.sameArrays t) ∧
    (∀ f fs, q.status = .idle → (s.vchan t0 q.vc).q = f :: fs → f.kind = 0 → f.job = 0 → s.canIssue t0 = true →
      (s.streamVcs t0).contains q.vc = false → s.here.winBusy s.focus.slot q.bwin = false →
      ∃ t, exec .taskStart s = .next t ∧ t.cur.status = .ready ∧ t.cur.pc = q.entry ∧ t.cur.win = q.bwin ∧ t.cur.job = 0 ∧ t.cur.bed = q.target ∧
        (∀ r : XReg, readX t.cur.x r = if r = 1 then f.data.extractLsb' 0 64 else if r = 2 then BitVec.ofNat 64 q.vc.val else if r = 3 then q.card else 0) ∧
        (∀ p : PReg, readP t.cur.p p = decide (p = 0)) ∧ t.cur.stat = 0 ∧ t.cur.cls = {} ∧ t.cur.wavectr = 0 ∧ (∀ j : Fin 16, t.cur.cnt[j] = 0) ∧
        (t.vchan t0 q.vc).q = fs ∧ (∀ u j, ¬ (u = t0 ∧ j = s.focus.slot) → t.slot u j = s.slot u j) ∧ s.sameMemory t ∧ t.here.l1 = [] ∧ s.sameArrays t) ∧
    (s.sysMode = false → q.cls.isOpen = false → q.pc.toNat + 4 ≤ 0xFFFC →
      (s.unfinished = true → ∃ t, exec .tend s = .next t ∧ t.cur.status = .ready ∧ t.cur.pc = q.pc ∧ t.contexts = s.contexts ∧
        s.sameBytes t ∧ s.sameFiles t [] []) ∧
      (s.unfinished = false → q.unbind = false → (q.implicit = false ∨ (s.vchan t0 q.vc).q ≠ []) →
        ∃ t, exec .tend s = .next t ∧ t.cur.status = .idle ∧ t.cur.vc = q.vc ∧ t.cur.entry = q.entry ∧
          (∀ c j, s.tileCtx t0 = some c → c.job? q.job = some j → q.job ≠ 0 →
            (t.job? c.num q.job).map (·.tasks) = some (j.tasks - 1)) ∧
          ((s.vchan t0 q.vc).q ≠ [] → .happen .taskStart { tile := t0, slot := s.focus.slot } ∈ t.pending) ∧
          (∀ u j, ¬ (u = t0 ∧ j = s.focus.slot) → t.slot u j = s.slot u j) ∧ s.sameBytes t ∧ s.sameFiles t [] [] ∧ s.sameArrays t))

/-- R68, R56, R57: the happenings that let a BLOCKED slot go on. Its cause cleared, it is READY at the same word, its registers as they were; a
port with room lets it issue again; in an open clause a command that passes its checks is delivered into staging, and the last one closes
the clause; the first command of a released clause takes its effect. -/
def Obligations.BlockedSlotsGoOn : Prop :=
  ∀ (s : State),
    let q := s.cur
    (q.status = .blocked → (∀ g j d, q.wait ≠ .drain g j d) → (s.unpost .slotUnblock s.focus).cleared q.wait = true →
      ∃ t, exec .slotUnblock s = .next t ∧ t.cur.status = .ready ∧ t.cur.wait = .none ∧ t.cur.pc = q.pc ∧
        (∀ u j, ¬ (u = s.focus.tile ∧ j = s.focus.slot) → t.slot u j = s.slot u j) ∧ s.sameBytes t ∧ s.sameFiles t [] [] ∧ s.sameArrays t ∧
        s.sameStatus t) ∧
    (q.status = .blocked → q.wait = .fullPort →
      (match s.commandAt s.focus.tile s.focus.slot with | some (i, _) => s.portRoom i = true | none => s.memWaits = false) →
      ∃ t, exec .portAccept s = .next t ∧ t.cur.status = .ready ∧ t.cur.wait = .none ∧ t.cur.pc = q.pc ∧
        (∀ u j, ¬ (u = s.focus.tile ∧ j = s.focus.slot) → t.slot u j = s.slot u j) ∧ s.sameBytes t ∧ s.sameFiles t [] [] ∧ s.sameArrays t ∧
        s.sameStatus t) ∧
    (∀ i b, bodyOf i = some b → s.sysMode = false → q.cls.isOpen = true → clauseWaveOk i b.cmd true = true → q.pc.toNat + cmdLen i ≤ 0xFFFC →
      s.settled (b.extra ++ (cmdRegs i b.cmd).1) (b.cmd.ga :: b.cmd.gb :: (cmdRegs i b.cmd).2) → cmdGuard b.cmd s = true →
      b.chk s.issue s.foreseen = .ok () → s.here.staged (portOf i) < 15 →
      ∃ t, issueCommand i b.cmd b.extra b.chk b.eff s b.part = .next t ∧ t.cur.pc = q.pc + BitVec.ofNat 16 (cmdLen i) ∧
        t.here.held.map (fun h => (h.instr, h.iss)) = s.here.held.map (fun h => (h.instr, h.iss)) ++ [(i, s.issue)] ∧
        (t.cur.cls.isOpen = decide (q.cls.remaining ≠ 1)) ∧ s.sameBytes t ∧ s.sameFiles t [] [] ∧ s.sameArrays t) ∧
    (∀ h rest b u, s.here.held = h :: rest → h.released = true → bodyOf h.instr = some b →
      let r := s.unpost .clauseCommandEnqueue s.focus
      busyStop h.instr b.cmd s.focus.tile r = none → b.eff h.iss r = .ok u →
      ∃ t, exec .clauseCommandEnqueue s = .next t ∧ (t.tile s.focus.tile).held = (u.tile s.focus.tile).held.erase h ∧ u.sameBytes t ∧
        u.sameFiles t [] [] ∧ u.sameArrays t ∧ u.sameStatus t)

/-- R327 to R332: barriers and phases. `bar` adds the tile's arrival for the open generation; when every tile of the bed has arrived and what it
released has performed, the generation completes and each tile's VC gets its word; `phs` and `phs.to` advance the phase while no neighbour
is left behind by more than the lead; `lead` sets the lead. (That each tile's L1 is then emptied is the model's choice, assumption 133.) -/
def Obligations.BarriersAndPhases : Prop :=
  ∀ (s : State) (d a b : XReg) (v : BitVec 4) (id : BitVec 2) (n : BitVec 10) (m : BitVec 8) (g : PReg),
    let t0 := s.focus.tile
    let bed : BitVec 16 := (s.getX b).extractLsb' 0 16
    (∀ c l sp, s.memFree g [b] [] → s.tileCtx t0 = some c → c.saving = none → c.launch = some (l, sp) → bedOk (s.getX b) = true → inBed bed t0.val = true →
      bedInside bed l = true →
      let br := c.barrier bed id.toNat
      let have' := ((br.arrivals.find? (·.tile == t0)).map (·.count)).getD 0
      (have' ≤ br.gen → (br.outstanding = true ∨ s.barriersAt (dieOf ⟨bedOrigin bed % 1024, Nat.mod_lt _ (Nat.zero_lt_succ _)⟩) < 256) →
        ∃ t c', exec (.bar b v id g) s = .next t ∧ t.ctx? c.num = some c' ∧
          (∃ x ∈ (c'.barrier bed id.toNat).arrivals, x.tile = t0 ∧ x.count = have' + 1 ∧ x.vc.val = v.toNat ∧ x.upto = s.here.nextAcc) ∧
          (c'.barrier bed id.toNat).gen = br.gen ∧ .happen .barrierComplete { ctx := c.num, unit := bed.toNat, id := id.toNat } ∈ t.pending ∧
          t.cur.pc = s.cur.pc + 4 ∧ s.sameBytes t ∧ s.sameFiles t [] [] ∧ s.sameArrays t ∧ s.sameStatus t) ∧
      (br.gen < have' → exec (.bar b v id g) s = .next (s.blockSlot (.barrier bed id.toNat have')))) ∧
    (s.memFree g [b] [] → bedOk (s.getX b) = false → exec (.bar b v id g) s = .next (s.takeTrap .illegalField 0 0 4 false)) ∧
    (∀ c bw, s.ctx? s.focus.ctx = some c → bw = BitVec.ofNat 16 s.focus.unit → (c.barrier bw s.focus.id).outstanding = true → c.saving = none →
      let br := c.barrier bw s.focus.id
      let u := s.unpost .barrierComplete s.focus
      (∀ x ∈ bedTiles bw, ∃ y ∈ br.arrivals, y.tile = x ∧ br.gen < y.count ∧
        releasedAt (u.tile x) { u.issueOf x y.slot with epoch := y.epoch } y.upto (decide (2 < bedScope bw)) = true) →
      ∃ t, exec .barrierComplete s = .next t ∧
        (∀ x, t.vchan x = (br.arrivals.foldl (fun z y => (z.acquireL1 y.tile).sendWord y.tile y.vc (BitVec.ofNat 64 (s.focus.id * 2 ^ 46 + br.gen % 2 ^ 32)))
          (u.modCtx c.num fun k => k.setBarrier { br with gen := br.gen + 1 })).vchan x) ∧
        (∀ y ∈ br.arrivals, (t.tile y.tile).l1 = []) ∧ s.sameMemory t ∧ s.sameFiles t [] [] ∧ s.sameArrays t) ∧
    (s.taskFree g [d, a] [] →
      let ph := s.here.phase.toNat
      let put := fun (new : Nat) => (Host.Outcome.next (((s.modTile t0 fun T => { T with phase := BitVec.ofNat 48 new }).setX d (BitVec.ofNat 64 new)).advance 4) : Out)
      (n ≠ 0 → ph + n.toNat < 2 ^ 48 → s.phaseOk t0 (ph + n.toNat) = true → exec (.phs d n g) s = put (ph + n.toNat)) ∧
      (n ≠ 0 → ph + n.toNat < 2 ^ 48 → s.phaseOk t0 (ph + n.toNat) = false → exec (.phs d n g) s = .next (s.blockSlot (.phase (ph + n.toNat)))) ∧
      (n = 0 ∨ 2 ^ 48 ≤ ph + n.toNat → exec (.phs d n g) s = .next (s.takeTrap .illegalField 0 0 4 false)) ∧
      (let w := (s.getX a).toNat
       (w < 2 ^ 48 → s.phaseOk t0 (max ph w) = true → exec (.phsTo d a g) s = put (max ph w)) ∧
       (2 ^ 48 ≤ w → exec (.phsTo d a g) s = .next (s.takeTrap .illegalField 0 0 4 false))) ∧
      (m ≠ 0 → exec (.lead m g) s = .next ((s.modTile t0 fun T => { T with lead := m }).advance 4)) ∧
      (m = 0 → exec (.lead m g) s = .next (s.takeTrap .illegalField 0 0 4 false)))

/-- R316, R317, R325, R326: the words over jobs. `jsub` with a card that passes the checks waits for the scheduler, which then writes the status
word into rd (a slot that waits no longer is passed over); `dep` adds an edge; `tbnd` binds the lowest FREE slot, or answers all ones;
`tbnd.u` frees an IDLE slot. (Where both a bound VC and no FREE slot stand against `tbnd` it traps: the model's reading, assumption 121.) -/
def Obligations.JobWords : Prop :=
  ∀ (s : State) (d a : XReg) (p g : PReg) (v : BitVec 4),
    let t0 := s.focus.tile
    (∀ c card, s.memFree g [d, a] [] → s.submitCheck (s.getX a).toNat = .ok (c, card) → s.ctx? c.num = some c →
      ∃ t c', exec (.jsub d a g) s = .next t ∧ t.ctx? c.num = some c' ∧ c'.submits = c.submits ++ [(t0, s.focus.slot, d, card, s.getX a)] ∧
        t.cur.status = .blocked ∧ t.cur.wait = .scheduler ∧ t.cur.pc = s.cur.pc ∧ .happen .jobAdmit { ctx := c.num } ∈ t.pending ∧
        s.sameBytes t ∧ s.sameFiles t [] [] ∧ s.sameArrays t ∧ s.sameStatus t) ∧
    (∀ code ad ax, s.memFree g [d, a] [] → s.submitCheck (s.getX a).toNat = .error (.trap code ad ax) →
      exec (.jsub d a g) s = .next (s.takeTrap code ad ax 4 false)) ∧
    (∀ c t1 k1 rd card addr rest, s.ctx? s.focus.ctx = some c → c.submits = (t1, k1, rd, card, addr) :: rest → rd ≠ 0 →
      (¬ ((s.slot t1 k1).status = .blocked ∧ (s.slot t1 k1).wait = .scheduler) →
        ∃ t, exec .jobAdmit s = .next t ∧ t.ctx? s.focus.ctx = some { c with submits := rest } ∧ s.sameFiles t [] [] ∧ s.sameBytes t ∧ s.sameArrays t) ∧
      ((s.slot t1 k1).status = .blocked → (s.slot t1 k1).wait = .scheduler →
      let used := s.quotaUsed c.tenant
      let limit := s.quotaOf c.tenant
      let edges := (c.jobs.filter (·.incomplete)).filter fun e => edgeFrom e.card card
      let answers := fun (t : State) (w : Word) => readX (t.slot t1 k1).x rd = w ∧ (t.slot t1 k1).status = .ready ∧
        (t.slot t1 k1).pc = (s.slot t1 k1).pc + 4 ∧ s.sameBytes t ∧ s.sameArrays t
      (used.1 < limit.1 → (edges = [] ∨ used.2 < limit.2) → card.conds = [] → (∀ j ∈ c.jobs, j.state ≠ .waiting) → c.lastJob + 1 < 2 ^ 48 →
        ∃ t c', exec .jobAdmit s = .next t ∧ answers t (BitVec.ofNat 64 (c.lastJob + 1)) ∧ t.ctx? s.focus.ctx = some c' ∧
          c'.lastJob = c.lastJob + 1 ∧ c'.submits = rest ∧
          ∃ j ∈ c'.jobs, j.num = c.lastJob + 1 ∧ j.state = .waiting ∧ j.card = card ∧ j.edges = edges.map (·.num)) ∧
      ((limit.1 ≤ used.1 ∨ (edges ≠ [] ∧ limit.2 ≤ used.2)) →
        ∃ t, exec .jobAdmit s = .next t ∧ answers t (BitVec.ofNat 64 (0x60 * 2 ^ 48))))) ∧
    (∀ c je jl, s.taskFree g [d, a] [p] → s.tileCtx t0 = some c →
      let e := (s.getX a).toNat % 2 ^ 48
      let l := (s.getX d).toNat % 2 ^ 48
      (0 < e → e < l → l ≤ c.lastJob → c.job? e = some je → c.job? l = some jl →
        (je.state = .done → exec (.dep d a p g) s = .next ((s.setP p true).advance 4)) ∧
        (je.state ≠ .done → jl.state ≠ .waiting → exec (.dep d a p g) s = .next ((s.setP p false).advance 4)) ∧
        (je.state ≠ .done → jl.state = .waiting → (jl.counter = true ∨ (s.quotaUsed c.tenant).2 < (s.quotaOf c.tenant).2) →
          exec (.dep d a p g) s = .next (((s.modJob c.num l fun j => { j with
            counter := true, edges := if j.edges.contains e then j.edges else j.edges ++ [e], readyAt := none }).setP p true).advance 4))) ∧
      (e = 0 ∨ l ≤ e ∨ c.lastJob < l → exec (.dep d a p g) s = .next (s.takeTrap .illegalField 0 0 4 false))) ∧
    (∀ card, s.taskFree g [d, a] [] → s.readCard s.ctxNum t0 (s.getX a).toNat = .ok card →
      (s.here.boundTo card.vc = none → ∀ k, s.here.freeSlot = some k → k ≠ s.focus.slot →
        ∃ t, exec (.tbnd d a g) s = .next t ∧ (t.slot t0 k).status = .idle ∧ (t.slot t0 k).vc = card.vc ∧ (t.slot t0 k).entry = card.entry ∧
          (t.slot t0 k).bwin = card.win ∧ (t.slot t0 k).card = s.getX a ∧ (t.slot t0 k).implicit = false ∧
          (∀ r, readX t.cur.x r = if r = d ∧ d ≠ 0 then BitVec.ofNat 64 k.val else readX s.cur.x r) ∧
          .happen .taskStart { tile := t0, slot := k } ∈ t.pending ∧ s.sameBytes t ∧ s.sameArrays t) ∧
      (s.here.boundTo card.vc = none → s.here.freeSlot = none → exec (.tbnd d a g) s = .next ((s.setX d (BitVec.allOnes 64)).advance 4)) ∧
      ((s.here.boundTo card.vc).isSome → exec (.tbnd d a g) s = .next (s.takeTrap .illegalField 0 0 4 false))) ∧
    (s.taskFree g [] [] →
      (s.here.boundTo ⟨v.toNat, v.isLt⟩ = none → exec (.tbndU v g) s = .next (s.advance 4)) ∧
      (∀ k, s.here.boundTo ⟨v.toNat, v.isLt⟩ = some k → (s.slot t0 k).status ≠ .idle →
        exec (.tbndU v g) s = .next ((s.modSlot t0 k fun q => { q with unbind := true }).advance 4)) ∧
      (∀ k, s.here.boundTo ⟨v.toNat, v.isLt⟩ = some k → (s.slot t0 k).status = .idle → exec (.tbndU v g) s = .next ((s.freeSlot t0 k).advance 4)))

/-- R319 to R323, R168: what the scheduler does. It selects the highest-ranked ready card and issues it; delivers its trigger to each target
tile; assigns a balance job, triggers it, lets an idle array steal it; completes a job whose work has ended; and looks at waiting cards
again. (Which of equal candidates a steal takes is the model's choice, assumption 122.) -/
def Obligations.SchedulerWorks : Prop :=
  ∀ (s : State),
    let ctx := s.focus.ctx
    let t0 := s.focus.tile
    (∀ c j, (s.unpost .jobSelect s.focus).pickCard s.focus.die = some (c, j) → s.ctx? c.num = some c → c.job? j.num = some j →
      ∃ t j', exec .jobSelect s = .next t ∧ t.job? c.num j.num = some j' ∧ j'.state = .issuing ∧ j'.card = j.card ∧
        j'.toDeliver = (if j.card.bal then [] else bedTiles j.card.bed) ∧
        (∀ x ∈ j'.toDeliver, .happen .triggerDeliver { ctx := c.num, id := j.num, tile := x } ∈ t.pending) ∧
        (j.card.bal = true → .happen .balanceDispatch { ctx := c.num, id := j.num } ∈ t.pending) ∧ s.sameBytes t ∧ s.sameFiles t [] [] ∧
        s.sameArrays t ∧ s.sameStatus t) ∧
    (∀ c j, s.ctx? ctx = some c → c.job? s.focus.id = some j →
      let r := s.unpost .triggerDeliver s.focus
      (j.state = .issuing → t0 ∈ j.toDeliver → s.ctxRuns c = true → s.submitted j = true → s.vcRoom t0 j.card.vc = true →
        ∃ t j', exec .triggerDeliver s = .next t ∧ t.job? c.num j.num = some j' ∧ j'.toDeliver = j.toDeliver.erase t0 ∧ j'.tasks = j.tasks + 1 ∧
          j'.state = (if (j.toDeliver.erase t0).isEmpty then .running else .issuing) ∧ (∀ v, t.vchan t0 v = (r.deliver t0 j).vchan t0 v) ∧
          s.sameBytes t ∧ s.sameArrays t ∧ (s.here.boundTo j.card.vc ≠ none → s.sameFiles t [] [] ∧ s.sameStatus t)) ∧
      (j.state = .issuing → j.card.bal = true → j.dispatched = none → ∀ x, leastBy (s.unpost .balanceDispatch s.focus).mpend (bedTiles j.card.bed) = some x →
        ∃ t j', exec .balanceDispatch s = .next t ∧ t.job? ctx j.num = some j' ∧ j'.dispatched = some x ∧
          .happen .balanceTrigger { ctx, id := j.num } ∈ t.pending ∧ s.sameBytes t ∧ s.sameFiles t [] [] ∧ s.sameArrays t ∧ s.sameStatus t) ∧
      (∀ x, j.state = .issuing → j.dispatched = some x → s.ctxRuns c = true → s.submitted j = true → (s.tile x).matQ = [] →
        (s.tile x).balance = none → s.vcRoom x j.card.vc = true →
        ∃ t j', exec .balanceTrigger s = .next t ∧ t.job? c.num j.num = some j' ∧ j'.tasks = 1 ∧ j'.state = .running ∧
          (t.tile x).balance = some j.num ∧ s.sameBytes t ∧ s.sameArrays t) ∧
      (j.replied = false → s.jobBusy c j.num = false → j.state = .running → j.toDeliver = [] → j.tasks = 0 → j.dispatched = none →
        j.card.ckind = 0 → (∀ k ∈ c.jobs, k.state = .waiting → k.card.conds = []) →
        ∃ t c' j', exec .jobComplete s = .next t ∧ t.ctx? ctx = some c' ∧ c'.job? j.num = some j' ∧ j'.state = .done ∧ j'.replied = true ∧
          (∀ k ∈ c.jobs, k.num ≠ j.num → ∃ k' ∈ c'.jobs, k'.num = k.num ∧ k'.card = k.card ∧ k'.edges = k.edges.erase j.num) ∧
          s.sameBytes t ∧ s.sameFiles t [] [] ∧ s.sameArrays t) ∧
      (j.replied = false → s.jobBusy c j.num = false → j.state = .cancelled → j.card.ckind = 1 → (s.tile j.card.ctile).owner = some c.num →
        ∃ t, exec .jobComplete s = .next t ∧
          (∀ x, t.vchan x = ((s.unpost .jobComplete s.focus).modJob c.num j.num (fun k => { k with replied := true })
            |>.sendWord j.card.ctile j.card.cvc (replyWord 1 j.num)).vchan x) ∧ s.sameBytes t ∧ s.sameFiles t [] [])) ∧
    (∀ c j, s.ctx? ctx = some c → (s.tile t0).matQ = [] →
      (∀ k ∈ c.jobs, k.card.bal = true → k.incomplete = true → k.started = false → k.dispatched ≠ some t0) →
      leastBy (fun k => 2 ^ 49 - (match k.dispatched with | some u => (s.unpost .balanceSteal s.focus).mpend u | none => 0))
        ((c.jobs.filter Job.stealable).filter fun k => inBed k.card.bed t0.val) = some j →
      ∃ t, exec .balanceSteal s = .next t ∧ (∀ k', t.job? ctx j.num = some k' → k'.dispatched = some t0) ∧ s.sameBytes t ∧ s.sameFiles t [] [] ∧
        s.sameArrays t ∧ s.sameStatus t) ∧
    (∀ c, s.ctx? ctx = some c → ∀ i ∈ ([.conditionReeval, .presenceReport] : List Instr),
      (∃ k ∈ c.jobs, k.state = .waiting ∧ k.card.conds ≠ [] ∧ k.card.reads ≠ []) → (s.unpost i s.focus).cardsMove c = true →
      exec i s = .next (((s.unpost i s.focus).refreshJobs c.num).postOnce i s.focus))

/-- R292, R301, R305, R306, R308: the demand-plane words. Each acts on the port its word names: `dmd` inserts an interval at a sink and owes its
reply; `drg` registers a VC; `drt` sets a floor; `dcut` and `dcad` set a stateful operator's cutting, state address and cadence; `dcan`
takes ticks back from a sink. Moving past the word, each leaves registers, bytes and arrays. -/
def Obligations.DemandWords : Prop :=
  ∀ (s : State) (p a b : XReg) (e : BitVec 1) (v : BitVec 4) (g : PReg) (c : Context),
    s.taskFree g [p, a, b] [] → s.tileCtx s.focus.tile = some c →
    let x := (s.getX a).toNat
    let y := (s.getX b).toNat
    let quiet := fun (t : State) => t.cur.pc = s.cur.pc + 4 ∧ s.sameBytes t ∧ s.sameFiles t [] [] ∧ s.sameArrays t ∧ s.sameStatus t
    let traps := fun (i : Instr) (f : FaultCode) => exec i s = .next (s.takeTrap f 0 0 4 false)
    (∀ gi j ch, s.openPort c (s.getX p) [0] = .ok (.chan gi j ch) →
      let sink : PortId := .sink c.num gi j
      let had := s.port c.num sink
      (x ≤ y → y ≤ maxTick →
        (∀ held, coalesce had.held x y = some held →
          ∃ t, exec (.dmd p a b e v g) s = .next t ∧ quiet t ∧ (t.port c.num sink).held = held ∧
            .happen .portServe { ctx := c.num, port := sink } ∈ t.pending ∧
            ∀ c', t.ctx? c.num = some c' → c'.dmds = c.dmds ++ (if e = 1 then
              [{ slot := gi, chan := j, t0 := x, t1 := y, need := [(x, y)], tile := s.focus.tile, vc := ⟨v.toNat, v.isLt⟩, job := s.cur.job }] else [])) ∧
        (coalesce had.held x y = none → exec (.dmd p a b e v g) s = .next (s.blockSlot (.coalescer sink))) ∧
        (∃ t, exec (.dcan p a b g) s = .next t ∧ (t.port c.num sink).held = dropHeld had.held x y ∧ t.cur.pc = s.cur.pc + 4 ∧ s.sameBytes t ∧
          s.sameFiles t [] [] ∧ s.sameArrays t)) ∧
      (¬ (x ≤ y ∧ y ≤ maxTick) → traps (.dmd p a b e v g) .demandRange ∧ traps (.dcan p a b g) .demandRange)) ∧
    (∀ r id, s.openPort c (s.getX p) [0, 2] = .ok r →
      (id = (match r with | .chan gi j _ => PortId.source c.num gi (sourceOf ((c.gslots[gi]).elim [] (·.chans)) j) | .oper gi t st _ => .oper c.num gi t st | .input gi t st i _ => .soft c.num gi t st i)) →
      (match r with | .chan _ _ ch => isEdge ch.desc = false | .oper .. => False | .input _ _ st i img => (xferAt img img.elems[st] i.val).kind = 7) →
      (x < 32 → ∃ t, exec (.drg p a g) s = .next t ∧ quiet t ∧
        (t.port c.num id).reg = (if x / 16 = 1 then some (s.focus.tile, ⟨x % 16, Nat.mod_lt _ (Nat.zero_lt_succ _)⟩) else none) ∧
        (t.port c.num id).held = (s.port c.num id).held ∧ .happen .portServe { ctx := c.num, port := id } ∈ t.pending) ∧
      (32 ≤ x → traps (.drg p a g) .illegalField)) ∧
    (∀ r id n, s.openPort c (s.getX p) [0, 2] = .ok r →
      ((id, n) = (match r with | .chan gi j _ => (PortId.sink c.num gi j, 0) | .oper gi t st _ => (.oper c.num gi t st, 3)
                               | .input gi t st i _ => (.oper c.num gi t st, i.val))) →
      (x ≤ maxTick → n < 3 → ∃ t, exec (.drt p a g) s = .next t ∧ quiet t ∧ (t.port c.num id).floors = (s.port c.num id).floors.set n x) ∧
      (maxTick < x → traps (.drt p a g) .demandRange)) ∧
    (∀ id, s.openStateful c (s.getX p) = .ok id →
      (1 ≤ x → x < 2 ^ 32 → ∃ t, exec (.dcut p a g) s = .next t ∧ quiet t ∧ (t.port c.num id).cut = some x) ∧
      (x = 0 ∨ 2 ^ 32 ≤ x → traps (.dcut p a g) .demandRange) ∧
      (x % 64 = 0 → y < 2 ^ 32 →
        ∀ pa vr sc, s.locate c.num s.focus.tile x { write := true, engine := true, versioned := true } = .ok (.dev pa vr sc) →
        ∃ t, exec (.dcad p a b g) s = .next t ∧ quiet t ∧ (t.port c.num id).stateVa = some x ∧ (t.port c.num id).cadence = y) ∧
      (x % 64 ≠ 0 → exec (.dcad p a b g) s = .next (s.takeTrap .misaligned (s.getX a) 0 4 false)))

/-- R292, R293, R297, R299, R304, R305, R308: the demand plane. A demand flit joins what its port holds; a source serves its lowest interval and
posts its words; a sink takes note of a segment's SOT; a cutting's next word is written as a version of its tick; a cancel flit takes ticks
from what the port holds; and of what a source of the live graph sends within a segment, a data flit whose tick its feed has not demanded
goes nowhere, while one that it has demanded is sent on. (What a cancel at a source removes is the model's choice, assumption 43; so are
which channels' flits are filtered and how ticks without SOT are counted, assumption 182, and that a cutting's write is of no engine that
R341 numbers, assumption 150.) -/
def Obligations.DemandPlaneMoves : Prop :=
  ∀ (s : State) (c : Context),
    let pt := s.focus.port
    let ctx := portCtx pt
    let P := s.port ctx pt
    s.ctx? ctx = some c →
    (∀ d held, s.demand.find? (fun f => f.id == s.focus.id && !f.cancel) = some d → d.port = pt → s.demandBehind d = false →
      coalesce P.held d.t0 d.t1 = some held →
      ∃ t, exec .demandInsert s = .next t ∧ (t.port ctx pt).held = held ∧ (∀ f, f ∈ t.demand ↔ f ∈ s.demand ∧ f.id ≠ d.id) ∧
        .happen .portServe { ctx, port := pt } ∈ t.pending ∧ s.sameBytes t ∧ s.sameFiles t [] [] ∧ s.sameArrays t ∧ s.sameStatus t) ∧
    (∀ (gi j t0 t1 : Nat) rest r G, pt = .source ctx gi j → P.held = (t0, t1) :: rest → P.reg = some r → c.liveSlot = some gi → P.serving = none →
      P.faulted = false → c.stopping = none → s.ctxRuns c = true → c.graph? gi = some G →
      ∃ t, exec .portServe s = .next t ∧ (t.port ctx pt).serving = some (t0, t1) ∧ (t.port ctx pt).held = rest ∧
        (t.port ctx pt).posts = demandWords t1 (t1 / 65536 + 2) t0 ∧ (t.port ctx pt).owed = P.owed ++ [(t0, t1)] ∧ .happen .sourcePost { ctx, port := pt } ∈ t.pending ∧
        s.sameBytes t ∧ s.sameFiles t [] [] ∧ s.sameArrays t ∧ s.sameStatus t) ∧
    (∀ (w : Word) rest (x : TileId) (vc : SlotId), P.posts = w :: rest → P.reg = some (x, vc) → s.vcRoom x vc = true →
      ∃ t, exec .sourcePost s = .next t ∧ (t.port ctx pt).posts = rest ∧ (rest = [] → (t.port ctx pt).serving = none) ∧
        (∀ y, t.vchan y = ((s.unpost .sourcePost s.focus).sendWord x vc w).vchan y) ∧ s.sameBytes t ∧ s.sameFiles t [] [] ∧ s.sameArrays t) ∧
    (∀ (gi j : Nat) f rest, pt = .sink ctx gi j → P.landed = f :: rest → f.kind = 1 →
      ∃ t, exec .sinkEotAccept s = .next t ∧ (t.port ctx pt).landed = rest ∧ (t.port ctx pt).sot = some (f.data.toNat % 2 ^ 48) ∧
        s.sameBytes t ∧ s.sameFiles t [] [] ∧ s.sameArrays t ∧ s.sameStatus t) ∧
    (∀ (gi : Nat) (x : TileId) (st : Fin 6) k rest va str pa vr sc, pt = .oper ctx gi x st → P.cuts = k :: rest → P.nowVa = some va →
      (s.tile x).stream = some str → str.active.all (fun L => k.lanes.any fun l => l.1 == L.val) = true → k.written < 7 →
      s.locate ctx x (va + 8 * k.written) { write := true, engine := true, versioned := true } = .ok (.dev pa vr sc) →
      (s.vword pa).newest.1 < k.tick → (s.vword pa).versions.length < 4 →
      ∃ t d, exec .cuttingWrite s = .next t ∧ (t.vword pa).newest = (k.tick, d) ∧ t.mem = s.mem ∧
        (t.port ctx pt).cuts = { k with written := k.written + 1, deadline := none } :: rest ∧ .happen .cuttingWrite s.focus ∈ t.pending) ∧
    (∀ (gi j : Nat) d, s.demand.find? (fun f => f.id == s.focus.id && f.cancel) = some d → d.port = pt → pt = .source ctx gi j →
      s.demandBehind d = false → (∀ f ∈ P.feeds, f.dest = d.feed ∧ f.part = d.part) →
      ∃ t, exec .cancelFlit s = .next t ∧
        (t.port ctx pt).held = (P.serving.toList.foldl (fun l (a, b) => dropTicks l a b) [(d.t0, d.t1)]).foldl (fun l (a, b) => dropHeld l a b) P.held ∧ (∀ f, f ∈ t.demand ↔ f ∈ s.demand ∧ f.id ≠ d.id) ∧
        s.sameBytes t ∧ s.sameFiles t [] [] ∧ s.sameArrays t) ∧
    (∀ (x : TileId) (vc : SlotId) (g : Fin 4) j ch q u last (f : Flit), s.tileCtx x = some c → s.vcChan x vc = some (g, j, ch) → c.liveSlot = some g.val →
      chanGroup ch.desc = 0 → chanPort ch.desc ≠ 0 → chanPort ch.desc ≠ 6 → f.kind = 0 →
      let src : PortId := .source c.num g (sourceOf ((c.gslots[g]).elim [] (·.chans)) j)
      (c.port src).feeds = [q] → q.dest = .sink c.num g j → (c.port src).segAt.isSome → (c.port src).tokTick q.w = (some u, last) →
      (hasTick q.want u = false → ∃ P', s.sendSeg x vc f = s.modPort c.num src fun _ => P') ∧
      (hasTick q.want u = true → q.upto.isSome → ∃ P', s.sendSeg x vc f = (s.modPort c.num src fun _ => P').sendOne x vc f ∧
        P'.feeds = [{ q with sent := q.sent + 1, upto := some u, want := if last then dropTicks q.want u u else q.want }]))

/-- R351 to R358: `kil.j`, and the words only firmware runs, which trap in a task. `kil.j` of a job that has neither completed nor been
cancelled sets rd to 1, writes a record and cancels it; the task goes on at the next word, but one that names its own job ends with what it
wrote. In system mode `kil.c` kills a context that lives, `ctxs` saves one that has nothing left to finish, `ctxr` restores one, and each
writes its status into rd. That the management core holds a `ctxs` that waits and tries it again is the model's choice (assumption 12), as
is the status of a `ctxr` whose image header meets an uncorrectable error (assumption 173). R358, R359: a kill ends its context: it neither
lives nor is resident, has no launch and no graph, its jobs are cancelled and each owes its reply, and one more record is owed; other
contexts stand (where it held no reservation, whose waiters would fault). -/
def Obligations.ContextWords : Prop :=
  (∀ (s : State) (d a : XReg) (g : PReg),
    let n := (s.getX a).toNat % 1024
    let ended := fun (t : State) (r : Nat) => (Host.Outcome.next ((t.setX d (BitVec.ofNat 64 r)).advance 4) : Out)
    (∀ c, s.taskFree g [d, a] [] → s.tileCtx s.focus.tile = some c →
      let k := (s.getX a).toNat % 2 ^ 48
      (k = 0 ∨ c.lastJob < k → exec (.kilJ d a g) s = .next (s.takeTrap .illegalField 0 0 4 false)) ∧
      (0 < k → k ≤ c.lastJob → (∀ j, c.job? k = some j → j.incomplete = false) → exec (.kilJ d a g) s = .next ((s.setX d 0).advance 4)) ∧
      (∀ j, 0 < k → k ≤ c.lastJob → c.job? k = some j → j.incomplete = true → s.cur.status = .running →
        ∃ t c', exec (.kilJ d a g) s = .next t ∧ (d ≠ 0 → readX t.cur.x d = 1) ∧ (∀ r, r ≠ d → readX t.cur.x r = readX s.cur.x r) ∧
          (s.cur.job ≠ k → t.cur.pc = s.cur.pc + 4 ∧ t.cur.status = .running) ∧ (s.cur.job = k → t.cur.status = .idle ∨ t.cur.status = .free) ∧
          t.ctx? c.num = some c' ∧ c'.selecting = false ∧
          (∀ j', c'.job? k = some j' → j'.state = .cancelled) ∧ (∃ r, c'.records = c.records ++ [r] ∧ r.bits.extractLsb' 0 16 = BitVec.ofNat 16 FaultCode.blighted.val) ∧
          .happen .jobComplete { ctx := c.num, id := k } ∈ t.pending ∧ s.sameBytes t)) ∧
    (s.taskFree g [d, a] [] → ∀ i ∈ ([.kilC d a g, .ctxs d a g, .ctxr d a g] : List Instr), exec i s = .next (s.takeTrap .protect 0 0 4 false)) ∧
    (s.sysMode = true → s.getP g = true →
      (∀ c, s.ctx? n = some c → c.live = true → exec (.kilC d a g) s = ended (s.killContext n none 3) 0) ∧
      (s.ctx? n = none → exec (.kilC d a g) s = ended s 2 ∧ exec (.ctxs d a g) s = ended s 2 ∧ exec (.ctxr d a g) s = ended s 5) ∧
      (∀ c, s.ctx? n = some c → c.live = true → c.resident = true → (∃ lim, c.saving = some lim ∧ s.clk < lim) → c.saveResult = none → s.saveReady c = true →
        exec (.ctxs d a g) s = ended (s.writeImage c) 0 ∧
        (∀ c', (s.writeImage c).ctx? n = some c' → c'.resident = false ∧ c'.saving = none) ∧
        (Memory.wf s.mem = true → Memory.get (s.writeImage c).mem (c.saveArea + 8) = 1)) ∧
      (∀ r t, s.trySave n = (some r, t) → exec (.ctxs d a g) s = ended t r) ∧
      (∀ t, s.trySave n = (none, t) → ∃ w, encodeWord (.ctxs d a g) = some w ∧
        exec (.ctxs d a g) s = .next ((t.holdCore w).advance 4) ∧ ((t.holdCore w).advance 4).core.words = w :: t.core.words ∧
          .core t.focus.die ∈ (t.holdCore w).pending) ∧
      (∀ c, s.ctx? n = some c → (Memory.get s.mem (c.saveArea + 8)).toNat % 2 = 0 → exec (.ctxr d a g) s = ended s 4) ∧
      (∀ r t, s.tryRestore n = (r, t) → exec (.ctxr d a g) s = ended t (if r = FaultCode.ecc.val then 4 else r)))) ∧
  (∀ (s : State) (n : Nat) (code : Option FaultCode) (st : Nat) (c : Context), s.ctx? n = some c → (∀ r ∈ s.reservations, r.ctx ≠ n) →
    (∀ i ∈ s.saved, i.ctx.num = n → i.reservations = []) →
    ∃ c' r, (s.killContext n code st).ctx? n = some c' ∧ c'.live = false ∧ c'.resident = false ∧ c'.launch = none ∧ c'.liveSlot = none ∧
      c'.barriers = [] ∧ c'.saving = none ∧ (∀ j ∈ c'.jobs, j.state = .done ∨ j.state = .cancelled) ∧
      c'.records = c.records ++ [r] ∧ (∀ f, code = some f → r.bits.extractLsb' 0 16 = BitVec.ofNat 16 f.val) ∧
      (∀ j ∈ c.jobs, j.incomplete = true → .happen .jobComplete { ctx := n, id := j.num } ∈ (s.killContext n code st).pending) ∧
      (c.liveSlot = none → ∀ m, m ≠ n → (s.killContext n code st).ctx? m = s.ctx? m))

/-- R338, R343, R350, R356, R399: faults on their way out. The containment unit writes the oldest record with its number into the ring, then
`produced`; a store of `consumed` is read within its bounds, and where the read meets an uncorrectable error the value read last stands
(assumption 173, DESIGN CHOICE); an engine fault reaches its task late, or its job; an expired watchdog writes a record and starts again; a
save past its limit kills its context. -/
def Obligations.FaultsAreReported : Prop :=
  ∀ (s : State) (c : Context), s.ctx? s.focus.ctx = some c →
    (∀ q rest, c.records = q :: rest →
      let consumed := if s.eccError then c.consumed else s.ringConsumed c
      c.produced - consumed < 256 →
      (∀ x ∈ q.after, ∀ a ∈ (s.tile x.1).accesses, ¬ (a.id = x.2 ∧ a.iss.ctx = c.num)) → Memory.wf s.mem = true → c.produced + 1 < 2 ^ 64 →
      let slot := c.ring + 64 + 64 * (c.produced % 256)
      ∃ t c', exec .faultRecordWrite s = .next t ∧ leNat (Memory.read t.mem slot 56) = q.bits.toNat % 2 ^ 448 ∧
        leNat (Memory.read t.mem (slot + 56) 8) = c.produced + 1 ∧ leNat (Memory.read t.mem c.ring 8) = c.produced + 1 ∧
        (∀ x, (x < c.ring ∨ c.ring + 8 ≤ x) → (x < slot ∨ slot + 64 ≤ x) → Memory.get t.mem x = Memory.get s.mem x) ∧
        t.ctx? s.focus.ctx = some c' ∧ c'.records = rest ∧ c'.produced = c.produced + 1 ∧ c'.consumed = consumed ∧
        (c.num, c.produced + 1) ∈ t.cores[c.home].notified ∧ s.sameFiles t [] [] ∧ s.sameArrays t ∧ s.sameStatus t) ∧
    (∀ v : Word, Memory.wf s.mem = true → ∃ t, exec (.ringConsumedWrite v) s = .next t ∧ leNat (Memory.read t.mem (c.ring + 8) 8) = v.toNat ∧
      t.ctx? s.focus.ctx = some c ∧ t.ringConsumed c = max c.consumed (min c.produced v.toNat) ∧
      (∀ x, (x < c.ring + 8 ∨ c.ring + 16 ≤ x) → Memory.get t.mem x = Memory.get s.mem x) ∧ s.sameFiles t [] [] ∧ s.sameArrays t ∧ s.sameStatus t) ∧
    (∀ e, s.engineFaults.find? (fun f => f.id == s.focus.id) = some e →
      let u := { s.unpost .engineFault s.focus with engineFaults := s.engineFaults.filter (·.id != e.id) }
      (e.toTask = true → s.alive e.iss = true →
        ∃ t l, exec .engineFault s = .next t ∧ (t.slot e.iss.tile e.iss.slot).late = (s.slot e.iss.tile e.iss.slot).late ++ [l] ∧ l.code = e.code ∧
          l.addr = e.addr ∧ l.aux = e.aux ∧ l.engine = true ∧ .happen .lateFault { tile := e.iss.tile, slot := e.iss.slot } ∈ t.pending ∧
          s.sameBytes t ∧ s.sameFiles t [] [] ∧ s.sameArrays t ∧ s.sameStatus t) ∧
      (¬ (e.toTask = true ∧ s.alive e.iss = true) → exec .engineFault s = .next (u.blightWork e))) ∧
    (s.ctxRuns c = true → c.wdgl ≤ c.wdgc → (∀ j ∈ c.jobs, j.incomplete = false) →
      ∃ t c' rec, exec .watchdogExpiry s = .next t ∧ t.ctx? s.focus.ctx = some c' ∧ c'.wdgc = 0 ∧ c'.records = c.records ++ [rec] ∧
        let r := rec.bits
        r.extractLsb' 0 16 = BitVec.ofNat 16 FaultCode.watchdog.val ∧ r.extractLsb' 16 2 = 3 ∧
        (∀ x k q, longestWait (s.blockedSlots c) = some (x, k, q) → q.job < 2 ^ 48 → r.extractLsb' 32 10 = BitVec.ofNat 10 x.val ∧
          r.extractLsb' 48 4 = BitVec.ofNat 4 k.val ∧ r.extractLsb' 64 16 = q.pc ∧ r.extractLsb' 320 64 = BitVec.ofNat 64 (s.waitCause x k q)) ∧
        s.sameBytes t ∧ s.sameFiles t [] [] ∧ s.sameArrays t ∧ s.sameStatus t) ∧
    (∀ lim, c.saving = some lim → lim ≤ s.clk →
      exec .saveLimitExpiry s = .next ((s.unpost .saveLimitExpiry s.focus).killContext c.num (some .saveLimit) 1))

/-- R122 to R127, R130: the arithmetic lane commands. Each element whose operands are all present gets the exact result of the operation,
rounded once into the format under the command's mode with its draw, and an element with a fallow operand the fallow code; the block's
registers are written in order, the counters rise, and a stage is held. (The special functions are computed to far beyond the format and
rounded once, assumption 7; what the counters take in, and the sign of a zero of the sine, are assumptions 136, 153 and 159.) R95, R125 to
R127: one element of an arithmetic lane result, read back from the register: the fallow code where an operand is fallow, else the exact
result rounded once with its draw. -/
def Obligations.LaneArithmetic : Prop :=
  (∀ (s : State) (c : Cmd) (i : Instr) (slots : List (BitVec 16)) (chk : Issue → State → Except Stop Unit) (f : List Val → Val × Bool),
    let m := ctlMode c
    let special := fun (g : Special) (l : List Val) => specialVal g (arg l 0)
    (i, slots, chk, f) ∈
        ([(.vadd c, [c.s2, c.s3], chk2 c, fun l => (exactAdd m (arg l 0) (arg l 1), false)),
          (.vsub c, [c.s2, c.s3], chk2 c, fun l => (exactAdd m (arg l 0) (negVal (arg l 1)), false)),
          (.vmul c, [c.s2, c.s3], chk2 c, fun l => (exactMul (arg l 0) (arg l 1), false)),
          (.vfma c, [c.s2, c.s3, c.s4], chk3 c, fun l => (exactAdd m (exactMul (arg l 0) (arg l 1)) (arg l 2), false)),
          (.vfms c, [c.s2, c.s3, c.s4], chk3 c, fun l => (exactAdd m (exactMul (arg l 0) (arg l 1)) (negVal (arg l 2)), false)),
          (.vmin c, [c.s2, c.s3], chk2 c, fun l => (minVal (arg l 0) (arg l 1), false)),
          (.vmax c, [c.s2, c.s3], chk2 c, fun l => (maxVal (arg l 0) (arg l 1), false)),
          (.vabs c, [c.s2], chk1 c inGroupA, fun l => (absVal (arg l 0), false)),
          (.vneg c, [c.s2], chk1 c negGroup, fun l => (negVal (arg l 0), false)),
          (.vclamp c, [c.s2, c.s3, c.s4], chk3 c, fun l => (minVal (maxVal (arg l 0) (arg l 1)) (arg l 2), false)),
          (.vrcp c, [c.s2], chk1 c tagFloat, special .rcp), (.vrsq c, [c.s2], chk1 c tagFloat, special .rsq),
          (.vsqrt c, [c.s2], chk1 c tagFloat, special .sqrt), (.vexp2 c, [c.s2], chk1 c tagFloat, special .exp2),
          (.vlog2 c, [c.s2], chk1 c tagFloat, special .log2), (.vtanh c, [c.s2], chk1 c tagFloat, special .tanh),
          (.vsgm c, [c.s2], chk1 c tagFloat, special .sgm), (.vsin c, [c.s2], chk1 c tagFloat, special .sin)] :
          List (Instr × List (BitVec 16) × (Issue → State → Except Stop Unit) × (List Val → Val × Bool))) →
    s.commandFree i c [] → chk s.issue s = .ok () → s.alive s.issue = true →
    let fmt := laneFmt c slots s.issue s
    let regs := zipAll (slots.map (opVals fmt c s.issue s))
    let ds := chunks (regs.map fun _ => tagCount fmt) (s.takeDraws s.focus.tile m (tagCount fmt * regs.length)).1
    let rs := (regs.zip ds).map fun (ops, dr) => laneReg fmt m f (zipAll ops) dr
    ∃ t, exec i s = .next t ∧ s.wroteBlock t c (rs.map (·.1)) ∧ s.counted t (inputMarks fmt ((slots.filter isV).flatMap (s.block s.issue c)) ++ rs.flatMap (·.2)) 7 ∧ s.heldStage t c ∧
      t.here.lfsr = (s.takeDraws s.focus.tile m (tagCount fmt * regs.length)).2.here.lfsr) ∧
  (∀ (fmt : BitVec 5) (m : Nat) (f : List Val → Val × Bool) (ops : List (List Val)) (ds : List Nat) (j : Nat),
    ops.length = tagCount fmt → ds.length = tagCount fmt → j < tagCount fmt → ∀ (vs : List Val) (d : Nat),
      ops[j]? = some vs → ds[j]? = some d →
      let r := laneReg fmt m f ops ds
      (elems fmt r.1)[j]? = some ((if .fallow ∈ vs then fallowCode fmt else (roundVal fmt m false d (f vs).2 (f vs).1).code) % 2 ^ tagWidth fmt) ∧
      r.1.tag = fmt ∧ r.1.side = 0)

/-- R122, R125, R128: the bit-pattern commands and `vcmp`. An element with a fallow operand gets the fallow code, and a compare with one is
false and counts in ABS_CMP; a shift takes the low log2 w bits of its amount. -/
def Obligations.LaneBitsAndCompare : Prop :=
  ∀ (s : State) (c : Cmd) (i : Instr) (slots : List (BitVec 16)) (chk : Issue → State → Except Stop Unit) (f : Nat → Nat → Nat → Nat),
    s.alive s.issue = true →
    ((i, slots, chk, f) ∈
        ([(.vand c, [c.s2, c.s3], chkBits2 c, fun _ a b => a &&& b), (.vor c, [c.s2, c.s3], chkBits2 c, fun _ a b => a ||| b),
          (.vxor c, [c.s2, c.s3], chkBits2 c, fun _ a b => a ^^^ b), (.vnot c, [c.s2], chk1 c inGroupB, fun w a _ => 2 ^ w - 1 - a),
          (.vshl c, [c.s2, c.s3], chkShift c, fun w a b => a * 2 ^ (b % w)), (.vshr c, [c.s2, c.s3], chkShift c, fun w a b => a / 2 ^ (b % w)),
          (.vsra c, [c.s2, c.s3], chkShift c, fun w a b => if a < 2 ^ (w - 1) then a / 2 ^ (b % w) else 2 ^ w - 1 - (2 ^ w - 1 - a) / 2 ^ (b % w))] :
          List (Instr × List (BitVec 16) × (Issue → State → Except Stop Unit) × (Nat → Nat → Nat → Nat))) →
      s.commandFree i c [] → chk s.issue s = .ok () →
      let fmt := laneFmt c slots s.issue s
      let w := tagWidth fmt
      ∃ t, exec i s = .next t ∧ s.heldStage t c ∧ s.counted t (inputMarks fmt ((slots.filter isV).flatMap (s.block s.issue c))) 16 ∧ t.here.lfsr = s.here.lfsr ∧
        s.wroteBlock t c ((zipAll (slots.map (opCodes fmt c s.issue s))).map fun ops => mkReg fmt ((zipAll ops).map fun l =>
          if l.all (presentBits fmt) then f w (l.getD 0 0) (l.getD 1 0) % 2 ^ w else fallowCode fmt))) ∧
    (s.commandFree (.vcmp c) c [] → chk2 c s.issue s = .ok () →
      let fmt := laneFmt c [c.s2, c.s3] s.issue s
      let outs := ((opVals fmt c s.issue s c.s2).zip (opVals fmt c s.issue s c.s3)).map fun (a, b) => (a.zip b).map fun (x, y) =>
        if x = Val.fallow ∨ y = Val.fallow then (false, 1) else (cmpVals (ctlSel c) x y, 0)
      ∃ t, exec (.vcmp c) s = .next t ∧ s.heldStage t c ∧ t.here.lfsr = s.here.lfsr ∧
        s.counted t (inputMarks fmt (([c.s2, c.s3].filter isV).flatMap (s.block s.issue c)) ++ List.replicate (outs.flatMap fun l => l.map (·.2)).sum 6) 7 ∧
        s.wroteBlock t c (outs.map fun l => { data := packFields 1 ((l.take 64).map fun (b, _) => if b then 1 else 0), side := 0, tag := 0x11 }))

/-- R122, R129: the moves. `vsel` picks by its mask, `vmov` copies data, side word and tag, `vbcast` repeats an element or an x pattern, `vperm`
picks by index and `vshf` shifts elements, both with the fallow code where there is none; none of them rounds or counts. (`vshf` by an x
value outside -63 to 63 shifts all out: assumption 154.) -/
def Obligations.LaneMoves : Prop :=
  ∀ (s : State) (c : Cmd), s.alive s.issue = true →
    let iss := s.issue
    let done := fun (i : Instr) (chk : Issue → State → Except Stop Unit) (srcs : List (BitVec 16)) (res : BitVec 5 → List VReg) =>
      s.commandFree i c [] → chk iss s = .ok () →
      ∃ t, exec i s = .next t ∧ s.heldStage t c ∧ s.counted t [] 16 ∧ t.here.lfsr = s.here.lfsr ∧ s.wroteBlock t c (res (laneFmt c srcs iss s))
    let k : Int := if isX c.s3 then (iss.getX (slotX c.s3)).toInt else immI c.s3
    done (.vsel c) (chkVsel c) [c.s2, c.s3] (fun t =>
      (((s.block iss c c.s2).zip (s.block iss c c.s3)).zip (s.block iss c c.s4)).map fun ((a, b), m) =>
        mkReg t (((elems t a).zip (elems t b)).zipIdx.map fun ((x, y), i) => if m.data.getLsbD i then x else y)) ∧
    done (.vmov c) (chk1 c movGroup) [c.s2] (fun _ => s.block iss c c.s2) ∧
    (isX c.s2 = false → done (.vbcast c) (chkVbcast c) [c.s2] (fun t =>
      (s.block iss c c.s2).map fun v => mkReg t (List.replicate (tagCount t) ((elems t v).getD (immN c.s3) 0)))) ∧
    (isX c.s2 = true → done (.vbcast c) (chkVbcast c) [c.s2] (fun t =>
      (blockRegs c 0).map fun _ => mkReg t (List.replicate (tagCount t) ((iss.getX (slotX c.s2)).toNat % 2 ^ tagWidth t)))) ∧
    done (.vperm c) (chkVperm c) [c.s2] (fun t =>
      ((s.block iss c c.s2).zip (s.block iss c c.s3)).map fun (a, ix) => mkReg t (((elems ix.tag ix).take (tagCount t)).map fun j =>
        if presentBits ix.tag j && decide (j < tagCount t) then (elems t a).getD j 0 else fallowCode t)) ∧
    done (.vshf c) (chk1 c inGroupC) [c.s2] (fun t =>
      (s.block iss c c.s2).map fun v => mkReg t ((List.range (tagCount t)).map fun (i : Nat) =>
        if 0 ≤ (i : Int) + k ∧ (i : Int) + k < tagCount t then (elems t v).getD ((i : Int) + k).toNat 0 else fallowCode t))

/-- R131 to R135, R146: reductions, drains and scans. `vacc` adds each lane's elements to its cell, `vred` the whole block to lane 0 of a
cleared accumulator, `vdrn` writes values, means or counts and may clear, `vscan` the running results; a stage's result frees it. (The tree
of a `vred` with free bits is the model's draw, assumption 23, as are the draws of drained fills, assumption 137.) -/
def Obligations.LaneReductions : Prop :=
  ∀ (s : State) (c : Cmd), s.alive s.issue = true →
    let iss := s.issue
    let regs := s.block iss c c.s2
    let fmt := laneFmt c [c.s2] iss s
    let acc := fun (t : State) (ad : SlotId) (cells : SlotId → Cell) =>
      (∀ L : SlotId, t.here.a[ad][L] = cells L) ∧ (∀ k : SlotId, k ≠ ad → t.here.a[k] = s.here.a[k]) ∧ t.here.v = s.here.v ∧ t.here.m = s.here.m ∧
      t.cur.pc = s.cur.pc + 16 ∧ s.sameBytes t ∧ s.sameFiles t [] [] ∧ s.sameTasks t ∧ s.heldStage t c
    (s.commandFree (.vacc c) c [] → chkReduce c iss s = .ok () →
      let cell := fun L : SlotId => accumCell (ctlFree c) (ctlSel c) (s.draws + 4096 * L.val) (s.here.a[slotN c.s1])[L] (laneVals fmt regs L.val)
      ∃ t, exec (.vacc c) s = .next t ∧ acc t (slotN c.s1) (fun L => (cell L).1) ∧
        t.cur.cnt[3] = satAdd32 s.cur.cnt[3] ((regs.flatMap (vals fmt)).count .fallow) ∧
        t.cur.cnt[4] = satAdd32 s.cur.cnt[4] ((regs.flatMap (vals fmt)).count .nan)) ∧
    (s.commandFree (.vred c) c [] → chkReduce c iss s = .ok () →
      ∃ t, exec (.vred c) s = .next t ∧ t.cur.cnt[3] = satAdd32 s.cur.cnt[3] ((regs.flatMap (vals fmt)).count .fallow) ∧
        t.cur.cnt[4] = satAdd32 s.cur.cnt[4] ((regs.flatMap (vals fmt)).count .nan) ∧
        acc t (slotN c.s1) (fun L => if L = 0 then (accumCell (ctlFree c) (ctlSel c) s.draws {} (regs.flatMap (vals fmt))).1 else {})) ∧
    (s.commandFree (.vdrn c) c [] → chkVdrn c iss s = .ok () →
      let ds := (s.takeDraws s.focus.tile (if ctlSel c = 2 then 0 else ctlMode c) 16).1
      let rs := ((s.here.a[slotN c.s2]).toList.zip ds).map fun (x, d) => drainCell c.tag (ctlSel c) (ctlMode c) iss c.s4 x d
      ∃ t, exec (.vdrn c) s = .next t ∧ s.heldStage t c ∧ s.counted t (rs.flatMap (·.counts)) 16 ∧ t.cur.pc = s.cur.pc + 16 ∧
        t.here.v = (s.here.setV (slotV c.s1) (mkReg c.tag (rs.map (·.code) ++ List.replicate (tagCount c.tag - 16) (fallowCode c.tag)))).v ∧
        t.here.a[slotN c.s2] = (if ctlClear c then Vector.replicate 16 {} else s.here.a[slotN c.s2]) ∧ s.sameBytes t ∧ s.sameFiles t [] []) ∧
    (s.commandFree (.vscan c) c [] → chk1 c inScan iss s = .ok () →
      let xs := regs.flatMap (elems fmt)
      let out := scanList fmt (ctlSel c % 4) (ctlMode c) (decide (4 ≤ ctlSel c)) none (xs.zip (s.takeDraws s.focus.tile (ctlMode c) xs.length).1)
      ∃ t, exec (.vscan c) s = .next t ∧ s.heldStage t c ∧ s.counted t (inputMarks fmt regs ++ out.2) 16 ∧
        s.wroteBlock t c ((chunks (regs.map fun _ => tagCount fmt) out.1).map (mkReg fmt))) ∧
    (∀ h : s.focus.unit < 6, s.here.stages[s.focus.unit].isSome = true →
      ∃ t, exec .laneStageResult s = .next t ∧ t.here.stages = s.here.stages.set s.focus.unit none ∧
        s.sameBytes t ∧ s.sameFiles t [] [] ∧ s.sameArrays t ∧ s.sameStatus t)

/-- R103 to R117: the conversions. Each source register makes its destination register, its counters rise; `fal.test` counts present elements
into an x register and a predicate; `tag.set` changes tags only. -/
def Obligations.Conversions : Prop :=
  ∀ (s : State) (c : Cmd), s.alive s.issue = true →
    let iss := s.issue
    let src := s.block iss c c.s2
    let old := s.block iss c c.s1
    let draws := fun (ns : List Nat) => chunks ns (s.takeDraws s.focus.tile (convMode c) ns.sum).1
    let done := fun (i : Instr) (chk : Issue → State → Except Stop Unit) (rs : List (VReg × List Nat)) =>
      s.commandFree i c [] → chk iss s = .ok () →
      ∃ t, exec i s = .next t ∧ s.wroteBlock t c (rs.map (·.1)) ∧ s.counted t (rs.flatMap (·.2)) 16
    (∀ i sat, (i, sat) ∈ ([(.cvt c, false), (.cvtSat c, true)] : List (Instr × Bool)) →
      done i (chkCvt c) (((old.zip src).zip (draws (src.map fun v => cvtCount v.tag c.tag))).map fun ((d, v), dr) =>
        cvtReg sat c (cvtE c iss) d v dr)) ∧
    done (.qblk c) (chkQblk c) (((old.zip src).zip (draws (src.map fun _ => 32))).map fun ((d, v), dr) =>
      let q := quantBlock (convType c) (convMode c) (vals v.tag v) dr
      ({ data := packFields 4 (overlay (fields 4 d.data) (32 * immN c.s3) q.1), side := setSide d.side (immN c.s3) q.2.1, tag := 6 }, q.2.2)) ∧
    done (.dqblk c) (chkDqblk c) ((src.zip (draws (src.map fun _ => tagCount c.tag))).map fun (v, dr) =>
      let q := convElems (fun d x => roundVal c.tag (convMode c) false d false x) (((vals 6 v).drop (tagCount c.tag * immN c.s3)).take (tagCount c.tag)) dr
      (mkReg c.tag q.1, q.2)) ∧
    done (.pack6 c) (chkTag c 7) (src.map fun v => (packSix v, [])) ∧
    done (.unpk6 c) (chkTag c 0x11) (src.map fun v => (unpackSix v, [])) ∧
    done (.falFill c) (chkFalFill c) (old.zipIdx.map fun (v, r) => (fillReg c.tag (iss.xOrImm c.s2 0) (iss.xOrImm c.s3 0) r v, [])) ∧
    done (.tagSet c) (chkTagSet c) (old.map fun v => ({ v with tag := c.tag }, [])) ∧
    (∀ fmt, checkTags c src = .ok fmt → s.commandFree (.falTest c) c [] → chkFalTest c iss s = .ok () →
      let n := ((src.map fun v => (vals fmt v).filter (· != .fallow)).map List.length).sum
      ∃ t, exec (.falTest c) s = .next t ∧ readX t.cur.x (slotX c.s1) = (if slotX c.s1 = 0 then 0 else BitVec.ofNat 64 n) ∧
        (c.s3 ≠ 0 → ∀ p, p = c.s3.extractLsb' 0 3 → readP t.cur.p p = (p == 0 || decide (0 < n))) ∧ t.cur.pc = s.cur.pc + 16 ∧
        s.sameBytes t ∧ s.sameFiles t [slotX c.s1] [c.s3.extractLsb' 0 3] ∧ s.sameArrays t ∧ s.sameStatus t)

/-- R136, R138 to R142, R272: the commands over the chain image. `vstr`, `vmrg` and `vcar` put a router word at a boundary or take their kind
away, `vjoin` sets the J field of a stage, each in the image that follows a running stream; `vcfg` loads an image from scratchpad and holds
every stage; `vrun` starts the array on the image. -/
def Obligations.ChainImageCommands : Prop :=
  ∀ (s : State) (c : Cmd),
    let iss := s.issue
    let img := fun (T : Tile) => if T.stream.isSome then T.chainNext.getD T.chain else T.chain
    let b := immN c.s1
    let quiet := fun (t : State) => t.cur.pc = s.cur.pc + 16 ∧ s.sameBytes t ∧ s.sameFiles t [] [] ∧ s.sameArrays t
    let router := fun (i : Instr) (gone : Bool) (kind w : Nat) => s.commandFree i c [] → ∀ h : b < 7,
      ∃ t, exec i s = .next t ∧ quiet t ∧ t.here.stream = s.here.stream ∧ (img t.here).elems = (img s.here).elems ∧
        (img t.here).routers[b] = (if gone then (if rKind (img s.here).routers[b] = kind then 0 else (img s.here).routers[b]) else BitVec.ofNat 32 w) ∧
        ∀ k : Fin 7, k.val ≠ b → (img t.here).routers[k] = (img s.here).routers[k]
    router (.vstr c) (isZeroImm c.s2) 1 (2 ^ 29 + (if isVc c.s2 then 7 * 2 ^ 26 + (slotN c.s2).val * 2 ^ 22 else immN c.s2 % 8 * 2 ^ 26) + immN c.s3 % 4 * 2 ^ 20) ∧
    router (.vmrg c) (immN c.s3 == 7) 2 (2 * 2 ^ 29 + immN c.s3 * 2 ^ 26 + (if c.s2 = 0 then 0 else (slotN c.s2).val * 2 ^ 22 + 2 ^ 21)) ∧
    router (.vcar c) (!isVc c.s2) 3 (3 * 2 ^ 29 + (slotN c.s2).val * 2 ^ 22) ∧
    (s.commandFree (.vjoin c) c [] → ∀ h : b < 6, ∃ t, exec (.vjoin c) s = .next t ∧ quiet t ∧
      (img t.here).routers = (img s.here).routers ∧ (∀ k : Fin 6, k.val ≠ b → (img t.here).elems[k] = (img s.here).elems[k]) ∧
      (img t.here).elems[b].extractLsb' 39 25 = (img s.here).elems[b].extractLsb' 39 25 ∧
      (img t.here).elems[b].extractLsb' 0 21 = (img s.here).elems[b].extractLsb' 0 21 ∧
      (img t.here).elems[b].extractLsb' 21 18 =
        (if c.s2 = 0 ∧ c.s3 = 0 then 0 else BitVec.ofNat 18 (immN c.s3 % 64 * 2 ^ 12 + immN c.s2 % 4096))) ∧
    (∀ off, s.commandFree (.vcfg c) c [] → chkVcfg c iss s = .ok () → ownOffset iss (vcfgAddr c iss) = some off →
      ∃ t, exec (.vcfg c) s = .next t ∧ quiet t ∧ (∀ k : Fin 6, t.here.chain.elems[k] = BitVec.ofNat 64 (leNat (Memory.read s.here.sp (off + 8 * k.val) 8))) ∧
        (∀ k : Fin 7, t.here.chain.routers[k] = BitVec.ofNat 32 (leNat (Memory.read s.here.sp (off + 48 + 4 * k.val) 4))) ∧
        t.here.chain.lanes = BitVec.ofNat 16 (leNat (Memory.read s.here.sp (off + 76) 2)) ∧
        t.here.stages = Vector.replicate 6 (some s.here.nextCmd) ∧ ∀ u < 6, .happen .laneStageResult { tile := s.focus.tile, unit := u } ∈ t.pending) ∧
    (s.commandFree (.vrun c) c [] → chkVrun c iss s = .ok () →
      ∃ t x tag, exec (.vrun c) s = .next t ∧ quiet t ∧ t.here.stream = some x ∧ x.img = s.here.chain ∧ x.sourceDone = false ∧
        x.use = .vrun iss (if isV c.s2 then (s.block iss c c.s2).map (·.data) else []) (if isV c.s1 then blockRegs c (slotV c.s1) else [])
          (if isVc c.s1 then some (slotN c.s1) else none) (if isVc c.s2 then some (slotN c.s2) else none) (vrunCount c iss) tag ∧
        (c.tag ≠ 0 → tag = c.tag) ∧ (∀ i ∈ ([.elementFire, .steerRoute, .mergeTake, .carryTake] : List Instr), .happen i { tile := s.focus.tile, unit := 255 } ∈ t.pending) ∧
        .happen .vrunEnd { tile := s.focus.tile } ∈ t.pending)

/-- R95, R137 to R140, R263, R268, R354, R383: one move of a `vrun`. A stage without an operation passes its token; an element whose inputs all
stand fires and its result goes to its arcs; a steer takes a token with its decision; a merge takes the input its decision names; a carry
takes the flit at the head of its VC for every lane of its mask, but no further segment while a save stops the run; what has moved stays
where it is for the rest of the clk (R384); of the two control tokens of a merge the stage input's goes on, an EOT with the number of data
tokens that the merge has forwarded in the segment (which token is the model's choice: assumption 180); a run with nothing left in it ends,
its counts added and its destination tagged, its side words cleared but for Q4. -/
def Obligations.StreamMoves : Prop :=
  ∀ (s : State) (x : Stream) (iss : Issue) (ws : List Wave) (dst : List Nat) (dvc svc : Option SlotId) (left : Option Nat) (tag : BitVec 5),
    s.here.stream = some x → x.use = .vrun iss ws dst dvc svc left tag →
    let L := s.focus.lane
    let l := x.lanes[L]
    let quiet := fun (t : State) => s.sameBytes t ∧ s.sameFiles t [] [] ∧ s.sameArrays t
    (x.on L = true →
      (∀ h : s.focus.unit < 6,
        let st : Fin 6 := ⟨s.focus.unit, h⟩
        let e := l.elems[st]
        let w := s.here.eWord x L st
        e.stopped = false → e.own = none → e.part = none → e.next = [] → e.eot = false →
        (∀ k, eOp w = 0 → s.here.port1 x L (bndAbove st) = some k → k.kind ≠ 5 →
          ∃ t x', exec .elementFire s = .next t ∧ quiet t ∧ t.here.stream = some x' ∧
            x'.lanes[L].elems[st].own = (if s.here.needOwn x L st then some { k with rest := 1 } else none) ∧
            x'.lanes[L].elems[st].part = (if s.here.needPart x L st then some { k with rest := 1 } else none) ∧ s.here.port1 x' L (bndAbove st) = none) ∧
        (∀ f u, eOp w ≠ 0 → isAcc (eOp w) = false → eOp w ≠ 0x16 → eOp w ≠ 0x22 →
          (∀ i < opReads (eOp w), (s.inputHead s.focus.tile x L st i) ≠ .wait ∧ ∀ k, s.inputHead s.focus.tile x L st i = .tok k → k.kind = 0) →
          State.fireData { s.unpost .elementFire s.focus with draws := s.draws + 1 } s.focus.tile iss.ctx w ((assocGet (s.here.plane x e.swapped).consts (eCidx w)).getD 0)
            ((List.range (opReads (eOp w))).map fun i => match s.inputHead s.focus.tile x L st i with
              | .tok k => k.val.setWidth 32 | .imm v => if eIn w i = 3 ∧ constInput w ≠ some i then e.last.getD v else v | .wait => 0) = .ok (f, u) →
          ∃ t x' r, exec .elementFire s = .next t ∧ t.here.stream = some x' ∧ x'.lanes[L].elems[st].last = some f.val ∧
            x'.lanes[L].elems[st].own =
              (if s.here.needOwn x L st then some { kind := 0, val := f.val.setWidth 96, bool := f.bool, nth := e.outs, rest := r } else none) ∧
            (s.dies[dieOf s.focus.tile].margin = false → r = opClk (eOp w)) ∧ u.sameBytes t)) ∧
      (∀ h : s.focus.unit < 7,
        let b : Fin 7 := ⟨s.focus.unit, h⟩
        let w := s.here.rWord x L b
        (∀ k, rKind w = 1 → l.bnd[b] = none → l.above b = some k → k.kind = 0 → l.decisions[rId w].length < 64 →
          ∃ t x', exec .steerRoute s = .next t ∧ quiet t ∧ t.here.stream = some x' ∧ x'.lanes[L].bnd[b] = some { k with rest := 1 } ∧ x'.lanes[L].side[b] = !k.bool ∧
            x'.lanes[L].decisions[rId w] = (if x.img.paired (rId w) then l.decisions[rId w] ++ [some k.bool] else l.decisions[rId w])) ∧
        (∀ k ds, rKind w = 2 → l.bnd[b] = none → ¬ (b = 6 ∧ l.took6 = true) → l.dead[b] = false → rIn2Vc w = false → ∀ hi : rTarget w < 4,
          l.decisions[rTarget w] = some true :: ds → l.above b = some k →
          ∃ t x', exec .mergeTake s = .next t ∧ quiet t ∧ t.here.stream = some x' ∧ 
            x'.lanes[L].bnd[b] = some { k with
              val := (if k.kind = 2 then BitVec.ofNat 96 (k.val.toNat % 2 ^ 48 + l.merged[b] % 2 ^ 32 * 2 ^ 64) else k.val), rest := 1 } ∧
            x'.lanes[L].merged[b] = (if k.kind = 0 then l.merged[b] + 1 else if k.kind = 1 ∨ k.kind = 2 then 0 else l.merged[b]) ∧ x'.lanes[L].decisions[rTarget w] = ds) ∧
        (∀ n ds k v, rKind w = 2 → l.bnd[b] = none → ¬ (b = 6 ∧ l.took6 = true) → l.dead[b] = false → rIn2Vc w = false → ∀ hi : rTarget w < 4,
          l.decisions[rTarget w] = none :: ds → l.above b = some k → k.kind = 2 → k.val.toNat % 2 ^ 48 = n → (s.in2 s.focus.tile x L b).isSome →
          (∀ q, s.in2 s.focus.tile x L b = some q → q.1.kind = 2) → v = n + l.merged[b] % 2 ^ 32 * 2 ^ 64 →
          ∃ t x', exec .mergeTake s = .next t ∧ quiet t ∧ t.here.stream = some x' ∧
            x'.lanes[L].bnd[b] = some { k with val := BitVec.ofNat 96 v, rest := 1 } ∧ x'.lanes[L].merged[b] = 0) ∧
        (∀ f fs, rKind w = 3 → rSep w = false → s.isBuffer s.focus.tile (rVc w) = false → (s.vchan s.focus.tile (rVc w)).q = f :: fs →
          x.carTook[b] = none → x.steered[rVc w] < (f :: fs).length → (f.kind = 4 → s.rotates s.focus.tile x = false) →
          (f.kind ≠ 1 ∨ s.sourcePauses s.focus.tile x L = false) →
          (∀ M ∈ x.lanesOf f, x.lanes[M].bnd[b] = none) →
          ∃ t x', exec .carryTake s = .next t ∧ quiet t ∧ t.here.stream = some x' ∧ (t.vchan s.focus.tile (rVc w)).q = fs ∧
            ∀ M, x'.lanes[M].bnd[b] = if M ∈ x.lanesOf f then some { f.tok M with rest := 1 } else x.lanes[M].bnd[b]))) ∧
    (x.sourceDone = true → (∀ M ∈ x.active, x.lanes[M].empty = true) → x.img.loops = [] → s.alive iss = true → iss.tile = s.focus.tile →
      iss.follow = false →
      ∃ t, exec .vrunEnd s = .next t ∧ t.here.stream = none ∧ t.here.chain = s.here.chainNext.getD s.here.chain ∧
        (∀ r < 64, (t.here.vreg r).data = (s.here.vreg r).data ∧ (t.here.vreg r).side = (if r ∈ dst.map (· % 64) ∧ tag ≠ 6 then 0 else (s.here.vreg r).side) ∧
          (t.here.vreg r).tag = (if r ∈ dst.map (· % 64) then tag else (s.here.vreg r).tag)) ∧
        (∀ j : Fin 16, (t.slot s.focus.tile iss.slot).cnt[j] = satAdd32 (s.slot s.focus.tile iss.slot).cnt[j] x.counts[j].toNat) ∧
        s.sameBytes t ∧ s.sameFiles t [] [])

/-- R101, R149, R152 to R154, R157, R161, R166, R167: a matrix command that passes its checks at queue entry, an `mnm` with its positions in
order, stands at the end of the queue with its operands as they are then, a drain with its draws; behind others it waits its turn, and a
full queue blocks its slot. At the head a swap exchanges the planes, a clear zeroes the z registers of its mask, a drain writes its rows and
may clear them, and a load or a multiplying command owes its next happening. -/
def Obligations.MatrixCommandsAreQueued : Prop :=
  ∀ (s : State) (c : Cmd) (i : Instr) (chk : Issue → State → Except Stop Unit),
    (i, chk) ∈
        ([(.mls c, chkMls c), (.mswp c, noChk), (.mst c, chkMst c), (.msc c, chkMsc c), (.mnm c, chkMnm c), (.mintDot c, chkSparse c),
          (.mdr c, chkMdr c), (.mclr c, noChk), (.mintCnt c, chkSparse c), (.mintScan c, chkScan c)] :
          List (Instr × (Issue → State → Except Stop Unit))) →
    s.commandFree i c [] → chk s.issue s = .ok () →
    (i = .mnm c → (mnmRows (((s.block s.issue c c.s2).head?.map (·.tag)).getD 0) ((slotVal c.s5).toNat % 4) (s.block s.issue c c.s2)
      (s.block s.issue c c.s3)).isSome = true) →
    let quiet := fun (t : State) => t.cur.pc = s.cur.pc + 16 ∧ s.sameBytes t ∧ s.sameFiles t [] [] ∧ s.sameTasks t
    let draws := s.takeDraws s.focus.tile (if ctlSel c = 2 then 0 else ctlMode c) (32 * mdrRows c)
    (4 ≤ s.here.matQ.length → exec i s = .next (s.blockSlot .fullPort)) ∧
    (s.here.matQ ≠ [] → s.here.matQ.length < 4 →
      ∃ t q, exec i s = .next t ∧ quiet t ∧ (i ≠ .mdr c → s.sameArrays t) ∧
        (i = .mdr c → s.sameButV t ∧ t.here.v = s.here.v ∧ q.draws = draws.1 ∧ t.here.lfsr = draws.2.here.lfsr) ∧
        t.here.matQ = s.here.matQ ++ [q] ∧ q.instr = i ∧ q.iss = s.issue ∧ q.done = 0 ∧
        q.regs = (match i with | .mst _ => if isV c.s2 then s.block s.issue c c.s2 else [] | .mnm _ => s.block s.issue c c.s2 | _ => []) ∧
        q.idxs = (match i with | .mnm _ => s.block s.issue c c.s3 | _ => [])) ∧
    (s.here.matQ = [] →
      (i = .mswp c → ∃ t, exec i s = .next t ∧ quiet t ∧ t.here.active = s.here.shadow ∧ t.here.shadow = { s.here.active with loaded := false } ∧
        t.here.matQ = [] ∧ t.here.z = s.here.z ∧ t.here.v = s.here.v) ∧
      (i = .mclr c → ∃ t, exec i s = .next t ∧ quiet t ∧ t.here.matQ = [] ∧ t.here.v = s.here.v ∧ t.here.active = s.here.active ∧
        ∀ (z : Fin 4) (r k : Fin 32), t.here.z[z][r][k] = if immN c.s1 / 2 ^ z.val % 2 = 1 then {} else s.here.z[z][r][k]) ∧
      (i = .mdr c →
        let regs := blockRegs c (slotV c.s1)
        let rows := mdrRows c
        let row0 := s.issue.xOrImm c.s3 0
        let cells := (List.range rows).flatMap fun r => (s.here.z[slotZ c.s2][(row0 + r) % 32]'(Nat.mod_lt _ (Nat.zero_lt_succ _))).toList
        let out := (cells.zip draws.1).map fun (x, d) => (drainCell c.tag (ctlSel c) (ctlMode c) s.issue c.s4 x d).code
        ∃ t, exec i s = .next t ∧ quiet t ∧ t.here.matQ = [] ∧ t.here.active = s.here.active ∧
          t.here.v = (s.here.setVs regs ((chunks (regs.map fun _ => if tagWidth c.tag = 32 then 16 else 32) out).map (mkReg c.tag))).v ∧
          (∀ z : Fin 4, z ≠ slotZ c.s2 → t.here.z[z] = s.here.z[z]) ∧
          ∀ k : Fin 32, t.here.z[slotZ c.s2][k] =
            if ctlClear c = true ∧ row0 ≤ k.val ∧ k.val < row0 + rows then Vector.replicate 32 {} else s.here.z[slotZ c.s2][k]) ∧
      (i = .mls c → ∃ t, exec i s = .next t ∧ quiet t ∧ s.sameArrays t ∧ t.here.matQ.length = 1 ∧ .happen .mlsLoaded { tile := s.focus.tile } ∈ t.pending) ∧
      ((i = .mst c ∨ i = .msc c ∨ i = .mnm c ∨ i = .mintDot c ∨ i = .mintCnt c ∨ i = .mintScan c) →
        ∃ t, exec i s = .next t ∧ quiet t ∧ s.sameArrays t ∧ t.here.matQ.length = 1 ∧ .happen .zRowLand { tile := s.focus.tile } ∈ t.pending))

/-- R155, R156, R158, R159: the array works. An `mls` from an m register loads the shadow plane; a row of activations is multiplied with the
active plane and accumulated into its row of z, cell by cell; the two halves of a pair meet; a half left alone is abandoned, unless a save
has stopped its time. (How a half is told that its partner ended without it is the model's reading, assumption 129.) -/
def Obligations.MatrixArrayWorks : Prop :=
  ∀ (s : State) (q : MatCmd),
    let t0 := s.focus.tile
    (∀ c, s.here.matQ = [q] → q.instr = .mls c → q.vcs = [] →
      ∃ t, exec .mlsLoaded s = .next t ∧ t.here.shadow = { data := q.mreg.data, tag := mlsTag c q.mreg, loaded := true } ∧ t.here.matQ = [] ∧
        t.here.active = s.here.active ∧ t.here.z = s.here.z ∧ t.here.v = s.here.v ∧ t.here.m = s.here.m ∧ s.sameBytes t ∧ s.sameFiles t [] []) ∧
    (∀ c vc vcs f fs, s.here.matQ = [q] → q.instr = .mls c → q.vcs = vc :: vcs → (s.vchan t0 vc).q = f :: fs → f.kind = 0 → q.done < 31 →
      ∃ t q', exec .mlsLoaded s = .next t ∧ t.here.matQ = [q'] ∧ q'.done = q.done + 1 ∧ (t.vchan t0 vc).q = fs ∧
        q'.mreg.data = q.mreg.data ||| (f.data.setWidth 16384 <<< (512 * q.done)) ∧ s.sameBytes t ∧ s.sameFiles t [] [] ∧ s.sameArrays t) ∧
    (∀ c l a (h : q.iss.xOrImm c.s3 0 + q.done < 32), s.here.matQ = q :: l → q.instr = .mst c → q.vcs = [] → q.ready = false → q.paired = false →
      (q.regs.flatMap (regRows q.actTag))[q.done]? = some a → q.done + 1 < (q.regs.flatMap (regRows q.actTag)).length →
      pairsWith q.actTag s.here.active.tag = true → q.iss.tile = t0 →
      let z := slotZ c.s1
      let r : Fin 32 := ⟨q.iss.xOrImm c.s3 0 + q.done, h⟩
      ∃ t q' l', exec .zRowLand s = .next t ∧ t.here.matQ = q' :: l' ∧ l' = l ∧ q'.instr = q.instr ∧ q'.done = q.done + 1 ∧
        (∀ j : Fin 32,
          let prods := products ((List.range 32).map fun k => (a.getD k .fallow, s.here.active.weight k j.val))
          t.here.z[z][r][j] = (accum (s.here.z[z][r][j]) (treeOf prods).1.1 (prods.filter (· != .fallow)).length).1) ∧
        (∀ (y : Fin 4) (k : Fin 32), ¬ (y = z ∧ k = r) → t.here.z[y][k] = s.here.z[y][k]) ∧ t.here.v = s.here.v ∧ t.here.active = s.here.active ∧
        .happen .zRowLand { tile := t0 } ∈ t.pending ∧ s.sameBytes t ∧ s.sameFiles t [] []) ∧
    (∀ u, isHome t0 = true → s.here.pairLost = 0 → (s.tile (partner t0)).pairLost = 0 → s.here.owner = (s.tile (partner t0)).owner → s.here.matQ = [q] → (s.tile (partner t0)).matQ = [u] → q.paired = true →
      q.ready = true → u.paired = true → u.ready = true → slotZ q.cmd.s1 = slotZ u.cmd.s1 →
      (q.part.map (·.row) = u.part.map (·.row) →
        ∃ t, exec .pairStageArrive s = .next t ∧ t.here.matQ = [] ∧ (t.tile (partner t0)).matQ = [] ∧ t.here.pairIn = none ∧
          t.here.z = ((((s.unpost .pairStageArrive s.focus).modTile t0 fun T => { T with pairIn := none }).joinPair t0 q (slotZ u.cmd.s1) u.part).tile t0).z ∧
          t.engineFaults = s.engineFaults ∧ s.sameBytes t ∧ s.sameFiles t [] []) ∧
      (q.part.map (·.row) ≠ u.part.map (·.row) →
        ∃ t e f, exec .pairStageArrive s = .next t ∧ t.here.matQ = [] ∧ (t.tile (partner t0)).matQ = [] ∧ s.sameArrays t ∧
          t.engineFaults = s.engineFaults ++ [e, f] ∧ e.code = .pairAbandoned ∧ f.code = .pairAbandoned ∧ e.iss = q.iss ∧ f.iss = u.iss)) ∧
    (∀ d, s.here.matQ = [q] → q.paired = true → q.ready = true → s.here.pairLost = 0 → s.here.pairDeadline = some d → d ≤ s.clk → s.savesFor q.iss = false →
      ∃ t e, exec .pairTimeout s = .next t ∧ t.here.matQ = [] ∧ t.engineFaults = s.engineFaults ++ [e] ∧ e.code = .pairAbandoned ∧ e.iss = q.iss ∧
        (t.tile (partner t0)).pairLost = (s.tile (partner t0)).pairLost + 1 ∧ .happen .pairTimeout { tile := partner t0 } ∈ t.pending ∧
        s.sameBytes t ∧ s.sameFiles t [] [] ∧ s.sameArrays t)

/-- R226 to R230, R233, R235: `cpy`, `cpym` and `mcst` whose checks pass put one copy behind the others of its channel: one row of the given
addresses and length, its reply opened, a follow-on held, and for `mcst` the tile's switch box set to the branches. -/
def Obligations.CopiesAreIssued : Prop :=
  ∀ (s : State) (c : Cmd) (w : Cmd128),
    let iss := s.issue
    let d := dieOf s.focus.tile
    let row := fun (dst : Nat) => ({ src := (iss.getX (slotX c.s2)).toNat, dst, len := iss.xOrImm c.s3 0 } : CopyRow)
    let issued := fun (i : Instr) (extra : List XReg) (chk : Except Stop Unit) (len : Nat) (n : Fin 64) (to' : CopyDst) (r : CopyRow)
        (follow : Option Cmd128) (more : State → Prop) =>
      s.commandFree i c extra → chk = .ok () →
      ∃ t k, exec i s = .next t ∧ (t.dies[d].ch[n]).q = (s.dies[d].ch[n]).q ++ [k] ∧ (∀ m : Fin 64, m ≠ n → t.dies[d].ch[m] = s.dies[d].ch[m]) ∧
        k.id = s.nextCopy ∧ k.iss = iss ∧ k.dst = to' ∧ k.rows = (if r.len = 0 then [] else [r]) ∧ k.count = 0 ∧ k.reply = replyOf iss c.s5 ∧
        k.follow = follow ∧ k.started = false ∧ k.ended = false ∧ .happen .copyStart { die := d, id := s.nextCopy } ∈ t.pending ∧
        t.nextCopy = s.nextCopy + 1 ∧ t.cur.pc = s.cur.pc + BitVec.ofNat 16 len ∧ s.sameBytes t ∧ s.sameFiles t [] [] ∧ s.sameArrays t ∧ s.sameTasks t ∧ more t
    (∀ dst : Nat, dst = (if isX c.s1 then (iss.getX (slotX c.s1)).toNat else 0) →
      issued (.cpy c) (replyRegs c.s5) (chkCpy c iss s) 16 (slotCc (if isX c.s1 then c.s4 else c.s1)) (if isX c.s1 then .mem else .chan) (row dst) none
        (fun _ => True)) ∧
    issued (.cpym c w) (replyRegs c.s5 ++ followRegs w) (chkCpym c w iss s) 32 (slotCc c.s1) .chan
      (row (if isX c.s1 then (iss.getX (slotX c.s1)).toNat else 0)) (some w) (fun _ => True) ∧
    issued (.mcst c) (replyRegs c.s5) (chkMcst c iss s) 16 (slotCc c.s4) .mcst (row 0) none
      (fun t => t.here.mcst = some { copy := s.nextCopy, branches := mcstBranches (iss.getX (slotX c.s1)) })

/-- R227, R228, R230 to R234, R236, R245: copies move. A copy starts in its turn; a memory copy writes its next bytes as they were read; a
delivery sends its next flit once its channel has room; the end-of-tile token follows the data and the reply follows the token and the
replies of earlier copies; a stored template is read and becomes the copy's rows; a held follow-on enters the matrix queue once the last
flit has landed; a multicast flit every branch has room for is accepted by all. -/
def Obligations.CopiesMove : Prop :=
  ∀ (s : State) (n : Fin 64) (k : Copy),
    let d := s.focus.die
    let id := s.focus.id
    let quiet := fun (t : State) => s.sameFiles t [] [] ∧ s.sameArrays t
    (s.copy? d id = some (n, k) →
      (k.started = false → k.blighted = false → k.templ = none → s.copyTurn d n id = true →
        ∃ t, exec .copyStart s = .next t ∧ t.copy? d id = some (n, { k with started := true }) ∧ quiet t ∧ s.sameBytes t) ∧
      (∀ r rs pa sc pb sc', k.started = true → k.rows = r :: rs → k.dst = .mem → Memory.wf s.mem = true → s.eccError = false →
        s.locateRange k.iss.ctx k.iss.tile r.src r.chunk { read := true, engine := true } = .ok [(.dev pa false sc, r.chunk)] →
        s.locateRange k.iss.ctx k.iss.tile r.dst r.chunk { write := true, engine := true } = .ok [(.dev pb false sc', r.chunk)] →
        ∃ t, exec .copyFlitDeliver s = .next t ∧ quiet t ∧
          t.copy? d id = some (n, { k with rows := passRows r.chunk k.rows, count := k.count + r.chunk }) ∧
          ∀ x, Memory.get t.mem x = if pb ≤ x ∧ x < pb + r.chunk then Memory.get s.mem (pa + (x - pb)) else Memory.get s.mem x) ∧
      (∀ r rs x vc bs, k.started = true → k.rows = r :: rs → k.dst = .chan → s.dies[d].ch[n].bind = some (x, vc) → s.vcRoom x vc = true → s.savingCtx k.iss.ctx = false →
        (s.unpost .copyFlitDeliver s.focus).copyRead k.iss.ctx k.iss.tile r.src 64 = .ok bs →
        ∃ t, exec .copyFlitDeliver s = .next t ∧ quiet t ∧ s.sameBytes t ∧
          t.copy? d id = some (n, { k with rows := passRows 64 k.rows, count := k.count + 1 }) ∧
          ∀ y, t.vchan y = ((s.unpost .copyFlitDeliver s.focus).sendSeg x vc { kind := 0, data := BitVec.ofNat 512 (leNat bs) }).vchan y) ∧
      (k.ended = false → k.rows = [] → k.templ = none → s.copyTurn d n id = true → k.dst ≠ .mcst →
        ∃ t, exec .copyEndOfTile s = .next t ∧ t.copy? d id = some (n, { k with ended := true }) ∧ quiet t ∧ s.sameBytes t ∧
          (k.replied = false → .happen .copyReply { die := dieOf k.iss.tile, id } ∈ t.pending) ∧
          (∀ x vc, k.dst = .chan → k.blighted = false → s.dies[d].ch[n].bind = some (x, vc) →
            ∀ y, t.vchan y = ((s.unpost .copyEndOfTile s.focus).sendSeg x vc { eotFlit 0 k.count with tileEnd := true }).vchan y)) ∧
      (∀ x vc, k.ended = true → k.replied = false → s.replyTurn d n id = true → k.follow = none → k.reply = .vc x vc →
        ∃ t, exec .copyReply s = .next t ∧ t.copy? d id = none ∧ quiet t ∧ s.sameBytes t ∧
          ∀ y, t.vchan y = ((s.unpost .copyReply s.focus).sendWord x vc (replyWord (if k.blighted then 1 else 0) k.count)).vchan y) ∧
      (∀ w i c u, k.follow = some w → k.started = true → k.rows = [] → s.flitsLanded k.iss.tile n = true → (s.tile k.iss.tile).matQ.length < 4 → k.replied = false → i = decodeCommand w 0 →
        let r := s.unpost .cpymFollowOn s.focus
        followCheck i { k.iss with follow := true } r = .ok c → effMat i c { k.iss with follow := true } r = .ok u →
        exec .cpymFollowOn s = .next (u.modCopy d id fun k => { k with follow := none }))) ∧
    (∀ a cid T u, s.here.access? id = some a → storeReady s.here a = true → commitReady s.here a = true → a.kind = .aperture cid →
      s.copy? (dieOf s.focus.tile) cid = some (n, k) →
      ((s.unpost .templateCopy s.focus).modTile s.focus.tile fun T => T.dropAccess a.id).readTemplate k.iss n (k.templ.getD 0) = .ok (T, u) →
      ∃ t k', exec .templateCopy s = .next t ∧ t.copy? (dieOf s.focus.tile) cid = some (n, k') ∧ k'.templ = none ∧
        k'.dst = (if T.toChan then .chan else .mem) ∧ k'.rows = T.rows.filter (·.len != 0) ∧ k'.reply = T.reply ∧
        t.here.access? id = none ∧ quiet t ∧ s.sameBytes t) ∧
    (∀ m r rs bs, s.here.mcst = some m → s.copy? (dieOf s.focus.tile) m.copy = some (n, k) → k.rows = r :: rs → k.started = true → m.flit = none →
      m.accepted = [] → m.branches ≠ [] → s.savingCtx k.iss.ctx = false → (∀ b ∈ m.branches, s.vcFree b.2.1 b.2.2 = true) →
      (s.unpost .mcstFlitAccept s.focus).copyRead k.iss.ctx s.focus.tile r.src 64 = .ok bs →
      ∃ t m', exec .mcstFlitAccept s = .next t ∧ t.here.mcst = some m' ∧ m'.accepted = [] ∧ m'.flit = none ∧ m'.branches = m.branches ∧
        t.copy? (dieOf s.focus.tile) m.copy = some (n, { k with rows := passRows 64 k.rows, count := k.count + 1 }) ∧ quiet t ∧ s.sameBytes t)

/-- R238 to R242: the address generators. `gath` and `scat` start a node on their coordinates, base and bound, `agc` loads a node's descriptor,
`seg` starts its segments; then a node gathers one element, scatters one pair, opens a segment, or ends and replies; it begins nothing while
a save stops it, and no segment of a graph that stops (R243, R284). -/
def Obligations.AddressGenerators : Prop :=
  ∀ (s : State) (c : Cmd),
    let iss := s.issue
    let t0 := s.focus.tile
    let quiet := fun (t : State) => t.cur.pc = s.cur.pc + 16 ∧ s.sameBytes t ∧ s.sameFiles t [] [] ∧ s.sameArrays t ∧ s.sameStatus t
    let owed := fun (t : State) (n : Fin 4) => .happen .agValueReturn { tile := t0, unit := n.val } ∈ t.pending
    (s.commandFree (.gath c) c [] → chkGath c iss s = .ok () →
      ∃ t a u, exec (.gath c) s = .next t ∧ quiet t ∧ (t.here.ag[agNodeOf c]).cmd = some a ∧ owed t (agNodeOf c) ∧ a.instr = .gath c ∧ a.iss = iss ∧
        a.fmt = c.tag ∧ a.base = (iss.getX (slotX c.s2)).toNat ∧ a.bound = (if c.s4 = 0 then none else some (iss.xOrImm c.s4 0)) ∧
        a.crd = (if isV c.s3 then (s.block iss c c.s3).flatMap (elems 0x10) else []) ∧ a.vcs = (if isVc c.s3 then [slotN c.s3] else []) ∧
        gathOut c iss s = .ok u ∧ a.out = some u ∧ a.count = 0) ∧
    (s.commandFree (.scat c) c [] → chkScat c iss s = .ok () →
      ∃ t a, exec (.scat c) s = .next t ∧ quiet t ∧ (t.here.ag[agNodeOf c]).cmd = some a ∧ owed t (agNodeOf c) ∧ a.instr = .scat c ∧ a.iss = iss ∧
        a.fmt = c.tag ∧ a.base = (iss.getX (slotX c.s1)).toNat ∧ a.bound = (if c.s4 = 0 then none else some (iss.xOrImm c.s4 0)) ∧
        a.crd = (if isV c.s2 then (s.block iss c c.s2).flatMap (elems 0x10) else []) ∧
        a.vals = (if isV c.s3 then (s.block iss c c.s3).flatMap (elems c.tag) else []) ∧ a.reply = agReply c iss ∧ a.out = none ∧ a.count = 0) ∧
    (∀ w, s.commandFree (.agc c) c [] → chkAgc c iss s = .ok () → readAgDesc (iss.getX (slotX c.s2)).toNat iss s = .ok w →
      ∃ t, exec (.agc c) s = .next t ∧ quiet t ∧ t.here.ag[immNode c.s1] = { (s.here.ag[immNode c.s1]) with desc := some w, next := 0 }) ∧
    (∀ d, s.commandFree (.seg c) c [] → segCheck c iss s = .ok d →
      ∃ t a, exec (.seg c) s = .next t ∧ quiet t ∧ (t.here.ag[immNode c.s1]).cmd = some a ∧ owed t (immNode c.s1) ∧ a.instr = .seg c ∧ a.fmt = d.tag ∧
        a.out = some (d.tile, d.vc) ∧ a.segsLeft = iss.xOrImm c.s3 0 ∧ a.tick = (iss.getX (slotX c.s2)).toNat ∧ a.started = false ∧
        (t.here.ag[immNode c.s1]).next = (s.here.ag[immNode c.s1]).next) ∧
    (∀ (h : s.focus.unit < 4) a, (s.here.ag[s.focus.unit]).cmd = some a →
      let n : Fin 4 := ⟨s.focus.unit, h⟩
      let r := s.unpost .agValueReturn s.focus
      let moves := fun (a : AgCmd) => a.started = true ∨ s.savingCtx a.iss.ctx = false
      (∀ c' u vc k rest v, a.instr = .gath c' → a.out = some (u, vc) → s.vcRoom u vc = true → a.vcs = [] → a.crd = k :: rest → k ≠ 0xFFFFFFFF →
        (∀ b, a.bound = some b → k < b) → a.buf.length + 1 < tagCount a.fmt → moves a →
        r.agRead a (a.base + k * elemBytes a.fmt) = .ok v →
        ∃ t, exec .agValueReturn s = .next t ∧ owed t n ∧ s.sameBytes t ∧ s.sameFiles t [] [] ∧ s.sameArrays t ∧
          (t.here.ag[n]).cmd = some { a with started := true, crd := rest, buf := a.buf ++ [v], k := a.k + 1, count := a.count + 1 }) ∧
      (∀ k ks v vs pa sc, a.out = none → a.vcs = [] → a.crd = k :: ks → a.vals = v :: vs → k ≠ 0xFFFFFFFF → (∀ b, a.bound = some b → k < b) →
        a.spadOnly = false → Memory.wf s.mem = true → s.eccError = false → moves a →
        s.locateRange a.iss.ctx a.iss.tile (a.base + k * elemBytes a.fmt) (elemBytes a.fmt) { write := true, engine := true } =
          .ok [(.dev pa false sc, elemBytes a.fmt)] →
        ∃ t, exec .agValueReturn s = .next t ∧ owed t n ∧ s.sameFiles t [] [] ∧ s.sameArrays t ∧
          (t.here.ag[n]).cmd = some { a with started := true, crd := ks, vals := vs, k := a.k + 1, count := a.count + 1 } ∧
          leNat (Memory.read t.mem pa (elemBytes a.fmt)) = v % 2 ^ (8 * elemBytes a.fmt) ∧
          ∀ x, (x < pa ∨ pa + elemBytes a.fmt ≤ x) → Memory.get t.mem x = Memory.get s.mem x) ∧
      (∀ u vc, a.out = none → a.vcs = [] → a.crd = [] → a.reply = .vc u vc → moves a →
        ∃ t, exec .agValueReturn s = .next t ∧ (t.here.ag[n]).cmd = none ∧ s.sameBytes t ∧ s.sameFiles t [] [] ∧
          ∀ y, t.vchan y = ((r.freeNode t0 n).sendWord u vc (replyWord 0 a.count)).vchan y) ∧
      (∀ c' w u vc, a.instr = .seg c' → (s.here.ag[n]).desc = some w → a.out = some (u, vc) → s.vcRoom u vc = true → a.started = false →
        a.segsLeft ≠ 0 → s.savingCtx a.iss.ctx = false → s.sourceHeld u vc = false → (agDescOf w).size (s.here.ag[n]).next < 2 ^ 32 →
        ∃ t, exec .agValueReturn s = .next t ∧ owed t n ∧ (t.here.ag[n]).cmd = some { a with started := true, k := 0, count := 0 } ∧
          s.sameBytes t ∧ s.sameFiles t [] [] ∧ ∀ y, t.vchan y = (r.sendSeg u vc (sotFlit a.tick)).vchan y))

/-- R252, R253: the rules that compute. A rule of a running walk below its limit counts one step and notes its index; it changes the named
register or the condition, and goes on at the next rule, at its target, or past the next. R248, R249, R253, R254, R256, R258: the rules that
read or end. `wk.ldw`, `wk.nxt`, `wk.emit` and `wk.lr` under `lt` or `gt` wait for their words at the walker of the stack that holds them,
or for a hand-off to it, or, where the walker's TLB lacks the page, for its translation; `wk.miss` ends the walk; a failed `wk.chk`, an
address that cannot be read and an unassigned word end it, under policy 0 with a reply. -/
def Obligations.WalkRules : Prop :=
  (∀ (s : State) (w : Walk), s.walk? s.focus.walk = some w → w.phase = .running → w.rule ≤ 31 → w.steps ≠ w.limit →
    ∀ (d a b : BitVec 3) (i : BitVec 2) (h sh : BitVec 6) (mk : BitVec 8) (im : BitVec 17) (t5 : BitVec 5) (m : BitVec 4),
      let x := w.reg a
      let y := w.reg b
      let goes := fun (i : Instr) (pc : Nat) (f : Walk → Walk) =>
        ∃ t, exec i s = .next t ∧ t.walk? s.focus.walk = some (f { w with steps := w.steps + 1, last := w.rule, rule := pc }) ∧
          .rule w.walker ∈ t.pending ∧ s.sameBytes t ∧ s.sameFiles t [] [] ∧ s.sameArrays t ∧ s.sameStatus t
      let put := fun (i : Instr) (v : Word) => goes i (w.rule + 1) fun k => k.setReg d v
      let holds := m.getLsbD (match w.cond with | .lt => 0 | .eq => 1 | .gt => 2 | .ne => 3)
      put (.wkLdk d i) (w.key[i.toNat]'(i.isLt)) ∧
      put (.wkHash d a h) ((x * 0x9E3779B97F4A7C15) >>> (63 - h.toNat)) ∧
      put (.wkIdx d a b sh) (BitVec.ofNat 64 (x.toNat + y.toNat * 2 ^ sh.toNat)) ∧
      put (.wkAddImm d a im) (BitVec.ofInt 64 (x.toInt + im.toInt)) ∧
      put (.wkAddReg d a b) (BitVec.ofNat 64 (x.toNat + y.toNat)) ∧
      put (.wkAndImm d a im) (x &&& BitVec.ofInt 64 im.toInt) ∧
      put (.wkAndReg d a b) (x &&& y) ∧
      goes (.wkCmp a b) (w.rule + 1) (fun k => { k with cond := if x.toNat < y.toNat then .lt else if x = y then .eq else .gt }) ∧
      goes (.wkEq a b mk) (w.rule + 1) (fun k => { k with
        cond := if ∀ j : Fin 8, mk.getLsbD j.val = true → x.extractLsb' (8 * j.val) 8 = y.extractLsb' (8 * j.val) 8 then .eq else .ne }) ∧
      goes (.wkJmp t5 m) (if holds then t5.toNat else w.rule + 1) id ∧
      goes (.wkSkip m) (if holds then w.rule + 2 else w.rule + 1) id ∧
      (x.toNat < y.toNat → goes (.wkChk a b) (w.rule + 1) id)) ∧
  (∀ (s : State) (w : Walk), s.walk? s.focus.walk = some w → w.phase = .running → w.rule ≤ 31 → w.steps ≠ w.limit →
    ∀ (d a b n : BitVec 3) (o : BitVec 18) (l r : BitVec 9) (e : BitVec 15) (x : Word32),
      let v := { w with steps := w.steps + 1, last := w.rule }
      let base := (w.reg a).toNat
      let reads := fun (i : Instr) (off : Int) (n d : Nat) (nxt emit : Bool) =>
        let va := wrap64 (base + off)
        let u := { v with phase := .reading va n d nxt emit, place := none, got := [] }
        let quiet := fun (t : State) => exec i s = .next t ∧ s.sameBytes t ∧ s.sameFiles t [] [] ∧ s.sameArrays t ∧ s.sameStatus t
        readable base va n = true →
          (∀ pa ver, s.walkMiss w va = false → s.walkPlace w va = .ok (pa, ver) →
            ∃ t, quiet t ∧ t.walk? s.focus.walk = some { u with parked := false, place := some (pa, ver) } ∧
              .happen (if stackOf pa = w.walker / 8 then .walkMemoryRead else .walkHandoff) { walk := w.id } ∈ t.pending) ∧
          (s.walkMiss w va = true →
            ∃ t, quiet t ∧ t.walk? s.focus.walk = some u ∧ .happen .pageWalkDone { walk := w.id, unit := 1 } ∈ t.pending)
      reads (.wkLdw d a o) o.toInt 1 d.toNat false false ∧
      reads (.wkNxt d a o) o.toInt 1 d.toNat true false ∧
      reads (.wkEmit a n e) e.toInt (n.toNat + 1) 0 false true ∧
      (w.cond = .lt → reads (.wkLr d a l r) (8 * l.toNat) 1 d.toNat false false) ∧
      (w.cond = .gt → reads (.wkLr d a l r) (8 * r.toNat) 1 d.toNat false false) ∧
      (w.cond = .eq ∨ w.cond = .ne → ∃ t, exec (.wkLr d a l r) s = .next t ∧ t.walk? s.focus.walk = some { v with rule := w.rule + 1 }) ∧
      (∃ t, exec .wkMiss s = .next t ∧ t.walk? s.focus.walk = some { v with phase := .replying 2 [] 0 w.rule } ∧
        .happen .walkReply { walk := w.id } ∈ t.pending ∧ s.sameBytes t ∧ s.sameFiles t [] []) ∧
      (w.policy = 0 → ∀ i f, (i, f) ∈
          ([(.wkUnassignedRule x, if 0x0F ≤ x.toNat / 2 ^ 27 then .illegalOp else .illegalField)] ++
            (if (w.reg b).toNat ≤ base then [(.wkChk a b, .walkPointer)] else []) ++
            (if readable base (wrap64 (base + o.toInt)) 1 then [] else [(.wkLdw d a o, .walkPointer), (.wkNxt d a o, .walkPointer)]) : List (Instr × FaultCode)) →
        ∃ t, exec i s = .next t ∧ t.walk? s.focus.walk = some { v with phase := .replying 3 [] f.val w.rule } ∧
          .happen .walkReply { walk := w.id } ∈ t.pending ∧ s.sameBytes t ∧ s.sameFiles t [] []))

/-- R247, R249 to R252, R254, R256 to R259, R396: the course of a walk. The command enters it with its root, key, limit and policy; a walker
with room takes the first one queued at its die and reads its rule program; a hand-off moves it; a read that missed the walker's TLB, the
program's among them, is translated; the words of a read arrive one by one, and with the last it writes its register, follows a pointer or
finds the record; the reply is its header word on the VC it names, and a fallow key is answered with a miss. (A walk queued behind earlier
ones of its stack is the model's choice, assumption 60.) -/
def Obligations.WalksRun : Prop :=
  ∀ (s : State) (c : Cmd),
    let iss := s.issue
    let quiet := fun (t : State) => s.sameFiles t [] [] ∧ s.sameArrays t ∧ s.sameBytes t
    (s.commandFree (.walk c) c (walkRegs c) → chkWalk c iss s = .ok () →
      let root := iss.getX (slotX c.s2)
      let j := s.walkerFor iss root.toNat
      let enters := fun (more : State → Walk → Prop) =>
        ∃ t w, exec (.walk c) s = .next t ∧ quiet t ∧ t.cur.pc = s.cur.pc + 16 ∧ t.nextWalk = s.nextWalk + 1 ∧
          t.here.walksOut = s.here.walksOut + 1 ∧ w ∈ t.walks ∧ w.id = s.nextWalk ∧ w.iss = iss ∧ w.reply = replyOf iss c.s5 ∧ w.key = walkKey c iss s ∧
          (∀ k : Fin 8, w.w[k] = if k = 0 then root else 0) ∧ w.policy = (slotVal c.s4).toNat % 4 ∧ w.limit = (slotVal c.s4).toNat / 4 ∧
          w.rule = 0 ∧ w.steps = 0 ∧ w.cond = .ne ∧ w.fmt = c.tag ∧ more t w
      let ahead := ∃ x ∈ s.walks, x.phase = .queued ∧ x.id < s.nextWalk ∧ s.walkerFor x.iss (x.w[0]).toNat / 8 = j / 8
      (walkFallow c iss s = true → enters fun t w => w.phase = .replying 2 [] 0 0 ∧ .happen .fallowKeyReply { walk := s.nextWalk } ∈ t.pending) ∧
      (walkFallow c iss s = false → 32 ≤ s.owned j ∨ ahead → enters fun t w => w.phase = .queued ∧ .happen .walkDequeue { walk := s.nextWalk } ∈ t.pending) ∧
      let prog := (iss.getX (slotX c.s1)).toNat
      (walkFallow c iss s = false → s.owned j < 32 → ¬ ahead → translated prog = true →
        (findTlb s.walkTlb[walkerIx j] iss.ctx (prog / 65536) = none →
          enters fun t w => w.phase = .fetching ∧ w.owner = some j ∧ w.walker = j ∧ .happen .pageWalkDone { walk := s.nextWalk, unit := 1 } ∈ t.pending) ∧
        ∀ e pa ver d, findTlb s.walkTlb[walkerIx j] iss.ctx (prog / 65536) = some e → leafPerm e.leaf { read := true, engine := true } = true →
          s.leafLoc e.leaf e.level prog = .ok (.dev pa ver d) → s.eccError = false →
          enters fun t w => w.phase = .running ∧ w.owner = some j ∧ w.walker = j ∧
            w.prog = (leWords 4 (s.readLocs [(.dev pa ver d, 128)])).map (fun n => BitVec.ofNat 32 n) ∧ .rule j ∈ t.pending)) ∧
    (∀ w, s.walk? s.focus.walk = some w → w.phase = .queued →
      let r := s.unpost .walkDequeue s.focus
      let j := r.walkerFor w.iss (w.w[0]).toNat
      r.owned j < 32 → (∀ x ∈ s.walks, x.phase = .queued → x.id < w.id → r.walkerFor x.iss (x.w[0]).toNat / 16 ≠ j / 16) →
      exec .walkDequeue s = .next (r.arrive w j)) ∧
    (∀ w va n d nxt emit pa ver, s.walk? s.focus.walk = some w → w.phase = .reading va n d nxt emit → w.place = some (pa, ver) →
      (∃ t, exec .walkHandoff s = .next t ∧ quiet t ∧ .happen .walkMemoryRead { walk := w.id } ∈ t.pending ∧
        t.walk? s.focus.walk = some { w with walker := leastWalker s.present (stackOf pa) }) ∧
      let k := 8 * w.got.length
      let fault := fun (c : FaultCode) => exec .walkMemoryRead s = .next ((s.unpost .walkMemoryRead s.focus).walkFault w c (va + k))
      let read := fun (u : Walk) (more : State → Prop) => ∃ t, exec .walkMemoryRead s = .next t ∧ quiet t ∧ t.walk? s.focus.walk = some u ∧ more t
      (s.walkWord w (pa + k) ver = none → fault .versionReclaimed) ∧
      ∀ x, s.walkWord w (pa + k) ver = some x →
        (s.eccError = true → fault .ecc) ∧
        (s.eccError = false →
          let ws := w.got ++ [x]
          let done := { w with place := none, got := [] }
          (ws.length < n → read { w with got := ws } fun t => .happen .walkMemoryRead s.focus ∈ t.pending) ∧
          (n ≤ ws.length → emit = true → read { done with phase := .replying 0 ws 0 w.rule } fun _ => True) ∧
          (n ≤ ws.length → emit = false → (nxt = true → ws.headD 0 ≠ 0) →
            read { (done.setReg (BitVec.ofNat 3 d) (ws.headD 0)) with phase := .running, rule := w.rule + 1 } fun t => .rule w.walker ∈ t.pending) ∧
          (n ≤ ws.length → emit = false → nxt = true → ws.headD 0 = 0 → read { done with phase := .replying 2 [] 0 w.rule } fun _ => True))) ∧
    (∀ w va, s.focus.unit = 1 → s.walk? s.focus.walk = some w →
      (w.phase = .fetching ∧ va = w.progVa) ∨ (w.place = none ∧ ∃ n d nxt emit, w.phase = .reading va n d nxt emit) →
      (s.walkMissDie w va = true → w.parked = false → s.diePoolFull (walkerDie w.walker) = false →
        ∃ t, exec .pageWalkDone s = .next t ∧ quiet t ∧ t.walk? s.focus.walk = some { w with parked := true } ∧ .happen .pageWalkDone s.focus ∈ t.pending) ∧
      ∀ leaf level, s.walkMissDie w va = false ∨ w.parked = true → s.eccError = false → s.walkLeaf w va = some (leaf, level) →
        let cached := fun (u : Walk) (h : Move) =>
          ∃ t, exec .pageWalkDone s = .next t ∧ quiet t ∧ t.walk? s.focus.walk = some { u with parked := false } ∧
            findTlb t.walkTlb[walkerIx w.walker] w.iss.ctx (va / 65536) = some { ctx := w.iss.ctx, page := va / 65536, level, leaf } ∧ h ∈ t.pending
        (∀ pa ver, w.phase ≠ .fetching → s.walkPlace w va = .ok (pa, ver) →
          cached { w with place := some (pa, ver) } (.happen (if stackOf pa = w.walker / 8 then .walkMemoryRead else .walkHandoff) { walk := w.id })) ∧
        ∀ pa ver d, w.phase = .fetching → leafPerm leaf { read := true, engine := true } = true → s.leafLoc leaf level va = .ok (.dev pa ver d) →
          cached { w with phase := .running, prog := (leWords 4 (s.readLocs [(.dev pa ver d, 128)])).map (fun n => BitVec.ofNat 32 n) } (.rule w.walker)) ∧
    (∀ w status rec fault rule x vc, s.walk? s.focus.walk = some w → w.phase = .replying status rec fault rule → w.reply = .vc x vc →
      ∀ i ∈ ([.walkReply, .fallowKeyReply] : List Instr),
        ∃ t, exec i s = .next t ∧ quiet t ∧ t.walk? s.focus.walk = none ∧ (t.tile w.iss.tile).walksOut = (s.tile w.iss.tile).walksOut - 1 ∧
          ∀ y, t.vchan y = (((s.unpost i s.focus).dropWalk w).sendWord x vc (BitVec.ofNat 64
            (status * 2 ^ 48 + rec.length * 2 ^ 44 + w.steps % 4096 * 2 ^ 32 + fault % 65536 * 2 ^ 16 + rule % 32))).vchan y)

/-- R278 to R284: the graph commands. `gld` whose checks pass puts the image in its slot; `gsh` begins the fetch of a region's shadow words, and
regions that overlap it lose theirs; `grot` raises the region's rotation number and each running tile of it owes its swaps; `gdep` sets an
idle channel's depth, or waits for it to drain; `gstr` begins a start, with every retention floor 0 (R301); `gstp` and `gsw` begin a stop,
or with no graph live are done, or start, at once. (That regions which overlap one being loaded lose their shadow words, that `grot` of a
region with no running tile ends at once, and that a stop with no graph live is done, are the model's choice: assumptions 73, 75 and 82.) -/
def Obligations.GraphCommands : Prop :=
  ∀ (s : State) (c : Cmd) (k : Context),
    let iss := s.issue
    let g := gslotOf c.s1
    let moved := fun (t : State) => t.cur.pc = s.cur.pc + 16 ∧ s.sameFiles t [] [] ∧ s.sameArrays t ∧ s.sameStatus t
    let quiet := fun (t : State) => moved t ∧ s.sameBytes t
    s.ctx? iss.ctx = some k →
    (∀ l, s.commandFree (.gld c) c [] → gldLoad c iss s = .ok l →
      ∃ t k', exec (.gld c) s = .next t ∧ moved t ∧ t.ctx? k.num = some k' ∧ k'.gslots[g] = some l.graph ∧
        (∀ j : Fin 4, j ≠ g → k'.gslots[j] = k.gslots[j]) ∧ t.mem = s.mem ∧
        (∀ x, (t.tile x).istore = (l.code.filter (·.1 == x)).foldl (fun m (_, a, bs) => Memory.write m a bs) (s.tile x).istore) ∧
        (∀ x, (t.tile x).sp = (l.data.filter (·.1 == x)).foldl (fun m (_, a, bs) => Memory.write m a bs) (s.tile x).sp)) ∧
    (∀ r, s.commandFree (.gsh c) c [] → gshRegion c iss s = .ok (k, r) →
      (k.regions.any fun e => bedsMeet e.bed r && (e.shadow == .loading || e.rotating)) = false →
      ∃ t k', exec (.gsh c) s = .next t ∧ quiet t ∧ t.ctx? k.num = some k' ∧
        k'.region r = { k.region r with shadow := .loading, src := g.val, reply := greply iss c.s3, issuer := some iss } ∧
        (∀ e ∈ k.regions, e.bed ≠ r → (if bedsMeet e.bed r then { e with shadow := .empty } else e) ∈ k'.regions) ∧
        .happen .shadowLoaded { ctx := k.num, id := r.toNat } ∈ t.pending) ∧
    (∀ e, s.commandFree (.grot c) c [] → grotRegion c iss s = .ok (k, e) → e.shadow = .loaded → e.rotating = false → e.frozen = false →
      let ts := s.rotTiles k e.bed
      ∃ t k', exec (.grot c) s = .next t ∧ t.cur.pc = s.cur.pc + 16 ∧ t.ctx? k.num = some k' ∧ (k'.region e.bed).rotNum = e.rotNum + 1 ∧
        s.sameBytes t ∧ s.sameArrays t ∧
        (ts ≠ [] → (k'.region e.bed).rotating = true → ∀ x ∈ ts, .happen .rotSwap { tile := x, unit := 255, ctx := k.num } ∈ t.pending) ∧
        (ts = [] → (∀ ch ∈ k.liveChans, chanDstt ch.desc ∉ bedTiles e.bed) → (k'.region e.bed).rotating = false ∧ (k'.region e.bed).shadow = .empty ∧
          ∀ y, t.vchan y = (s.sendG (greply iss c.s2) 0 (e.rotNum + 1).toNat).vchan y)) ∧
    (∀ n j ch d, s.commandFree (.gdep c) c [] → gdepCheck c iss s = .ok (k, n, j, ch, d) →
      (s.chanIdle ch = true → ∃ t, exec (.gdep c) s = .next t ∧ quiet t ∧
        ∀ G k', k.gslots[n] = some G → t.ctx? k.num = some k' → ∃ G', k'.gslots[n] = some G' ∧ G'.chans.length = G.chans.length ∧
          ∀ i ch', G.chans[i]? = some ch' → G'.chans[i]? = some (if i = j then { ch' with depth := d, newDepth := none } else ch')) ∧
      (s.chanIdle ch = false → exec (.gdep c) s = .next (s.blockSlot (.drain n.val j d)))) ∧
    (s.commandFree (.gstr c) c [] → k.liveSlot = none → (k.gslots[g]).isSome → k.starting = none →
      ∃ t k', exec (.gstr c) s = .next t ∧ quiet t ∧ t.ctx? k.num = some k' ∧ k'.starting = some { slot := g.val, iss, reply := none } ∧
        k'.liveSlot = none ∧ (∀ p ∈ k'.ports, portSlot p.port = g.val → p.floors = [0, 0, 0]) ∧
        .happen .activeWordsFetched { ctx := k.num } ∈ t.pending) ∧
    (∀ i x, ((i, x) = (.gstp c, (none, greply iss c.s1)) ∨ (i, x) = (.gsw c, (some g.val, greply iss c.s2)) ∧ (k.gslots[g]).isSome) →
      s.commandFree i c [] → k.starting = none → k.stopping = none →
      (∀ n, k.liveSlot = some n → ∃ t k', exec i s = .next t ∧ quiet t ∧ t.ctx? k.num = some k' ∧ k'.liveSlot = some n ∧
        (k'.stopping.map fun z => (z.next, z.reply, z.force)) = some (x.1, x.2, false) ∧ .happen .graphStopped { ctx := k.num } ∈ t.pending) ∧
      (k.liveSlot = none → ∃ t, exec i s = .next t ∧ t.cur.pc = s.cur.pc + 16 ∧ s.sameBytes t ∧ s.sameArrays t ∧
        (x.1 = none → ∀ y, t.vchan y = (s.sendG x.2 0 0).vchan y) ∧
        (∀ n k', x.1 = some n → t.ctx? k.num = some k' → k'.starting = some { slot := n, iss, reply := some x.2 })))

/-- R265, R266, R275, R280 to R284: the fabric's happenings. Shadow words arrive, or their fetch fails; active words arrive and the graph is
live with its landings at index 0; a drained graph stops, with its reply or the next start; a stream-buffer landing writes a data flit with
its sixteen presence bits, or reports a flit it may not write; a graft node forwards once nothing written before is outstanding; a waiting
flit enters its channel; the `gdep` of a drained channel completes; an element with no input of its own left to wait for swaps. (The fault
address of `F_CFG_FETCH`, what a graft node waits for, and the swap of an element without an arc input are the model's choice: assumptions
81, 87 and 76.) -/
def Obligations.FabricMoves : Prop :=
  ∀ (s : State),
    let t0 := s.focus.tile
    let ctx := s.focus.ctx
    let quiet := fun (t : State) => s.sameFiles t [] [] ∧ s.sameArrays t
    (∀ c G iss e, s.ctx? ctx = some c → c.region (BitVec.ofNat 16 s.focus.id) = e → e.shadow = .loading → c.graph? e.src = some G →
      e.issuer = some iss →
      (∀ l, State.fetchTiles (s.unpost .shadowLoaded s.focus) ctx iss.tile G (bedTiles e.bed) = .ok l →
        ∃ t c', exec .shadowLoaded s = .next t ∧ t.ctx? ctx = some c' ∧ (c'.region e.bed).shadow = .loaded ∧ s.sameBytes t ∧ s.sameArrays t ∧
          ∀ x im, l.filter (·.1 == x) = [(x, im)] → (t.tile x).shadowChain = some im ∧ (t.tile x).chain = (s.tile x).chain) ∧
      (State.fetchTiles (s.unpost .shadowLoaded s.focus) ctx iss.tile G (bedTiles e.bed) = .error () →
        ∃ t c' f, exec .shadowLoaded s = .next t ∧ t.ctx? ctx = some c' ∧ (c'.region e.bed).shadow = .failed ∧
          t.engineFaults = s.engineFaults ++ [f] ∧ f.code = .cfgFetch ∧ f.addr = BitVec.ofNat 64 G.image ∧ f.iss = iss ∧ s.sameBytes t ∧
          s.sameArrays t)) ∧
    (∀ c b (g : Fin 4) G, s.ctx? ctx = some c → c.starting = some b → b.slot = g.val → c.gslots[g] = some G →
      (G.tiles.all fun x => (s.tile x).stream.isNone && !(s.tile x).stages.toList.any Option.isSome) = true →
      (∀ ch ∈ G.chans, ∀ x, chanGroup ch.desc ≠ 0 → chanBox ch.desc = some x → (s.tile x).mcst = none) →
      (∀ l, State.fetchTiles (s.unpost .activeWordsFetched s.focus) ctx b.iss.tile G G.tiles = .ok l →
        ∃ t c' G', exec .activeWordsFetched s = .next t ∧ t.ctx? ctx = some c' ∧ c'.liveSlot = some g.val ∧ c'.starting = none ∧ c'.statK = 0 ∧
          c'.graphJob = b.iss.job ∧ c'.gslots[g] = some G' ∧ (∀ ch ∈ G'.chans, ch.index = 0 ∧ ch.frozen = false) ∧
          (c'.ports.map fun p => (p.port, p.floors)) = (c.ports.map fun p => (p.port, p.floors)) ∧
          (∀ x im, l.filter (·.1 == x) = [(x, im)] → (t.tile x).stream = some { use := .graph ctx, img := im }) ∧ s.sameBytes t ∧ s.sameArrays t) ∧
      (State.fetchTiles (s.unpost .activeWordsFetched s.focus) ctx b.iss.tile G G.tiles = .error () →
        ∃ t c' e, exec .activeWordsFetched s = .next t ∧ t.ctx? ctx = some c' ∧ c'.liveSlot = c.liveSlot ∧ c'.starting = none ∧
          t.engineFaults = s.engineFaults ++ [e] ∧ e.code = .cfgFetch ∧ s.sameBytes t ∧ s.sameArrays t)) ∧
    (∀ c x, s.ctx? ctx = some c → c.stopping = some x → (s.unpost .graphStopped s.focus).graphDrained c = true → c.liveSlot = none ∨ (∀ G, c.liveSlot.bind c.graph? = some G → G.statrec = 0) →
      ∃ t c', exec .graphStopped s = .next t ∧ t.ctx? ctx = some c' ∧ c'.liveSlot = none ∧ c'.stopping = none ∧ c'.rotating = false ∧
        (∀ y ∈ s.graphTiles c, (t.tile y).stream = none) ∧ s.sameBytes t ∧
        (∀ n iss, x.next = some n → x.iss = some iss → c'.starting = some { slot := n, iss, reply := some x.reply } ∧
          .happen .activeWordsFetched { ctx := c.num } ∈ t.pending)) ∧
    (∀ h : s.focus.unit < 16, ∀ g j ch f rest, s.vcChan t0 ⟨s.focus.unit, h⟩ = some (g, j, ch) → (s.vchan t0 ⟨s.focus.unit, h⟩).q = f :: rest →
      s.here.owner = some ctx → chanLanding ch.desc = 1 → ch.frozen = false → f.kind = 0 → Memory.wf s.here.sp = true →
      let off := chanBase ch.desc + 64 * ch.index
      let words := (List.range 16).map (off / 4 + ·)
      (off + 64 ≤ Config.spShare s.here.split → (∀ w ∈ words, w ∉ s.here.present) →
        ∃ t, exec .streamBufferLanding s = .next t ∧ (t.vchan t0 ⟨s.focus.unit, h⟩).q = rest ∧ t.mem = s.mem ∧
          Memory.read t.here.sp off 64 = leBytes 64 f.data.toNat ∧
          (∀ a, (a < off ∨ off + 64 ≤ a) → Memory.get t.here.sp a = Memory.get s.here.sp a) ∧
          (∀ w, w ∈ t.here.present ↔ w ∈ s.here.present ∨ w ∈ words) ∧
          (∀ u, u ≠ t0 → (t.tile u).sp = (s.tile u).sp) ∧ (∀ u, (t.tile u).istore = (s.tile u).istore) ∧ s.sameFiles t [] []) ∧
      ((Config.spShare s.here.split < off + 64 ∨ ∃ w ∈ words, w ∈ s.here.present) →
        ∃ t, exec .streamBufferLanding s = .next t ∧ (t.vchan t0 ⟨s.focus.unit, h⟩).q = f :: rest ∧ quiet t ∧ s.sameBytes t ∧
          ∀ c, s.ctx? ctx = some c → ∃ c' r, t.ctx? ctx = some c' ∧ c'.records = c.records ++ [r] ∧
            r.bits.extractLsb' 0 16 = (if Config.spShare s.here.split < off + 64 then BitVec.ofNat 16 FaultCode.protect.val else BitVec.ofNat 16 FaultCode.sbRewrite.val))) ∧
    (∀ h : s.focus.unit < 4, ∀ c G ch f rest, s.ctx? ctx = some c → c.gslots[(⟨s.focus.unit, h⟩ : Fin 4)] = some G → G.chans[s.focus.id]? = some ch →
      ch.graftQ = f :: rest → ((s.tile (srcTile ch.desc)).accesses.any fun a => a.iss.auto && a.iss.ctx == ctx) = false →
      ∃ t, exec .graftForward s = .next t ∧ quiet t ∧ s.sameBytes t ∧
        ∀ u, t.vchan u = (((s.unpost .graftForward s.focus).modChan ctx ⟨s.focus.unit, h⟩ s.focus.id fun x => { x with graftQ := rest }).landFlit
          (chanDstt ch.desc) (chanVc ch.desc) f).vchan u) ∧
    (∀ h : s.focus.unit < 16, ∀ f rest, (s.vchan t0 ⟨s.focus.unit, h⟩).waiting = f :: rest →
      s.vcUsed t0 ⟨s.focus.unit, h⟩ < s.vcDepth t0 ⟨s.focus.unit, h⟩ →
      ∃ t, exec .flitSend s = .next t ∧ quiet t ∧ s.sameBytes t ∧
        ∀ u, t.vchan u = (((s.unpost .flitSend s.focus).modVc t0 ⟨s.focus.unit, h⟩ fun x => { x with waiting := rest }).takeFlit t0 ⟨s.focus.unit, h⟩ f).vchan u) ∧
    (∀ g j d, s.cur.status = .blocked → s.cur.wait = .drain g j d → s.cleared (.drain g j d) = true →
      exec .slotUnblock s = .next ((s.unpost .slotUnblock s.focus).endGdep t0 s.focus.slot g j)) ∧
    (∀ h : s.focus.unit < 6, ∀ x u, s.here.stream = some x → s.frozenAt t0 x = false →
      (s.unpost .rotSwap s.focus).swapElem t0 x s.focus.lane ⟨s.focus.unit, h⟩ = some u →
      ∃ x', exec .rotSwap s = .next u ∧ u.here.stream = some x' ∧ x'.lanes[s.focus.lane].elems[(⟨s.focus.unit, h⟩ : Fin 6)].swapped = true ∧ s.sameBytes u ∧ quiet u)

/-- R368 to R370, R372, R373: the mailboxes. A doorbell rung while the function's mailbox is busy changes nothing; while a wipe runs every
command but OWN_QUERY is refused with 0x8006; a function that may not issue the command gets 0x8001, and a command the life-cycle state does
not allow 0x8002; a reserved bit of the request that is set gets 0x8003, after those two checks (assumption 166); an unassigned opcode gets
0x8007; an answer leaves the other mailboxes alone and adds its response. A command waits without effect while one accepted before it stands
that it may not go past: one on the same context, or one that holds back later commands. (That 0x8001 comes before 0x8002, and 0x8006 before
0x8007 while a wipe runs, is the model's choice: assumption 89; so is a kill's going past a save under way: assumption 110.) -/
def Obligations.MailboxRules : Prop :=
  ∀ (s : State) (i : Instr) (w : Who), mailWho i = some w →
    ((∃ m ∈ s.mailQ, m.func = s.focus.func) → (∀ m ∈ s.mailQ, ¬ (m.instr = i ∧ m.func = s.focus.func ∧ m.req = s.focus.req)) →
      exec i s = .next (s.unpost i s.focus)) ∧
    (s.mailFree i →
      (∀ st r, (s.taken i).answer (s.mail i) st r =
        { s.unpost i s.focus with responses := s.responses ++ [{ func := s.focus.func, status := st, r }] }) ∧
      (s.wiping = true → i ≠ .ownQuery → s.answers i 0x8006 [] (s.taken i)) ∧
      (s.wiping = false →
        (s.mayIssue s.focus.func w = false → s.answers i 0x8001 [] (s.taken i)) ∧
        (s.mayIssue s.focus.func w = true → allowedIn s.life i = false → s.answers i 0x8002 [] (s.taken i)) ∧
        (s.mayIssue s.focus.func w = true → allowedIn s.life i = true → s.focus.req.res0 ≠ 0 → s.answers i 0x8003 [] (s.taken i)))) ∧
    (∀ m, s.mailQ = [m] → m.func ≠ s.focus.func → s.wiping = false → s.mailBehind (s.mail i) m = true →
      ∃ t, exec i s = .next t ∧ t.mailQ = [m, s.mail i] ∧ .happen i s.focus ∈ t.pending ∧ t.responses = s.responses ∧ t.contexts = s.contexts ∧
        t.mem = s.mem ∧ t.tiles = s.tiles ∧ t.owner = s.owner ∧ t.life = s.life) ∧
    (∀ op : BitVec 16, op = 0 ∨ 0x17 ≤ op.toNat → (∀ m ∈ s.mailQ, m.func ≠ s.focus.func) →
      exec (.mailboxUnknownOpcode op) s = .next { s.unpost (.mailboxUnknownOpcode op) s.focus with
        responses := s.responses ++ [{ func := s.focus.func, status := if s.wiping then 0x8006 else 0x8007, r := [] }] })

/-- R372 to R374: ownership, life cycle and wiping. The first OWN_CLAIM wins; OWN_GIVE names the next owner; OWN_QUERY tells it; LIFECYCLE makes
the listed transitions alone and wipes, as WIPE does; KEYS writes or erases a slot; a wipe zeroes every memory and ends every context,
keeping keys, life cycle and owner; a reset also clears the owner. (The numbers of masters and of states, and the numbers and key sizes of
KEYS' parameter sets with set 0 as erasure, are the model's choice: assumptions 90, 91 and 92.) -/
def Obligations.OwnershipAndWiping : Prop :=
  ∀ (s : State),
    let q := s.focus.req
    let clean := fun (t : State) => t.wiping = true ∧ t.mem = [] ∧ t.vwords = [] ∧ t.contexts = [] ∧ t.reservations = [] ∧ t.walks = [] ∧
      (∀ x, t.tile x = {}) ∧ (∀ j : Fin 128, t.walkTlb[j] = []) ∧ (∀ d : DieId, t.dies[d].dtlb = [] ∧ t.cores[d] = {}) ∧ .happen .wipeEnd {} ∈ t.pending
    (s.served .ownClaim →
      (∀ m, s.owner = none → masterOf s.focus.func = some m → s.answers .ownClaim 0 [] { s.taken .ownClaim with owner := some m }) ∧
      (s.owner ≠ none → s.answers .ownClaim 0x8001 [] (s.taken .ownClaim))) ∧
    (s.served .ownGive →
      (q.a0.toNat ≤ 2 → s.answers .ownGive 0 [] { s.taken .ownGive with owner := some q.a0.toNat }) ∧
      (2 < q.a0.toNat → s.answers .ownGive 0x8003 [] (s.taken .ownGive))) ∧
    (s.mailFree .ownQuery → s.mayIssue s.focus.func .master = true → q.res0 = 0 →
      s.answers .ownQuery 0 [BitVec.ofNat 64 (s.owner.getD 0xFFFF)] (s.taken .ownQuery)) ∧
    (s.served .lifecycle →
      (∀ l, lifeOf q.a0.toNat = some l → lifeStep (s.keySets.toList.any (· != 0)) s.life l = true →
        ∃ t, exec .lifecycle s = .next t ∧ clean t ∧ t.life = l ∧ t.owner = s.owner ∧ t.responses = s.responses ∧
          t.mailQ = [{ s.mail .lifecycle with begun := true }] ∧
          t.keys = (if l = .decommissioned then Vector.replicate 8 [] else s.keys)) ∧
      (∀ l, lifeOf q.a0.toNat = some l → lifeStep (s.keySets.toList.any (· != 0)) s.life l = false →
        s.answers .lifecycle 0x8002 [] (s.taken .lifecycle)) ∧
      (lifeOf q.a0.toNat = none → s.answers .lifecycle 0x8003 [] (s.taken .lifecycle))) ∧
    (s.served .wipe → ∃ t, exec .wipe s = .next t ∧ clean t ∧ t.life = s.life ∧ t.keys = s.keys ∧ t.owner = s.owner ∧ t.responses = s.responses ∧
      t.mailQ = [{ s.mail .wipe with begun := true }]) ∧
    (∀ i ∈ ([.lifecycle, .wipe] : List Instr), s.mailQ = [{ s.mail i with begun := true }] → s.wiping = false →
      exec i s = .next { s.unpost i s.focus with mailQ := [], responses := s.responses ++ [{ func := s.focus.func, status := 0, r := [] }] }) ∧
    exec .wipeEnd s = .next { s.unpost .wipeEnd s.focus with wiping := false } ∧
    (∃ t, exec .reset s = .next t ∧ clean t ∧ t.life = s.life ∧ t.keys = s.keys ∧ t.owner = none ∧ t.mailQ = [] ∧ t.powered = true ∧
      ∀ d : DieId, t.dies[d] = {}) ∧
    (s.served .keys → ∀ h : q.a0.toNat < 8,
      (1 ≤ q.a2.toNat → q.a2.toNat ≤ 3 → inHbm q.a1.toNat (keyBytes q.a2.toNat) = true → s.eccError = true → s.answers .keys 0x0008 [] (s.taken .keys)) ∧
      (1 ≤ q.a2.toNat → q.a2.toNat ≤ 3 → inHbm q.a1.toNat (keyBytes q.a2.toNat) = true → s.eccError = false →
        s.answers .keys 0 [] { s.taken .keys with
          keys := s.keys.set q.a0.toNat (s.devBytes q.a1.toNat (keyBytes q.a2.toNat)), keySets := s.keySets.set q.a0.toNat q.a2.toNat }) ∧
      (q.a2 = 0 → s.answers .keys 0 [] { s.taken .keys with keys := s.keys.set q.a0.toNat [], keySets := s.keySets.set q.a0.toNat 0 }) ∧
      (3 < q.a2.toNat → s.answers .keys 0x8003 [] (s.taken .keys))) ∧
    (s.served .keys → 8 ≤ q.a0.toNat → s.answers .keys 0x8003 [] (s.taken .keys))

/-- R375 to R378, R317: MEASURE writes the log, TELEMETRY its block (its layout open), IMG_VERIFY records an image whose signature verifies, an
SPDM key exchange sets the IDE keys, QUOTA_SET keeps to current use and the package's sums, QUEUE_MAP binds a doorbell, and a doorbell write
puts its word on the bound queue, or drops it and counts. (Which of 0x8003 and 0x8004 QUOTA_SET gives, buffers at device physical addresses,
what the telemetry block is made of, the log's outside digests, and a dropped doorbell's cases are the model's choice: assumptions 100, 93,
94, 95 and 106.) -/
def Obligations.FirmwareServices : Prop :=
  ∀ (s : State),
    let q := s.focus.req
    let f := s.focus.func
    (s.served .measure →
      (inHbm q.a0.toNat s.measurementLog.flatten.length = true →
        s.answers .measure 0 [] ((s.taken .measure).putDev q.a0.toNat s.measurementLog.flatten)) ∧
      (inHbm q.a0.toNat s.measurementLog.flatten.length = false → s.answers .measure 0x8003 [] (s.taken .measure))) ∧
    (s.served .telemetry →
      let view := s.telemetryOf f q.a1.toNat
      let n := Config.telemetryBytes view s.draws
      (q.a1.toNat < 256 → inHbm q.a0.toNat n = true →
        s.answers .telemetry 0 [] (State.putDev { s.taken .telemetry with draws := s.draws + 1 } q.a0.toNat
          ((List.range n).map (Config.telemetryByte view s.draws)))) ∧
      (256 ≤ q.a1.toNat → s.answers .telemetry 0x8003 [] (s.taken .telemetry))) ∧
    (s.served .imgVerify → s.eccError = true → s.answers .imgVerify 0x0008 [] (s.taken .imgVerify)) ∧
    (s.served .imgVerify → s.eccError = false →
      (∀ d, s.verifyImage q.a0.toNat = some d → s.answers .imgVerify 0 [] { s.taken .imgVerify with
        verified := s.verified ++ [(q.a0.toNat, d)], measurements := s.measurements ++ [d] }) ∧
      (s.verifyImage q.a0.toNat = none → s.answers .imgVerify 0x8005 [] (s.taken .imgVerify))) ∧
    (∀ kx, ∃ t b, exec (.spdmRequest kx) s = .next t ∧ t.linkReplies = s.linkReplies ++ [LinkReply.spdm b] ∧
      t.ideKeys = (if kx then Config.ideKeys s.draws else s.ideKeys) ∧ t.mem = s.mem ∧ s.sameBytes t ∧ s.sameFiles t [] [] ∧ s.sameArrays t) ∧
    (s.served .quotaSet →
      let t := q.a0.toNat
      let others := s.quotas.filter (·.tenant != t)
      let total := fun (g : Quota → Nat) => (others.map g).sum
      (t < 512 → (s.quotaUsed t).1 ≤ q.a1.toNat → (s.quotaUsed t).2 ≤ q.a2.toNat →
        (total (·.slots) + q.a1.toNat ≤ 8192 → total (·.counters) + q.a2.toNat ≤ 16384 →
          s.answers .quotaSet 0 [] { s.taken .quotaSet with quotas := others ++ [{ tenant := t, slots := q.a1.toNat, counters := q.a2.toNat }] }) ∧
        (8192 < total (·.slots) + q.a1.toNat ∨ 16384 < total (·.counters) + q.a2.toNat →
          s.answers .quotaSet 0x8004 [] (s.taken .quotaSet))) ∧
      (512 ≤ t ∨ q.a1.toNat < (s.quotaUsed t).1 ∨ q.a2.toNat < (s.quotaUsed t).2 → s.answers .quotaSet 0x8003 [] (s.taken .quotaSet))) ∧
    (s.served .queueMap → ∀ c, s.mailCtx f q.a0.toNat = .ok c →
      let rest := s.doorbells.filter fun d => !(d.func == f && d.idx == q.a2.toNat)
      (q.a2.toNat < 64 → q.a3 = 0 → s.answers .queueMap 0 [] { s.taken .queueMap with doorbells := rest }) ∧
      (∀ ls, q.a2.toNat < 64 → q.a3 = 1 →
        s.locateRange c.num ((c.tiles.head?).getD 0) q.a1.toNat 32 { read := true, write := true } = .ok ls →
        (ls.all (fun (l, _) => match l with | .dev _ v _ => !v | _ => false) = true →
          s.answers .queueMap 0 [] { s.taken .queueMap with doorbells := rest ++ [{ func := f, idx := q.a2.toNat, ctx := c.num, desc := q.a1.toNat }] }) ∧
        (ls.all (fun (l, _) => match l with | .dev _ v _ => !v | _ => false) = false →
          s.answers .queueMap FaultCode.protect.val [] (s.taken .queueMap))) ∧
      (∀ e, q.a2.toNat < 64 → q.a3 = 1 →
        s.locateRange c.num ((c.tiles.head?).getD 0) q.a1.toNat 32 { read := true, write := true } = .error e →
        s.answers .queueMap FaultCode.protect.val [] (s.taken .queueMap)) ∧
      (64 ≤ q.a2.toNat → s.answers .queueMap 0x8003 [] (s.taken .queueMap))) ∧
    (∀ (i : Fin 64) (v : Word),
      let bound := s.doorbells.find? fun d => d.func == f && d.idx == i.val
      let u := s.unpost (.queueDoorbellWrite i v) s.focus
      (bound = none → exec (.queueDoorbellWrite i v) s = .next u) ∧
      (∀ d h, bound = some d → u.openHq d.ctx ((((s.ctx? d.ctx).map Context.tiles).getD []).head?.getD 0) d.desc true = .ok h →
        (h.desc.held = h.desc.cap →
          exec (.queueDoorbellWrite i v) s = .next { u with telemetry := { s.telemetry with
            qdrop := s.telemetry.qdrop + 1, qdropBy := s.tenantOf d.ctx :: s.telemetry.qdropBy } }) ∧
        (h.desc.held ≠ h.desc.cap → s.notifyFull h = false → exec (.queueDoorbellWrite i v) s = .next (u.hqPut h d.desc v))))

/-- R185, R368 to R371, R351, R307, R316: firmware's commands on contexts. CTX_CREATE makes one with its limits; save, restore and kill report
in word 0, a kill once its effects have performed; CTX_RESUME resumes a FAULTED slot or opens selection; PT_WRITE writes an entry and drops
translations of its range, and versioned words follow the tables (R185); LAUNCH takes a rectangle and clears it; JOB_SUBMIT and DEMAND act
as `jsub` and `dmd`, the submission's status being the command's. (The model's choice are which free number a context gets: assumption 96;
CTX_RESUME's reopening and its 0x8003: assumption 101; what LAUNCH keeps and clears and that it waits for stores of ended tasks: assumption
102; versioned words following the tables: assumption 105; PT_WRITE's emptying the context's L1 shares: assumption 133.) -/
def Obligations.ContextCommands : Prop :=
  ∀ (s : State),
    let q := s.focus.req
    let n := q.target.toNat
    (s.served .ctxCreate →
      let fl := q.a4.toNat
      let lim := fl / 4 % 64
      let ceil := fl / 1024 % 64
      let good := q.a0.toNat < 512 ∧ q.a1.toNat % 65536 = 0 ∧ q.a3.toNat % 64 = 0 ∧ inHbm q.a1.toNat 4096 = true ∧ inHbm q.a3.toNat 16448 = true ∧ fl < 65536 ∧ fl / 2 % 2 = 0 ∧ fl / 256 % 4 = 0 ∧
        (lim = 0 ∨ 20 ≤ lim ∧ lim ≤ 32) ∧ (ceil = 0 ∨ 16 ≤ ceil ∧ ceil ≤ 40)
      (∀ k, good → s.newNum = some k →
        ∃ t c, exec .ctxCreate s = .next t ∧ t.ctx? k = some c ∧ c.tenant = q.a0.toNat ∧ c.root = q.a1.toNat ∧ c.saveArea = q.a2.toNat ∧
          c.ring = q.a3.toNat ∧ c.debug = (fl % 2 == 1) ∧ c.saveLimit = (if lim = 0 then 2 ^ 26 else 2 ^ lim) ∧
          c.wdCeiling = (if ceil = 0 then 2 ^ 32 else 2 ^ ceil) ∧ c.wdgl = min (2 ^ 28) c.wdCeiling ∧ c.live = true ∧ c.launch = none ∧ c.jobs = [] ∧
          t.responses = s.responses ++ [{ func := s.focus.func, status := 0, r := [BitVec.ofNat 64 k] }] ∧
          (∀ m, m ≠ k → t.ctx? m = s.ctx? m) ∧ t.tiles = s.tiles ∧
          t.doorbells = s.doorbells.filter (·.ctx != k) ∧
          let u := State.remap (State.putDev { s with contexts := s.contexts.filter (fun (x : Context) => x.num != k) ++ [c] } q.a3.toNat (leBytes 8 0))
          t.mem = u.mem ∧ t.vwords = u.vwords ∧ t.verPages = u.verPages) ∧
      (good → s.newNum = none → s.answers .ctxCreate 0x8004 [] (s.taken .ctxCreate)) ∧
      (¬ good → s.answers .ctxCreate 0x8003 [] (s.taken .ctxCreate))) ∧
    (n < 1024 →
      (s.served .ctxSave → ∀ r v, (s.taken .ctxSave).trySave n = (r, v) →
        (∀ k, r = some k → s.answers .ctxSave 0 [BitVec.ofNat 64 k] v) ∧
        (r = none → ∃ t, exec .ctxSave s = .next t ∧ t.contexts = v.contexts ∧ t.responses = v.responses ∧ .happen .ctxSave s.focus ∈ t.pending)) ∧
      (s.served .ctxRestore → ∀ r v, (s.taken .ctxRestore).tryRestore n = (r, v) → s.answers .ctxRestore 0 [BitVec.ofNat 64 r] v) ∧
      (s.served .ctxKill →
        (∀ c, s.ctx? n = some c → c.live = true →
          let v := (s.taken .ctxKill).killContext n none 3
          ∃ t, exec .ctxKill s = .next t ∧ t.contexts = v.contexts ∧ t.tiles = v.tiles ∧ t.mem = v.mem ∧ t.responses = v.responses ∧
            .happen .ctxKill s.focus ∈ t.pending) ∧
        ((∀ c, s.ctx? n = some c → c.live = false) → s.answers .ctxKill 0 [2] (s.taken .ctxKill))) ∧
      (s.mailQ = [{ s.mail .ctxKill with begun := true }] → ∀ c, s.ctx? n = some c → c.live = false → s.killDone c = true →
        exec .ctxKill s = .next { s.unpost .ctxKill s.focus with
          mailQ := [], responses := s.responses ++ [{ func := s.focus.func, status := 0, r := [0] }] })) ∧
    (s.served .ctxResume → ∀ (h0 : q.a0.toNat < 1024) (h1 : q.a1.toNat < 16) (c : Context), s.tileCtx ⟨q.a0.toNat, h0⟩ = some c →
      (q.a2 = 2 → ∃ t c', exec .ctxResume s = .next t ∧ t.ctx? c.num = some c' ∧ c'.selecting = true ∧ c'.jobs = c.jobs ∧ s.sameBytes t ∧
        s.sameFiles t [] [] ∧ s.sameArrays t ∧ s.sameStatus t) ∧
      (q.a2.toNat < 2 → (s.slot ⟨q.a0.toNat, h0⟩ ⟨q.a1.toNat, h1⟩).status = .faulted →
        ∃ u : State, u.contexts = (s.modCtx c.num fun k => { k with selecting := true }).contexts ∧ u.tiles = s.tiles ∧
          s.answers .ctxResume 0 [] (u.resumeSlot ⟨q.a0.toNat, h0⟩ ⟨q.a1.toNat, h1⟩ (q.a2 == 0))) ∧
      (q.a2.toNat < 2 → (s.slot ⟨q.a0.toNat, h0⟩ ⟨q.a1.toNat, h1⟩).status ≠ .faulted → s.answers .ctxResume 0x8003 [] (s.taken .ctxResume))) ∧
    (s.served .ptWrite → ∀ c, s.mailCtx s.focus.func n = .ok c → q.a0.toNat % 8 = 0 → inHbm q.a0.toNat 8 = true → Memory.wf s.mem = true →
      (∀ x ∈ s.vwords, x.1 + 8 ≤ q.a0.toNat ∨ q.a0.toNat + 8 ≤ x.1) →
      let inRange := fun (e : Tlb) => e.ctx = c.num ∧ q.a2.toNat / 65536 ≤ e.page ∧ e.page * 65536 < q.a2.toNat + q.a3.toNat
      ∃ t, exec .ptWrite s = .next t ∧ leNat (Memory.read t.mem q.a0.toNat 8) = q.a1.toNat ∧
        (∀ x, (x < q.a0.toNat ∨ q.a0.toNat + 8 ≤ x) → (∀ y ∈ s.vwords, x < y.1 ∨ y.1 + 8 ≤ x) → Memory.get t.mem x = Memory.get s.mem x) ∧
        (∀ x, ∀ e, e ∈ (t.tile x).utlb ↔ e ∈ (s.tile x).utlb ∧ ¬ inRange e) ∧ (∀ d : DieId, ∀ e, e ∈ t.dies[d].dtlb ↔ e ∈ s.dies[d].dtlb ∧ ¬ inRange e) ∧
        (∀ j : Fin 128, ∀ e, e ∈ t.walkTlb[j] ↔ e ∈ s.walkTlb[j] ∧ ¬ inRange e) ∧
        (∀ x, (t.tile x).l1 = if (s.tile x).owner = some c.num then [] else (s.tile x).l1) ∧
        (let u := (s.putDev q.a0.toNat (leBytes 8 q.a1.toNat)).remap
         t.vwords = u.vwords ∧ t.verPages = u.verPages ∧ ∀ y ∈ t.vwords, y ∈ s.vwords ∧ t.isVersioned y.1 = true) ∧
        t.responses = s.responses ++ [{ func := s.focus.func, status := 0, r := [] }] ∧ s.sameFiles t [] [] ∧ s.sameArrays t) ∧
    (s.served .launch → ∀ c, s.mailCtx s.focus.func n = .ok c → bedOk q.a0 = true → q.a1.toNat ≤ 1 → ∀ hg : q.a3.toNat < 4, q.a4.toNat ≤ 1 → c.resident = true →
      let bed : BitVec 16 := q.a0.extractLsb' 0 16
      (s.launchBusy c = true → s.answers .launch 0x8008 [] (s.taken .launch)) ∧
      (s.launchBusy c = false → (∃ x ∈ c.tiles, ∃ a ∈ (s.tile x).accesses, a.tileDone = false) →
        ∃ t, exec .launch s = .next t ∧ t.contexts = s.contexts ∧ t.tiles = s.tiles ∧ t.responses = s.responses ∧ .happen .launch s.focus ∈ t.pending) ∧
      (s.launchBusy c = false → (∀ x ∈ c.tiles, ∀ a ∈ (s.tile x).accesses, a.tileDone = true) →
        ((∃ k ∈ s.contexts, k.num ≠ c.num ∧ k.live = true ∧ k.resident = true ∧ ∃ b sp, k.launch = some (b, sp) ∧ bedsMeet bed b = true) →
          s.answers .launch 0 [6] (s.taken .launch)) ∧
        ((∀ k ∈ s.contexts, k.num ≠ c.num → k.live = true → k.resident = true → ∀ b sp, k.launch = some (b, sp) → bedsMeet bed b = false) →
          let v := (s.taken .launch).relaunch c bed (q.a1 == 1)
          (q.a2 = 0 → q.a4 = 0 → s.answers .launch 0 [0] v ∧
            (∀ c', v.ctx? c.num = some c' → c'.launch = some (bed, q.a1 == 1) ∧ c'.liveSlot = none ∧ c'.barriers = [] ∧ ∀ g : Fin 4, c'.gslots[g] = none) ∧
            ∀ x ∈ bedTiles bed, v.tile x = { owner := some c.num, split := (q.a1 == 1), istore := (s.tile x).istore }) ∧
          (∀ st w, v.launchGraph c.num ⟨q.a3.toNat, hg⟩ q.a2.toNat (q.a4 == 1) = (st, w) →
            s.answers .launch st (if st = 0 then [0] else []) w)))) ∧
    (s.served .jobSubmit → ∀ c card, s.mailCtx s.focus.func n = .ok c →
      (s.taken .jobSubmit).readCard c.num ((c.tiles.head?).getD 0) q.a0.toNat = .ok card → checkOwner c card q.a0.toNat = .ok () →
      ∀ w v, (s.taken .jobSubmit).takeCard c card q.a0 none = (w, v) → s.answers .jobSubmit (w.toNat / 2 ^ 48) [w] v) ∧
    (s.served .demand → ∀ c g j, s.mailCtx s.focus.func n = .ok c → (s.taken .demand).checkDemand c q.a0 q.a1.toNat q.a2.toNat = .ok (g, j) →
      ∀ v, (s.taken .demand).insertDemand c.num g j q.a1.toNat q.a2.toNat = some v → s.answers .demand 0 [] v)

/-- R363 to R365, R379, R380, R382: power, peer links and the host's own accesses. DIE_MODE and the thermal steps change dies' power states,
during which issue pauses; at 110 °C all state goes; PEER_CFG opens and closes windows of an LZ8-MS, and answers a close once the blights of
its copies' jobs are done, their records written and their cancelled replies sent; a failed port gives its copies `F_ECC`; the host reads
and writes device memory, but for versioned pages, and an uncorrectable error answers it with poison; its snoops miss; the link trains to
the widths the device supports. (The model's choice are the power states' codes: assumption 91; PEER_CFG's answer on a part without peers:
assumption 99; a link failure as an input: assumption 19; the rates a link trains to: assumption 108; the host's reads: assumption 107; that
a recovery counts in THROTTLE: assumption 109.) -/
def Obligations.PowerAndLinks : Prop :=
  ∀ (s : State),
    let q := s.focus.req
    let d := s.focus.die
    let quiet := fun (t : State) => s.sameBytes t ∧ s.sameFiles t [] [] ∧ s.sameArrays t ∧ s.sameStatus t
    let stepsTo := fun (i : Instr) (p : Power) (n : Nat) => ∃ t, exec i s = .next t ∧ t.dies[d].power = p ∧ t.dies[d].throttled = n ∧
      t.dies[d].changing = true ∧ (∀ e : DieId, e ≠ d → t.dies[e] = s.dies[e]) ∧ t.telemetry.throttle = s.telemetry.throttle + 1 ∧
      .happen .powerStateChangeEnd { die := d } ∈ t.pending ∧ quiet t
    (s.served .dieMode → q.a0.toNat < 256 →
      (∀ p, powerOf q.a1.toNat = some p → q.a2.toNat ≤ 1 → q.a0 ≠ 0 →
        ∃ t, exec .dieMode s = .next t ∧ quiet t ∧ t.responses = s.responses ∧
          ∀ e : DieId, (q.a0.getLsbD e.val = true → t.dies[e].power = p ∧ t.dies[e].margin = (q.a2 == 1) ∧ t.dies[e].changing = true ∧
              .happen .powerStateChangeEnd { die := e } ∈ t.pending) ∧
            (q.a0.getLsbD e.val = false → t.dies[e] = s.dies[e])) ∧
      (powerOf q.a1.toNat = none → s.answers .dieMode 0x8003 [] (s.taken .dieMode))) ∧
    (∃ t, exec .powerStateChangeEnd s = .next t ∧ t.dies[d] = { s.dies[d] with changing := false } ∧ (∀ e : DieId, e ≠ d → t.dies[e] = s.dies[e]) ∧ quiet t) ∧
    (∀ p, powerDown s.dies[d].power = some p → stepsTo .thermalThrottle p (s.dies[d].throttled + 1)) ∧
    (∀ p, 0 < s.dies[d].throttled → powerUp s.dies[d].power = some p → stepsTo .thermalRecovery p (s.dies[d].throttled - 1)) ∧
    (∃ t, exec .thermalShutdown s = .next t ∧ t.powered = false ∧ t.mem = [] ∧ t.contexts = [] ∧ t.owner = none ∧ t.life = s.life ∧ t.keys = s.keys ∧
      (∀ j : Fin 128, t.walkTlb[j] = []) ∧ ∀ x, t.tile x = {}) ∧
    (s.served .peerCfg →
      (s.isMS = false → s.answers .peerCfg 0x8001 [] (s.taken .peerCfg)) ∧
      (s.isMS = true → q.a0.toNat < 16 → q.a1.toNat < 4096 →
        let rest := s.peers.filter (·.idx != q.a0.toNat)
        let win : PeerWin :=
          { idx := q.a0.toNat, ports := q.a1.extractLsb' 0 12, base := 0x10000000000 + q.a0.toNat * 0x1000000000, peer := q.a2.toNat }
        (q.a3 = 1 → s.answers .peerCfg 0 [] { s.taken .peerCfg with peers := rest ++ [win] }) ∧
        (q.a3 = 0 → ∃ t l, exec .peerCfg s = .next t ∧ t.peers = rest ∧ t.engineFaults = s.engineFaults ++ l ∧
          (l.map (·.iss) = ((s.taken .peerCfg).copiesOver (·.idx == q.a0.toNat)).map (·.1.iss)) ∧ (∀ e ∈ l, e.code = .xlate) ∧ (l ≠ [] → t.responses = s.responses ∧ t.mailQ = [{ s.mail .peerCfg with
            begun := true, owes := (((s.taken .peerCfg).copiesOver (·.idx == q.a0.toNat)).map fun (k, _) => (k.iss.ctx, k.iss.job)).eraseDups }]) ∧ quiet t))) ∧
    (∀ owes, s.mailQ = [{ s.mail .peerCfg with begun := true, owes }] → (s.unpost .peerCfg s.focus).peersSettled owes = true →
      exec .peerCfg s = .next { s.unpost .peerCfg s.focus with
        mailQ := [], responses := s.responses ++ [{ func := s.focus.func, status := 0, r := [] }] }) ∧
    (∀ port : Fin 12, ∃ t l, exec (.peerLinkFailure port) s = .next t ∧ t.engineFaults = s.engineFaults ++ l ∧
      (l.map (·.iss) = ((s.unpost (.peerLinkFailure port) s.focus).copiesOver (·.ports.getLsbD port.val)).map (·.1.iss)) ∧
      (∀ e ∈ l, e.code = .ecc ∧ e.toTask = false) ∧ quiet t) ∧
    (∀ pa n, inHbm pa n = true → exec (.hdmRead pa n) s = .next { s.unpost (.hdmRead pa n) s.focus with
      linkReplies := s.linkReplies ++ [if s.eccError then LinkReply.poison else LinkReply.read (s.devBytes pa n)] }) ∧
    (∀ pa bs, inHbm pa bs.length = true → Memory.wf s.mem = true →
      ∃ t, exec (.hdmWrite pa bs) s = .next t ∧ t.linkReplies = s.linkReplies ++ [.writeDone] ∧ t.vwords = s.vwords ∧
        (∀ x, Memory.get t.mem x = if pa ≤ x ∧ x < pa + bs.length ∧ s.isVersioned x = false then bs.getD (x - pa) 0 else Memory.get s.mem x) ∧
        t.telemetry.hdmVerDrop = (if ∃ i < bs.length, s.isVersioned (pa + i) = true then s.telemetry.hdmVerDrop + 1 else s.telemetry.hdmVerDrop) ∧
        (∀ x, t.tile x = s.tile x)) ∧
    (∀ a, exec (.hostSnoop a) s = .next { s.unpost (.hostSnoop a) s.focus with linkReplies := s.linkReplies ++ [.snoopMiss] }) ∧
    (∀ lanes rate, lanes ∈ [16, 8, 4] → rate ∈ [8, 16, 32, 64, 128] →
      exec (.hostLinkTraining lanes rate) s = .next { s.unpost (.hostLinkTraining lanes rate) s.focus with linkLanes := lanes, linkRate := rate })

/-- R2, R30, R31, R246, R252, R337: a step runs the instruction it decodes. With nothing on the agenda, the sequencer whose turn it is runs the
instruction its RUNNING slot's bytes decode to, as `exec` does, on the state with time passed, that slot in focus (a tile that a save was to
stop behind this word stops there, R73) and the next tile's turn; an agenda's move runs the happening it names, the rule of the walk whose
turn it is at a walker, or the first word a management core holds, with or without an uncorrectable error in what it reads (R19), or takes a
line out of an L1 share, or counts a corrected error. A happening or a rule whose die's arithmetic clock is held (S1) does not take place
(R380). The clauses of evictions, corrected errors and uncorrectable errors are the model's choice of inputs (assumptions 133 and 134), as
are whose turn it is and time (assumptions 3 and 8), the management core's words given from outside (assumption 12), and which clock a
happening waits on (assumption 183). -/
def Obligations.StepRunsTheDecodedInstruction : Prop :=
  ∀ (s : State),
    let r := s.tick
    (∀ k : SlotId, s.agenda = [] → s.powered = true → (s.owedFirst = false ∨ s.pending = []) → r.canIssue s.turn = true →
      (s.tile s.turn).running = some k → (s.slot s.turn k).late = [] →
      step s = exec (decode (s.slot s.turn k).pc (Memory.read (s.tile s.turn).istore (s.slot s.turn k).pc.toNat 32))
        { r.atSlot s.turn k with owedFirst := true, turn := ⟨(s.turn.val + 1) % 1024, Nat.mod_lt _ (Nat.zero_lt_succ _)⟩ }) ∧
    (∀ k : SlotId, (s.tile s.turn).lastWord = false →
      r.atSlot s.turn k = { r with sysMode := false, eccError := false, focus := { tile := s.turn, slot := k } }) ∧
    (∀ i f rest, s.agenda = .happen i f :: rest → s.powered = true → isHappening i = true →
      (r.clockHeld i f = false → step s = exec i { r with agenda := rest, sysMode := false, eccError := false, focus := f }) ∧
      (r.clockHeld i f = true → step s = .next { r with agenda := rest })) ∧
    (∀ i f rest, s.agenda = .happenErr i f :: rest → s.powered = true → isHappening i = true → r.clockHeld i f = false →
      step s = exec i { r with agenda := rest, sysMode := false, eccError := true, focus := f }) ∧
    (∀ u n rest, s.agenda = .evict u n :: rest →
      step s = .next ({ r with agenda := rest }.modTile u fun T => { T with l1 := T.l1.filter (·.line != n) })) ∧
    (∀ rest, s.agenda = .corrected :: rest →
      step s = .next { r with agenda := rest, telemetry := { s.telemetry with corrected := s.telemetry.corrected + 1 } }) ∧
    (∀ (d : DieId) m x xs rest, s.agenda = m :: rest → s.powered = true →
      (∃ w, m = .sys d w ∧ s.cores[d].words ++ [w] = x :: xs) ∨ m = .core d ∧ s.cores[d].words = x :: xs →
      ∃ t, step s = exec (decodeScalar x) t ∧ t.sysMode = true ∧ t.eccError = false ∧ t.focus = { die := d } ∧
        t.cores = s.cores.set d { s.cores[d] with words := xs } ∧ t.tiles = s.tiles ∧ t.mem = s.mem ∧ (xs ≠ [] → .core d ∈ t.pending)) ∧
    (∀ j w x rest, s.agenda = .rule j :: rest → s.powered = true → s.turnAt j = some w → w.prog[w.rule]? = some x →
      (∀ c, decodeRule x ≠ .illegalEncoding c) → s.dies[walkerDie (walkerIx j)].power ≠ .s1 →
      step s = exec (decodeRule x) { r with
        agenda := rest, sysMode := false, eccError := false, focus := { walk := w.id }
        walkLast := s.walkLast.set (walkerIx j) w.id (walkerIx j).isLt }) ∧
    (∀ j w, s.turnAt j = some w → w ∈ s.walks ∧ w.owner.isSome = true ∧ w.walker = j ∧ w.phase = .running ∧
      (w.id ≤ s.walkLast[walkerIx j] → ∀ v ∈ s.walks, v.owner.isSome = true → v.walker = j → v.phase = .running → v.id ≤ s.walkLast[walkerIx j]))

/-- R31, R33, R36, R38, R233, R253: words decode to the instructions the spec's encodings give them (a few of its own rows). -/
def Obligations.WordsDecodeAsTheSpecEncodesThem : Prop :=
  decodeScalar 0x06738005 = .add 19 19 16 5 ∧
  (∀ rest, decode 0x10 ([0x00, 0x00, 0x40, 0xFE, 0x02, 0x00, 0x01, 0x00, 0x00, 0x00, 0x10, 0x80, 0, 0, 0, 0] ++ rest) =
    .gld { ga := 0, gb := 0, comb := 0, hint := 0, chain := 0, yield := 0, stall := 0, tag := 0, eh := 0, ew := 0,
           s1 := 0x8001, s2 := 0x4008, s3 := 0, s4 := 0, s5 := 0 }) ∧
  (∀ rest, decode 0x14 ([0x00, 0x00, 0x40, 0xFE] ++ rest) = .illegalEncoding .misaligned) ∧
  (∀ rest, decode 0x8 ([0, 0, 0, 0x88] ++ rest) = .nop) ∧ decodeRule 0x70000000 = .wkMiss ∧
  decodeRule 0x1F00ABCD = .illegalEncoding .illegalField ∧ decodeRule 0x78000000 = .wkUnassignedRule 0x78000000

/-- R31, R33, R36, R38: decode and encode agree. Of every well-formed instruction a sequencer can fetch, at every value of every field, the
bytes its encoding gives decode to it, whatever follows them; a command stands at a multiple of 16. Of every well-formed walk rule, the
same. -/
def Obligations.EncodingsRoundTrip : Prop :=
  (∀ (i : Instr) (pc : BitVec 16) (rest : List Byte), i.wellFormed = true → encode i ≠ [] → (encodeWord i = none → pc.toNat % 16 = 0) →
    decode pc (encodeBytes i ++ rest) = i ∧ fetchLength pc (encodeBytes i ++ rest) = (encodeBytes i).length) ∧
  ∀ (i : Instr) (w : Word32), i.wellFormed = true → encodeRule i = some w → decodeRule w = i

/-- R374, R372, R373: what reset leaves. Every memory, every register and every table of translations, versions, reservations, contexts, quotas
and windows reads zero or is empty, but for the registers that R101 and R332 start at another value, which the model gives from reset on
(LFSR 1, lead 255: assumption 2, the model's choice); no walk, copy, demand or command is in flight, no master owns the device, and the
package has power. (BLANK, the LZ8-M and its link, and p0, are the model's choice: assumptions 1 and 2.) -/
def Obligations.ResetClearsTheMachine : Prop :=
  let s := State.reset
  s.mem = [] ∧ s.vwords = [] ∧ s.reservations = [] ∧ s.contexts = [] ∧ s.walks = [] ∧ s.owner = none ∧ s.mailQ = [] ∧ s.engineFaults = [] ∧
  s.powered = true ∧ s.saved = [] ∧ s.verPages = [] ∧ s.demand = [] ∧ s.notifies = [] ∧ s.quotas = [] ∧ s.verified = [] ∧ s.measurements = [] ∧
  s.doorbells = [] ∧ s.peers = [] ∧ s.hostOut = [] ∧ s.peerOut = [] ∧ s.responses = [] ∧ s.ideKeys = [] ∧ s.wiping = false ∧ s.clk = 0 ∧
  s.telemetry = { corrected := 0, hdmVerDrop := 0, qdrop := 0, throttle := 0, qdropBy := [] } ∧
  (∀ i : Fin 8, s.keys[i] = [] ∧ s.keySets[i] = 0) ∧
  (∀ j : Fin 128, s.walkTlb[j] = []) ∧
  (∀ d : DieId, (∀ r : XReg, readX s.cores[d].x r = 0) ∧ (∀ p : PReg, readP s.cores[d].p p = decide (p = 0)) ∧ s.cores[d].pc = 0 ∧
    s.cores[d].words = [] ∧ s.dies[d].power = .p0 ∧ s.dies[d].margin = false ∧ s.dies[d].changing = false ∧ s.dies[d].throttled = 0 ∧ s.dies[d].dtlb = [] ∧ ∀ n : Fin 64, s.dies[d].ch[n] = { bind := none, q := [] }) ∧
  ∀ t : TileId, (s.tile t).owner = none ∧ (s.tile t).sp = [] ∧ (s.tile t).istore = [] ∧ (s.tile t).present = [] ∧ (s.tile t).l1 = [] ∧ (s.tile t).utlb = [] ∧
    (s.tile t).accesses = [] ∧ (s.tile t).held = [] ∧ (s.tile t).matQ = [] ∧ (s.tile t).stream = none ∧ (s.tile t).mcst = none ∧
    (s.tile t).lfsr = 1 ∧ (s.tile t).lead = 255 ∧ (s.tile t).phase = 0 ∧ (s.tile t).split = false ∧ (s.tile t).chain = {} ∧
    (s.tile t).shadowChain = none ∧ (s.tile t).frontier = [] ∧ (s.tile t).active = {} ∧ (s.tile t).shadow = {} ∧ (s.tile t).pairIn = none ∧
    (∀ i : Fin 4, (s.tile t).mcb[i] = 0 ∧ (s.tile t).ag[i] = {}) ∧ (∀ i : Fin 16, (s.tile t).statSum[i] = 0 ∧ (s.tile t).vcSlot[i] = none) ∧
    (∀ vc : SlotId, ((s.tile t).vcs[vc]).q = [] ∧ ((s.tile t).vcs[vc]).waiting = []) ∧
    (∀ r < 64, (s.tile t).vreg r = { data := 0, side := 0, tag := 0 }) ∧
    (∀ (i j : Fin 16), ((s.tile t).a[i])[j] = { value := 0, count := 0 }) ∧ (∀ i : Fin 16, (s.tile t).m[i] = { data := 0, tag := 0 }) ∧
    (∀ (i : Fin 4) (j k : Fin 32), (((s.tile t).z[i])[j])[k] = { value := 0, count := 0 }) ∧
    ∀ k : SlotId, (s.slot t k).status = .free ∧ (∀ r : XReg, readX (s.slot t k).x r = 0) ∧ (∀ p : PReg, readP (s.slot t k).p p = decide (p = 0)) ∧
      (s.slot t k).stat = 0 ∧ (s.slot t k).pc = 0 ∧ (s.slot t k).win = 0 ∧ (s.slot t k).job = 0 ∧ (s.slot t k).wavectr = 0 ∧
      (s.slot t k).cls.isOpen = false ∧ (s.slot t k).late = [] ∧ ∀ j : Fin 16, (s.slot t k).cnt[j] = 0

/-- The invariants of the last two statements hold at reset, and of a device decommissioned there. -/
def Obligations.InvariantsHoldAtReset : Prop :=
  State.reset.canonical ∧ ({ State.reset with life := .decommissioned } : State).final

/-- R374 (how memory is laid out is the model's): every step keeps every memory in its one canonical form, so that equal memories are equal
data. -/
def Obligations.EveryStepKeepsMemoriesCanonical : Prop :=
  ∀ s t : State, s.canonical → step s = .next t → t.canonical

/-- R373: DECOMMISSIONED is final. No step of a decommissioned device leaves that state or fills a key slot; `final` also says that no KEYS
command is half done, which no run reaches. -/
def Obligations.DecommissionedIsFinal : Prop :=
  ∀ s t : State, s.final → step s = .next t → t.final
end

