-- ==== Sys2Proof/Laws/State.lean ====
section
/-! SUPPORT. One lemma per field for each update of the state that is written as a record update: what the update leaves and what it puts. -/
namespace Sys2Proof.Machine
open Sys2Proof

/-! ## Changing a tile -/

@[simp] theorem State.modTile_dies (s : State) (t : TileId) (f : Tile → Tile) : (s.modTile t f).dies = s.dies := rfl
@[simp] theorem State.modTile_contexts (s : State) (t : TileId) (f : Tile → Tile) : (s.modTile t f).contexts = s.contexts := rfl
@[simp] theorem State.modTile_mem (s : State) (t : TileId) (f : Tile → Tile) : (s.modTile t f).mem = s.mem := rfl
@[simp] theorem State.modTile_vwords (s : State) (t : TileId) (f : Tile → Tile) : (s.modTile t f).vwords = s.vwords := rfl
@[simp] theorem State.modTile_verPages (s : State) (t : TileId) (f : Tile → Tile) : (s.modTile t f).verPages = s.verPages := rfl
@[simp] theorem State.modTile_reservations (s : State) (t : TileId) (f : Tile → Tile) : (s.modTile t f).reservations = s.reservations := rfl
@[simp] theorem State.modTile_walks (s : State) (t : TileId) (f : Tile → Tile) : (s.modTile t f).walks = s.walks := rfl
@[simp] theorem State.modTile_nextWalk (s : State) (t : TileId) (f : Tile → Tile) : (s.modTile t f).nextWalk = s.nextWalk := rfl
@[simp] theorem State.modTile_walkTlb (s : State) (t : TileId) (f : Tile → Tile) : (s.modTile t f).walkTlb = s.walkTlb := rfl
@[simp] theorem State.modTile_walkLast (s : State) (t : TileId) (f : Tile → Tile) : (s.modTile t f).walkLast = s.walkLast := rfl
@[simp] theorem State.modTile_engineFaults (s : State) (t : TileId) (f : Tile → Tile) : (s.modTile t f).engineFaults = s.engineFaults := rfl
@[simp] theorem State.modTile_nextFault (s : State) (t : TileId) (f : Tile → Tile) : (s.modTile t f).nextFault = s.nextFault := rfl
@[simp] theorem State.modTile_nextCopy (s : State) (t : TileId) (f : Tile → Tile) : (s.modTile t f).nextCopy = s.nextCopy := rfl
@[simp] theorem State.modTile_demand (s : State) (t : TileId) (f : Tile → Tile) : (s.modTile t f).demand = s.demand := rfl
@[simp] theorem State.modTile_nextDemand (s : State) (t : TileId) (f : Tile → Tile) : (s.modTile t f).nextDemand = s.nextDemand := rfl
@[simp] theorem State.modTile_notifies (s : State) (t : TileId) (f : Tile → Tile) : (s.modTile t f).notifies = s.notifies := rfl
@[simp] theorem State.modTile_quotas (s : State) (t : TileId) (f : Tile → Tile) : (s.modTile t f).quotas = s.quotas := rfl
@[simp] theorem State.modTile_saved (s : State) (t : TileId) (f : Tile → Tile) : (s.modTile t f).saved = s.saved := rfl
@[simp] theorem State.modTile_hostOut (s : State) (t : TileId) (f : Tile → Tile) : (s.modTile t f).hostOut = s.hostOut := rfl
@[simp] theorem State.modTile_peerOut (s : State) (t : TileId) (f : Tile → Tile) : (s.modTile t f).peerOut = s.peerOut := rfl
@[simp] theorem State.modTile_owner (s : State) (t : TileId) (f : Tile → Tile) : (s.modTile t f).owner = s.owner := rfl
@[simp] theorem State.modTile_life (s : State) (t : TileId) (f : Tile → Tile) : (s.modTile t f).life = s.life := rfl
@[simp] theorem State.modTile_keys (s : State) (t : TileId) (f : Tile → Tile) : (s.modTile t f).keys = s.keys := rfl
@[simp] theorem State.modTile_keySets (s : State) (t : TileId) (f : Tile → Tile) : (s.modTile t f).keySets = s.keySets := rfl
@[simp] theorem State.modTile_ideKeys (s : State) (t : TileId) (f : Tile → Tile) : (s.modTile t f).ideKeys = s.ideKeys := rfl
@[simp] theorem State.modTile_measurements (s : State) (t : TileId) (f : Tile → Tile) : (s.modTile t f).measurements = s.measurements := rfl
@[simp] theorem State.modTile_verified (s : State) (t : TileId) (f : Tile → Tile) : (s.modTile t f).verified = s.verified := rfl
@[simp] theorem State.modTile_doorbells (s : State) (t : TileId) (f : Tile → Tile) : (s.modTile t f).doorbells = s.doorbells := rfl
@[simp] theorem State.modTile_peers (s : State) (t : TileId) (f : Tile → Tile) : (s.modTile t f).peers = s.peers := rfl
@[simp] theorem State.modTile_isMS (s : State) (t : TileId) (f : Tile → Tile) : (s.modTile t f).isMS = s.isMS := rfl
@[simp] theorem State.modTile_wiping (s : State) (t : TileId) (f : Tile → Tile) : (s.modTile t f).wiping = s.wiping := rfl
@[simp] theorem State.modTile_powered (s : State) (t : TileId) (f : Tile → Tile) : (s.modTile t f).powered = s.powered := rfl
@[simp] theorem State.modTile_linkLanes (s : State) (t : TileId) (f : Tile → Tile) : (s.modTile t f).linkLanes = s.linkLanes := rfl
@[simp] theorem State.modTile_linkRate (s : State) (t : TileId) (f : Tile → Tile) : (s.modTile t f).linkRate = s.linkRate := rfl
@[simp] theorem State.modTile_mailQ (s : State) (t : TileId) (f : Tile → Tile) : (s.modTile t f).mailQ = s.mailQ := rfl
@[simp] theorem State.modTile_responses (s : State) (t : TileId) (f : Tile → Tile) : (s.modTile t f).responses = s.responses := rfl
@[simp] theorem State.modTile_linkReplies (s : State) (t : TileId) (f : Tile → Tile) : (s.modTile t f).linkReplies = s.linkReplies := rfl
@[simp] theorem State.modTile_telemetry (s : State) (t : TileId) (f : Tile → Tile) : (s.modTile t f).telemetry = s.telemetry := rfl
@[simp] theorem State.modTile_cores (s : State) (t : TileId) (f : Tile → Tile) : (s.modTile t f).cores = s.cores := rfl
@[simp] theorem State.modTile_sysMode (s : State) (t : TileId) (f : Tile → Tile) : (s.modTile t f).sysMode = s.sysMode := rfl
@[simp] theorem State.modTile_eccError (s : State) (t : TileId) (f : Tile → Tile) : (s.modTile t f).eccError = s.eccError := rfl
@[simp] theorem State.modTile_clk (s : State) (t : TileId) (f : Tile → Tile) : (s.modTile t f).clk = s.clk := rfl
@[simp] theorem State.modTile_focus (s : State) (t : TileId) (f : Tile → Tile) : (s.modTile t f).focus = s.focus := rfl
@[simp] theorem State.modTile_turn (s : State) (t : TileId) (f : Tile → Tile) : (s.modTile t f).turn = s.turn := rfl
@[simp] theorem State.modTile_owedFirst (s : State) (t : TileId) (f : Tile → Tile) : (s.modTile t f).owedFirst = s.owedFirst := rfl
@[simp] theorem State.modTile_draws (s : State) (t : TileId) (f : Tile → Tile) : (s.modTile t f).draws = s.draws := rfl
@[simp] theorem State.modTile_agenda (s : State) (t : TileId) (f : Tile → Tile) : (s.modTile t f).agenda = s.agenda := rfl
@[simp] theorem State.modTile_pending (s : State) (t : TileId) (f : Tile → Tile) : (s.modTile t f).pending = s.pending := rfl

/-! ## Changing a slot -/

@[simp] theorem State.modSlot_dies (s : State) (t : TileId) (k : SlotId) (f : Slot → Slot) : (s.modSlot t k f).dies = s.dies := rfl
@[simp] theorem State.modSlot_contexts (s : State) (t : TileId) (k : SlotId) (f : Slot → Slot) : (s.modSlot t k f).contexts = s.contexts := rfl
@[simp] theorem State.modSlot_mem (s : State) (t : TileId) (k : SlotId) (f : Slot → Slot) : (s.modSlot t k f).mem = s.mem := rfl
@[simp] theorem State.modSlot_vwords (s : State) (t : TileId) (k : SlotId) (f : Slot → Slot) : (s.modSlot t k f).vwords = s.vwords := rfl
@[simp] theorem State.modSlot_verPages (s : State) (t : TileId) (k : SlotId) (f : Slot → Slot) : (s.modSlot t k f).verPages = s.verPages := rfl
@[simp] theorem State.modSlot_reservations (s : State) (t : TileId) (k : SlotId) (f : Slot → Slot) : (s.modSlot t k f).reservations = s.reservations := rfl
@[simp] theorem State.modSlot_walks (s : State) (t : TileId) (k : SlotId) (f : Slot → Slot) : (s.modSlot t k f).walks = s.walks := rfl
@[simp] theorem State.modSlot_nextWalk (s : State) (t : TileId) (k : SlotId) (f : Slot → Slot) : (s.modSlot t k f).nextWalk = s.nextWalk := rfl
@[simp] theorem State.modSlot_walkTlb (s : State) (t : TileId) (k : SlotId) (f : Slot → Slot) : (s.modSlot t k f).walkTlb = s.walkTlb := rfl
@[simp] theorem State.modSlot_walkLast (s : State) (t : TileId) (k : SlotId) (f : Slot → Slot) : (s.modSlot t k f).walkLast = s.walkLast := rfl
@[simp] theorem State.modSlot_engineFaults (s : State) (t : TileId) (k : SlotId) (f : Slot → Slot) : (s.modSlot t k f).engineFaults = s.engineFaults := rfl
@[simp] theorem State.modSlot_nextFault (s : State) (t : TileId) (k : SlotId) (f : Slot → Slot) : (s.modSlot t k f).nextFault = s.nextFault := rfl
@[simp] theorem State.modSlot_nextCopy (s : State) (t : TileId) (k : SlotId) (f : Slot → Slot) : (s.modSlot t k f).nextCopy = s.nextCopy := rfl
@[simp] theorem State.modSlot_demand (s : State) (t : TileId) (k : SlotId) (f : Slot → Slot) : (s.modSlot t k f).demand = s.demand := rfl
@[simp] theorem State.modSlot_nextDemand (s : State) (t : TileId) (k : SlotId) (f : Slot → Slot) : (s.modSlot t k f).nextDemand = s.nextDemand := rfl
@[simp] theorem State.modSlot_notifies (s : State) (t : TileId) (k : SlotId) (f : Slot → Slot) : (s.modSlot t k f).notifies = s.notifies := rfl
@[simp] theorem State.modSlot_quotas (s : State) (t : TileId) (k : SlotId) (f : Slot → Slot) : (s.modSlot t k f).quotas = s.quotas := rfl
@[simp] theorem State.modSlot_saved (s : State) (t : TileId) (k : SlotId) (f : Slot → Slot) : (s.modSlot t k f).saved = s.saved := rfl
@[simp] theorem State.modSlot_hostOut (s : State) (t : TileId) (k : SlotId) (f : Slot → Slot) : (s.modSlot t k f).hostOut = s.hostOut := rfl
@[simp] theorem State.modSlot_peerOut (s : State) (t : TileId) (k : SlotId) (f : Slot → Slot) : (s.modSlot t k f).peerOut = s.peerOut := rfl
@[simp] theorem State.modSlot_owner (s : State) (t : TileId) (k : SlotId) (f : Slot → Slot) : (s.modSlot t k f).owner = s.owner := rfl
@[simp] theorem State.modSlot_life (s : State) (t : TileId) (k : SlotId) (f : Slot → Slot) : (s.modSlot t k f).life = s.life := rfl
@[simp] theorem State.modSlot_keys (s : State) (t : TileId) (k : SlotId) (f : Slot → Slot) : (s.modSlot t k f).keys = s.keys := rfl
@[simp] theorem State.modSlot_keySets (s : State) (t : TileId) (k : SlotId) (f : Slot → Slot) : (s.modSlot t k f).keySets = s.keySets := rfl
@[simp] theorem State.modSlot_ideKeys (s : State) (t : TileId) (k : SlotId) (f : Slot → Slot) : (s.modSlot t k f).ideKeys = s.ideKeys := rfl
@[simp] theorem State.modSlot_measurements (s : State) (t : TileId) (k : SlotId) (f : Slot → Slot) : (s.modSlot t k f).measurements = s.measurements := rfl
@[simp] theorem State.modSlot_verified (s : State) (t : TileId) (k : SlotId) (f : Slot → Slot) : (s.modSlot t k f).verified = s.verified := rfl
@[simp] theorem State.modSlot_doorbells (s : State) (t : TileId) (k : SlotId) (f : Slot → Slot) : (s.modSlot t k f).doorbells = s.doorbells := rfl
@[simp] theorem State.modSlot_peers (s : State) (t : TileId) (k : SlotId) (f : Slot → Slot) : (s.modSlot t k f).peers = s.peers := rfl
@[simp] theorem State.modSlot_isMS (s : State) (t : TileId) (k : SlotId) (f : Slot → Slot) : (s.modSlot t k f).isMS = s.isMS := rfl
@[simp] theorem State.modSlot_wiping (s : State) (t : TileId) (k : SlotId) (f : Slot → Slot) : (s.modSlot t k f).wiping = s.wiping := rfl
@[simp] theorem State.modSlot_powered (s : State) (t : TileId) (k : SlotId) (f : Slot → Slot) : (s.modSlot t k f).powered = s.powered := rfl
@[simp] theorem State.modSlot_linkLanes (s : State) (t : TileId) (k : SlotId) (f : Slot → Slot) : (s.modSlot t k f).linkLanes = s.linkLanes := rfl
@[simp] theorem State.modSlot_linkRate (s : State) (t : TileId) (k : SlotId) (f : Slot → Slot) : (s.modSlot t k f).linkRate = s.linkRate := rfl
@[simp] theorem State.modSlot_mailQ (s : State) (t : TileId) (k : SlotId) (f : Slot → Slot) : (s.modSlot t k f).mailQ = s.mailQ := rfl
@[simp] theorem State.modSlot_responses (s : State) (t : TileId) (k : SlotId) (f : Slot → Slot) : (s.modSlot t k f).responses = s.responses := rfl
@[simp] theorem State.modSlot_linkReplies (s : State) (t : TileId) (k : SlotId) (f : Slot → Slot) : (s.modSlot t k f).linkReplies = s.linkReplies := rfl
@[simp] theorem State.modSlot_telemetry (s : State) (t : TileId) (k : SlotId) (f : Slot → Slot) : (s.modSlot t k f).telemetry = s.telemetry := rfl
@[simp] theorem State.modSlot_cores (s : State) (t : TileId) (k : SlotId) (f : Slot → Slot) : (s.modSlot t k f).cores = s.cores := rfl
@[simp] theorem State.modSlot_sysMode (s : State) (t : TileId) (k : SlotId) (f : Slot → Slot) : (s.modSlot t k f).sysMode = s.sysMode := rfl
@[simp] theorem State.modSlot_eccError (s : State) (t : TileId) (k : SlotId) (f : Slot → Slot) : (s.modSlot t k f).eccError = s.eccError := rfl
@[simp] theorem State.modSlot_clk (s : State) (t : TileId) (k : SlotId) (f : Slot → Slot) : (s.modSlot t k f).clk = s.clk := rfl
@[simp] theorem State.modSlot_focus (s : State) (t : TileId) (k : SlotId) (f : Slot → Slot) : (s.modSlot t k f).focus = s.focus := rfl
@[simp] theorem State.modSlot_turn (s : State) (t : TileId) (k : SlotId) (f : Slot → Slot) : (s.modSlot t k f).turn = s.turn := rfl
@[simp] theorem State.modSlot_owedFirst (s : State) (t : TileId) (k : SlotId) (f : Slot → Slot) : (s.modSlot t k f).owedFirst = s.owedFirst := rfl
@[simp] theorem State.modSlot_draws (s : State) (t : TileId) (k : SlotId) (f : Slot → Slot) : (s.modSlot t k f).draws = s.draws := rfl
@[simp] theorem State.modSlot_agenda (s : State) (t : TileId) (k : SlotId) (f : Slot → Slot) : (s.modSlot t k f).agenda = s.agenda := rfl
@[simp] theorem State.modSlot_pending (s : State) (t : TileId) (k : SlotId) (f : Slot → Slot) : (s.modSlot t k f).pending = s.pending := rfl

/-! ## Changing the slot in focus -/

@[simp] theorem State.modCur_dies (s : State) (f : Slot → Slot) : (s.modCur f).dies = s.dies := rfl
@[simp] theorem State.modCur_contexts (s : State) (f : Slot → Slot) : (s.modCur f).contexts = s.contexts := rfl
@[simp] theorem State.modCur_mem (s : State) (f : Slot → Slot) : (s.modCur f).mem = s.mem := rfl
@[simp] theorem State.modCur_vwords (s : State) (f : Slot → Slot) : (s.modCur f).vwords = s.vwords := rfl
@[simp] theorem State.modCur_verPages (s : State) (f : Slot → Slot) : (s.modCur f).verPages = s.verPages := rfl
@[simp] theorem State.modCur_reservations (s : State) (f : Slot → Slot) : (s.modCur f).reservations = s.reservations := rfl
@[simp] theorem State.modCur_walks (s : State) (f : Slot → Slot) : (s.modCur f).walks = s.walks := rfl
@[simp] theorem State.modCur_nextWalk (s : State) (f : Slot → Slot) : (s.modCur f).nextWalk = s.nextWalk := rfl
@[simp] theorem State.modCur_walkTlb (s : State) (f : Slot → Slot) : (s.modCur f).walkTlb = s.walkTlb := rfl
@[simp] theorem State.modCur_walkLast (s : State) (f : Slot → Slot) : (s.modCur f).walkLast = s.walkLast := rfl
@[simp] theorem State.modCur_engineFaults (s : State) (f : Slot → Slot) : (s.modCur f).engineFaults = s.engineFaults := rfl
@[simp] theorem State.modCur_nextFault (s : State) (f : Slot → Slot) : (s.modCur f).nextFault = s.nextFault := rfl
@[simp] theorem State.modCur_nextCopy (s : State) (f : Slot → Slot) : (s.modCur f).nextCopy = s.nextCopy := rfl
@[simp] theorem State.modCur_demand (s : State) (f : Slot → Slot) : (s.modCur f).demand = s.demand := rfl
@[simp] theorem State.modCur_nextDemand (s : State) (f : Slot → Slot) : (s.modCur f).nextDemand = s.nextDemand := rfl
@[simp] theorem State.modCur_notifies (s : State) (f : Slot → Slot) : (s.modCur f).notifies = s.notifies := rfl
@[simp] theorem State.modCur_quotas (s : State) (f : Slot → Slot) : (s.modCur f).quotas = s.quotas := rfl
@[simp] theorem State.modCur_saved (s : State) (f : Slot → Slot) : (s.modCur f).saved = s.saved := rfl
@[simp] theorem State.modCur_hostOut (s : State) (f : Slot → Slot) : (s.modCur f).hostOut = s.hostOut := rfl
@[simp] theorem State.modCur_peerOut (s : State) (f : Slot → Slot) : (s.modCur f).peerOut = s.peerOut := rfl
@[simp] theorem State.modCur_owner (s : State) (f : Slot → Slot) : (s.modCur f).owner = s.owner := rfl
@[simp] theorem State.modCur_life (s : State) (f : Slot → Slot) : (s.modCur f).life = s.life := rfl
@[simp] theorem State.modCur_keys (s : State) (f : Slot → Slot) : (s.modCur f).keys = s.keys := rfl
@[simp] theorem State.modCur_keySets (s : State) (f : Slot → Slot) : (s.modCur f).keySets = s.keySets := rfl
@[simp] theorem State.modCur_ideKeys (s : State) (f : Slot → Slot) : (s.modCur f).ideKeys = s.ideKeys := rfl
@[simp] theorem State.modCur_measurements (s : State) (f : Slot → Slot) : (s.modCur f).measurements = s.measurements := rfl
@[simp] theorem State.modCur_verified (s : State) (f : Slot → Slot) : (s.modCur f).verified = s.verified := rfl
@[simp] theorem State.modCur_doorbells (s : State) (f : Slot → Slot) : (s.modCur f).doorbells = s.doorbells := rfl
@[simp] theorem State.modCur_peers (s : State) (f : Slot → Slot) : (s.modCur f).peers = s.peers := rfl
@[simp] theorem State.modCur_isMS (s : State) (f : Slot → Slot) : (s.modCur f).isMS = s.isMS := rfl
@[simp] theorem State.modCur_wiping (s : State) (f : Slot → Slot) : (s.modCur f).wiping = s.wiping := rfl
@[simp] theorem State.modCur_powered (s : State) (f : Slot → Slot) : (s.modCur f).powered = s.powered := rfl
@[simp] theorem State.modCur_linkLanes (s : State) (f : Slot → Slot) : (s.modCur f).linkLanes = s.linkLanes := rfl
@[simp] theorem State.modCur_linkRate (s : State) (f : Slot → Slot) : (s.modCur f).linkRate = s.linkRate := rfl
@[simp] theorem State.modCur_mailQ (s : State) (f : Slot → Slot) : (s.modCur f).mailQ = s.mailQ := rfl
@[simp] theorem State.modCur_responses (s : State) (f : Slot → Slot) : (s.modCur f).responses = s.responses := rfl
@[simp] theorem State.modCur_linkReplies (s : State) (f : Slot → Slot) : (s.modCur f).linkReplies = s.linkReplies := rfl
@[simp] theorem State.modCur_telemetry (s : State) (f : Slot → Slot) : (s.modCur f).telemetry = s.telemetry := rfl
@[simp] theorem State.modCur_cores (s : State) (f : Slot → Slot) : (s.modCur f).cores = s.cores := rfl
@[simp] theorem State.modCur_sysMode (s : State) (f : Slot → Slot) : (s.modCur f).sysMode = s.sysMode := rfl
@[simp] theorem State.modCur_eccError (s : State) (f : Slot → Slot) : (s.modCur f).eccError = s.eccError := rfl
@[simp] theorem State.modCur_clk (s : State) (f : Slot → Slot) : (s.modCur f).clk = s.clk := rfl
@[simp] theorem State.modCur_focus (s : State) (f : Slot → Slot) : (s.modCur f).focus = s.focus := rfl
@[simp] theorem State.modCur_turn (s : State) (f : Slot → Slot) : (s.modCur f).turn = s.turn := rfl
@[simp] theorem State.modCur_owedFirst (s : State) (f : Slot → Slot) : (s.modCur f).owedFirst = s.owedFirst := rfl
@[simp] theorem State.modCur_draws (s : State) (f : Slot → Slot) : (s.modCur f).draws = s.draws := rfl
@[simp] theorem State.modCur_agenda (s : State) (f : Slot → Slot) : (s.modCur f).agenda = s.agenda := rfl
@[simp] theorem State.modCur_pending (s : State) (f : Slot → Slot) : (s.modCur f).pending = s.pending := rfl

/-! ## Changing a VC -/

@[simp] theorem State.modVc_dies (s : State) (t : TileId) (vc : SlotId) (f : VChan → VChan) : (s.modVc t vc f).dies = s.dies := rfl
@[simp] theorem State.modVc_contexts (s : State) (t : TileId) (vc : SlotId) (f : VChan → VChan) : (s.modVc t vc f).contexts = s.contexts := rfl
@[simp] theorem State.modVc_mem (s : State) (t : TileId) (vc : SlotId) (f : VChan → VChan) : (s.modVc t vc f).mem = s.mem := rfl
@[simp] theorem State.modVc_vwords (s : State) (t : TileId) (vc : SlotId) (f : VChan → VChan) : (s.modVc t vc f).vwords = s.vwords := rfl
@[simp] theorem State.modVc_verPages (s : State) (t : TileId) (vc : SlotId) (f : VChan → VChan) : (s.modVc t vc f).verPages = s.verPages := rfl
@[simp] theorem State.modVc_reservations (s : State) (t : TileId) (vc : SlotId) (f : VChan → VChan) : (s.modVc t vc f).reservations = s.reservations := rfl
@[simp] theorem State.modVc_walks (s : State) (t : TileId) (vc : SlotId) (f : VChan → VChan) : (s.modVc t vc f).walks = s.walks := rfl
@[simp] theorem State.modVc_nextWalk (s : State) (t : TileId) (vc : SlotId) (f : VChan → VChan) : (s.modVc t vc f).nextWalk = s.nextWalk := rfl
@[simp] theorem State.modVc_walkTlb (s : State) (t : TileId) (vc : SlotId) (f : VChan → VChan) : (s.modVc t vc f).walkTlb = s.walkTlb := rfl
@[simp] theorem State.modVc_walkLast (s : State) (t : TileId) (vc : SlotId) (f : VChan → VChan) : (s.modVc t vc f).walkLast = s.walkLast := rfl
@[simp] theorem State.modVc_engineFaults (s : State) (t : TileId) (vc : SlotId) (f : VChan → VChan) : (s.modVc t vc f).engineFaults = s.engineFaults := rfl
@[simp] theorem State.modVc_nextFault (s : State) (t : TileId) (vc : SlotId) (f : VChan → VChan) : (s.modVc t vc f).nextFault = s.nextFault := rfl
@[simp] theorem State.modVc_nextCopy (s : State) (t : TileId) (vc : SlotId) (f : VChan → VChan) : (s.modVc t vc f).nextCopy = s.nextCopy := rfl
@[simp] theorem State.modVc_demand (s : State) (t : TileId) (vc : SlotId) (f : VChan → VChan) : (s.modVc t vc f).demand = s.demand := rfl
@[simp] theorem State.modVc_nextDemand (s : State) (t : TileId) (vc : SlotId) (f : VChan → VChan) : (s.modVc t vc f).nextDemand = s.nextDemand := rfl
@[simp] theorem State.modVc_notifies (s : State) (t : TileId) (vc : SlotId) (f : VChan → VChan) : (s.modVc t vc f).notifies = s.notifies := rfl
@[simp] theorem State.modVc_quotas (s : State) (t : TileId) (vc : SlotId) (f : VChan → VChan) : (s.modVc t vc f).quotas = s.quotas := rfl
@[simp] theorem State.modVc_saved (s : State) (t : TileId) (vc : SlotId) (f : VChan → VChan) : (s.modVc t vc f).saved = s.saved := rfl
@[simp] theorem State.modVc_hostOut (s : State) (t : TileId) (vc : SlotId) (f : VChan → VChan) : (s.modVc t vc f).hostOut = s.hostOut := rfl
@[simp] theorem State.modVc_peerOut (s : State) (t : TileId) (vc : SlotId) (f : VChan → VChan) : (s.modVc t vc f).peerOut = s.peerOut := rfl
@[simp] theorem State.modVc_owner (s : State) (t : TileId) (vc : SlotId) (f : VChan → VChan) : (s.modVc t vc f).owner = s.owner := rfl
@[simp] theorem State.modVc_life (s : State) (t : TileId) (vc : SlotId) (f : VChan → VChan) : (s.modVc t vc f).life = s.life := rfl
@[simp] theorem State.modVc_keys (s : State) (t : TileId) (vc : SlotId) (f : VChan → VChan) : (s.modVc t vc f).keys = s.keys := rfl
@[simp] theorem State.modVc_keySets (s : State) (t : TileId) (vc : SlotId) (f : VChan → VChan) : (s.modVc t vc f).keySets = s.keySets := rfl
@[simp] theorem State.modVc_ideKeys (s : State) (t : TileId) (vc : SlotId) (f : VChan → VChan) : (s.modVc t vc f).ideKeys = s.ideKeys := rfl
@[simp] theorem State.modVc_measurements (s : State) (t : TileId) (vc : SlotId) (f : VChan → VChan) : (s.modVc t vc f).measurements = s.measurements := rfl
@[simp] theorem State.modVc_verified (s : State) (t : TileId) (vc : SlotId) (f : VChan → VChan) : (s.modVc t vc f).verified = s.verified := rfl
@[simp] theorem State.modVc_doorbells (s : State) (t : TileId) (vc : SlotId) (f : VChan → VChan) : (s.modVc t vc f).doorbells = s.doorbells := rfl
@[simp] theorem State.modVc_peers (s : State) (t : TileId) (vc : SlotId) (f : VChan → VChan) : (s.modVc t vc f).peers = s.peers := rfl
@[simp] theorem State.modVc_isMS (s : State) (t : TileId) (vc : SlotId) (f : VChan → VChan) : (s.modVc t vc f).isMS = s.isMS := rfl
@[simp] theorem State.modVc_wiping (s : State) (t : TileId) (vc : SlotId) (f : VChan → VChan) : (s.modVc t vc f).wiping = s.wiping := rfl
@[simp] theorem State.modVc_powered (s : State) (t : TileId) (vc : SlotId) (f : VChan → VChan) : (s.modVc t vc f).powered = s.powered := rfl
@[simp] theorem State.modVc_linkLanes (s : State) (t : TileId) (vc : SlotId) (f : VChan → VChan) : (s.modVc t vc f).linkLanes = s.linkLanes := rfl
@[simp] theorem State.modVc_linkRate (s : State) (t : TileId) (vc : SlotId) (f : VChan → VChan) : (s.modVc t vc f).linkRate = s.linkRate := rfl
@[simp] theorem State.modVc_mailQ (s : State) (t : TileId) (vc : SlotId) (f : VChan → VChan) : (s.modVc t vc f).mailQ = s.mailQ := rfl
@[simp] theorem State.modVc_responses (s : State) (t : TileId) (vc : SlotId) (f : VChan → VChan) : (s.modVc t vc f).responses = s.responses := rfl
@[simp] theorem State.modVc_linkReplies (s : State) (t : TileId) (vc : SlotId) (f : VChan → VChan) : (s.modVc t vc f).linkReplies = s.linkReplies := rfl
@[simp] theorem State.modVc_telemetry (s : State) (t : TileId) (vc : SlotId) (f : VChan → VChan) : (s.modVc t vc f).telemetry = s.telemetry := rfl
@[simp] theorem State.modVc_cores (s : State) (t : TileId) (vc : SlotId) (f : VChan → VChan) : (s.modVc t vc f).cores = s.cores := rfl
@[simp] theorem State.modVc_sysMode (s : State) (t : TileId) (vc : SlotId) (f : VChan → VChan) : (s.modVc t vc f).sysMode = s.sysMode := rfl
@[simp] theorem State.modVc_eccError (s : State) (t : TileId) (vc : SlotId) (f : VChan → VChan) : (s.modVc t vc f).eccError = s.eccError := rfl
@[simp] theorem State.modVc_clk (s : State) (t : TileId) (vc : SlotId) (f : VChan → VChan) : (s.modVc t vc f).clk = s.clk := rfl
@[simp] theorem State.modVc_focus (s : State) (t : TileId) (vc : SlotId) (f : VChan → VChan) : (s.modVc t vc f).focus = s.focus := rfl
@[simp] theorem State.modVc_turn (s : State) (t : TileId) (vc : SlotId) (f : VChan → VChan) : (s.modVc t vc f).turn = s.turn := rfl
@[simp] theorem State.modVc_owedFirst (s : State) (t : TileId) (vc : SlotId) (f : VChan → VChan) : (s.modVc t vc f).owedFirst = s.owedFirst := rfl
@[simp] theorem State.modVc_draws (s : State) (t : TileId) (vc : SlotId) (f : VChan → VChan) : (s.modVc t vc f).draws = s.draws := rfl
@[simp] theorem State.modVc_agenda (s : State) (t : TileId) (vc : SlotId) (f : VChan → VChan) : (s.modVc t vc f).agenda = s.agenda := rfl
@[simp] theorem State.modVc_pending (s : State) (t : TileId) (vc : SlotId) (f : VChan → VChan) : (s.modVc t vc f).pending = s.pending := rfl

/-! ## Changing a die -/

@[simp] theorem State.modDie_tiles (s : State) (d : DieId) (f : Die → Die) : (s.modDie d f).tiles = s.tiles := rfl
@[simp] theorem State.modDie_contexts (s : State) (d : DieId) (f : Die → Die) : (s.modDie d f).contexts = s.contexts := rfl
@[simp] theorem State.modDie_mem (s : State) (d : DieId) (f : Die → Die) : (s.modDie d f).mem = s.mem := rfl
@[simp] theorem State.modDie_vwords (s : State) (d : DieId) (f : Die → Die) : (s.modDie d f).vwords = s.vwords := rfl
@[simp] theorem State.modDie_verPages (s : State) (d : DieId) (f : Die → Die) : (s.modDie d f).verPages = s.verPages := rfl
@[simp] theorem State.modDie_reservations (s : State) (d : DieId) (f : Die → Die) : (s.modDie d f).reservations = s.reservations := rfl
@[simp] theorem State.modDie_walks (s : State) (d : DieId) (f : Die → Die) : (s.modDie d f).walks = s.walks := rfl
@[simp] theorem State.modDie_nextWalk (s : State) (d : DieId) (f : Die → Die) : (s.modDie d f).nextWalk = s.nextWalk := rfl
@[simp] theorem State.modDie_walkTlb (s : State) (d : DieId) (f : Die → Die) : (s.modDie d f).walkTlb = s.walkTlb := rfl
@[simp] theorem State.modDie_walkLast (s : State) (d : DieId) (f : Die → Die) : (s.modDie d f).walkLast = s.walkLast := rfl
@[simp] theorem State.modDie_engineFaults (s : State) (d : DieId) (f : Die → Die) : (s.modDie d f).engineFaults = s.engineFaults := rfl
@[simp] theorem State.modDie_nextFault (s : State) (d : DieId) (f : Die → Die) : (s.modDie d f).nextFault = s.nextFault := rfl
@[simp] theorem State.modDie_nextCopy (s : State) (d : DieId) (f : Die → Die) : (s.modDie d f).nextCopy = s.nextCopy := rfl
@[simp] theorem State.modDie_demand (s : State) (d : DieId) (f : Die → Die) : (s.modDie d f).demand = s.demand := rfl
@[simp] theorem State.modDie_nextDemand (s : State) (d : DieId) (f : Die → Die) : (s.modDie d f).nextDemand = s.nextDemand := rfl
@[simp] theorem State.modDie_notifies (s : State) (d : DieId) (f : Die → Die) : (s.modDie d f).notifies = s.notifies := rfl
@[simp] theorem State.modDie_quotas (s : State) (d : DieId) (f : Die → Die) : (s.modDie d f).quotas = s.quotas := rfl
@[simp] theorem State.modDie_saved (s : State) (d : DieId) (f : Die → Die) : (s.modDie d f).saved = s.saved := rfl
@[simp] theorem State.modDie_hostOut (s : State) (d : DieId) (f : Die → Die) : (s.modDie d f).hostOut = s.hostOut := rfl
@[simp] theorem State.modDie_peerOut (s : State) (d : DieId) (f : Die → Die) : (s.modDie d f).peerOut = s.peerOut := rfl
@[simp] theorem State.modDie_owner (s : State) (d : DieId) (f : Die → Die) : (s.modDie d f).owner = s.owner := rfl
@[simp] theorem State.modDie_life (s : State) (d : DieId) (f : Die → Die) : (s.modDie d f).life = s.life := rfl
@[simp] theorem State.modDie_keys (s : State) (d : DieId) (f : Die → Die) : (s.modDie d f).keys = s.keys := rfl
@[simp] theorem State.modDie_keySets (s : State) (d : DieId) (f : Die → Die) : (s.modDie d f).keySets = s.keySets := rfl
@[simp] theorem State.modDie_ideKeys (s : State) (d : DieId) (f : Die → Die) : (s.modDie d f).ideKeys = s.ideKeys := rfl
@[simp] theorem State.modDie_measurements (s : State) (d : DieId) (f : Die → Die) : (s.modDie d f).measurements = s.measurements := rfl
@[simp] theorem State.modDie_verified (s : State) (d : DieId) (f : Die → Die) : (s.modDie d f).verified = s.verified := rfl
@[simp] theorem State.modDie_doorbells (s : State) (d : DieId) (f : Die → Die) : (s.modDie d f).doorbells = s.doorbells := rfl
@[simp] theorem State.modDie_peers (s : State) (d : DieId) (f : Die → Die) : (s.modDie d f).peers = s.peers := rfl
@[simp] theorem State.modDie_isMS (s : State) (d : DieId) (f : Die → Die) : (s.modDie d f).isMS = s.isMS := rfl
@[simp] theorem State.modDie_wiping (s : State) (d : DieId) (f : Die → Die) : (s.modDie d f).wiping = s.wiping := rfl
@[simp] theorem State.modDie_powered (s : State) (d : DieId) (f : Die → Die) : (s.modDie d f).powered = s.powered := rfl
@[simp] theorem State.modDie_linkLanes (s : State) (d : DieId) (f : Die → Die) : (s.modDie d f).linkLanes = s.linkLanes := rfl
@[simp] theorem State.modDie_linkRate (s : State) (d : DieId) (f : Die → Die) : (s.modDie d f).linkRate = s.linkRate := rfl
@[simp] theorem State.modDie_mailQ (s : State) (d : DieId) (f : Die → Die) : (s.modDie d f).mailQ = s.mailQ := rfl
@[simp] theorem State.modDie_responses (s : State) (d : DieId) (f : Die → Die) : (s.modDie d f).responses = s.responses := rfl
@[simp] theorem State.modDie_linkReplies (s : State) (d : DieId) (f : Die → Die) : (s.modDie d f).linkReplies = s.linkReplies := rfl
@[simp] theorem State.modDie_telemetry (s : State) (d : DieId) (f : Die → Die) : (s.modDie d f).telemetry = s.telemetry := rfl
@[simp] theorem State.modDie_cores (s : State) (d : DieId) (f : Die → Die) : (s.modDie d f).cores = s.cores := rfl
@[simp] theorem State.modDie_sysMode (s : State) (d : DieId) (f : Die → Die) : (s.modDie d f).sysMode = s.sysMode := rfl
@[simp] theorem State.modDie_eccError (s : State) (d : DieId) (f : Die → Die) : (s.modDie d f).eccError = s.eccError := rfl
@[simp] theorem State.modDie_clk (s : State) (d : DieId) (f : Die → Die) : (s.modDie d f).clk = s.clk := rfl
@[simp] theorem State.modDie_focus (s : State) (d : DieId) (f : Die → Die) : (s.modDie d f).focus = s.focus := rfl
@[simp] theorem State.modDie_turn (s : State) (d : DieId) (f : Die → Die) : (s.modDie d f).turn = s.turn := rfl
@[simp] theorem State.modDie_owedFirst (s : State) (d : DieId) (f : Die → Die) : (s.modDie d f).owedFirst = s.owedFirst := rfl
@[simp] theorem State.modDie_draws (s : State) (d : DieId) (f : Die → Die) : (s.modDie d f).draws = s.draws := rfl
@[simp] theorem State.modDie_agenda (s : State) (d : DieId) (f : Die → Die) : (s.modDie d f).agenda = s.agenda := rfl
@[simp] theorem State.modDie_pending (s : State) (d : DieId) (f : Die → Die) : (s.modDie d f).pending = s.pending := rfl

/-! ## Changing the management core in focus -/

@[simp] theorem State.modCore_tiles (s : State) (f : Core → Core) : (s.modCore f).tiles = s.tiles := rfl
@[simp] theorem State.modCore_dies (s : State) (f : Core → Core) : (s.modCore f).dies = s.dies := rfl
@[simp] theorem State.modCore_contexts (s : State) (f : Core → Core) : (s.modCore f).contexts = s.contexts := rfl
@[simp] theorem State.modCore_mem (s : State) (f : Core → Core) : (s.modCore f).mem = s.mem := rfl
@[simp] theorem State.modCore_vwords (s : State) (f : Core → Core) : (s.modCore f).vwords = s.vwords := rfl
@[simp] theorem State.modCore_verPages (s : State) (f : Core → Core) : (s.modCore f).verPages = s.verPages := rfl
@[simp] theorem State.modCore_reservations (s : State) (f : Core → Core) : (s.modCore f).reservations = s.reservations := rfl
@[simp] theorem State.modCore_walks (s : State) (f : Core → Core) : (s.modCore f).walks = s.walks := rfl
@[simp] theorem State.modCore_nextWalk (s : State) (f : Core → Core) : (s.modCore f).nextWalk = s.nextWalk := rfl
@[simp] theorem State.modCore_walkTlb (s : State) (f : Core → Core) : (s.modCore f).walkTlb = s.walkTlb := rfl
@[simp] theorem State.modCore_walkLast (s : State) (f : Core → Core) : (s.modCore f).walkLast = s.walkLast := rfl
@[simp] theorem State.modCore_engineFaults (s : State) (f : Core → Core) : (s.modCore f).engineFaults = s.engineFaults := rfl
@[simp] theorem State.modCore_nextFault (s : State) (f : Core → Core) : (s.modCore f).nextFault = s.nextFault := rfl
@[simp] theorem State.modCore_nextCopy (s : State) (f : Core → Core) : (s.modCore f).nextCopy = s.nextCopy := rfl
@[simp] theorem State.modCore_demand (s : State) (f : Core → Core) : (s.modCore f).demand = s.demand := rfl
@[simp] theorem State.modCore_nextDemand (s : State) (f : Core → Core) : (s.modCore f).nextDemand = s.nextDemand := rfl
@[simp] theorem State.modCore_notifies (s : State) (f : Core → Core) : (s.modCore f).notifies = s.notifies := rfl
@[simp] theorem State.modCore_quotas (s : State) (f : Core → Core) : (s.modCore f).quotas = s.quotas := rfl
@[simp] theorem State.modCore_saved (s : State) (f : Core → Core) : (s.modCore f).saved = s.saved := rfl
@[simp] theorem State.modCore_hostOut (s : State) (f : Core → Core) : (s.modCore f).hostOut = s.hostOut := rfl
@[simp] theorem State.modCore_peerOut (s : State) (f : Core → Core) : (s.modCore f).peerOut = s.peerOut := rfl
@[simp] theorem State.modCore_owner (s : State) (f : Core → Core) : (s.modCore f).owner = s.owner := rfl
@[simp] theorem State.modCore_life (s : State) (f : Core → Core) : (s.modCore f).life = s.life := rfl
@[simp] theorem State.modCore_keys (s : State) (f : Core → Core) : (s.modCore f).keys = s.keys := rfl
@[simp] theorem State.modCore_keySets (s : State) (f : Core → Core) : (s.modCore f).keySets = s.keySets := rfl
@[simp] theorem State.modCore_ideKeys (s : State) (f : Core → Core) : (s.modCore f).ideKeys = s.ideKeys := rfl
@[simp] theorem State.modCore_measurements (s : State) (f : Core → Core) : (s.modCore f).measurements = s.measurements := rfl
@[simp] theorem State.modCore_verified (s : State) (f : Core → Core) : (s.modCore f).verified = s.verified := rfl
@[simp] theorem State.modCore_doorbells (s : State) (f : Core → Core) : (s.modCore f).doorbells = s.doorbells := rfl
@[simp] theorem State.modCore_peers (s : State) (f : Core → Core) : (s.modCore f).peers = s.peers := rfl
@[simp] theorem State.modCore_isMS (s : State) (f : Core → Core) : (s.modCore f).isMS = s.isMS := rfl
@[simp] theorem State.modCore_wiping (s : State) (f : Core → Core) : (s.modCore f).wiping = s.wiping := rfl
@[simp] theorem State.modCore_powered (s : State) (f : Core → Core) : (s.modCore f).powered = s.powered := rfl
@[simp] theorem State.modCore_linkLanes (s : State) (f : Core → Core) : (s.modCore f).linkLanes = s.linkLanes := rfl
@[simp] theorem State.modCore_linkRate (s : State) (f : Core → Core) : (s.modCore f).linkRate = s.linkRate := rfl
@[simp] theorem State.modCore_mailQ (s : State) (f : Core → Core) : (s.modCore f).mailQ = s.mailQ := rfl
@[simp] theorem State.modCore_responses (s : State) (f : Core → Core) : (s.modCore f).responses = s.responses := rfl
@[simp] theorem State.modCore_linkReplies (s : State) (f : Core → Core) : (s.modCore f).linkReplies = s.linkReplies := rfl
@[simp] theorem State.modCore_telemetry (s : State) (f : Core → Core) : (s.modCore f).telemetry = s.telemetry := rfl
@[simp] theorem State.modCore_sysMode (s : State) (f : Core → Core) : (s.modCore f).sysMode = s.sysMode := rfl
@[simp] theorem State.modCore_eccError (s : State) (f : Core → Core) : (s.modCore f).eccError = s.eccError := rfl
@[simp] theorem State.modCore_clk (s : State) (f : Core → Core) : (s.modCore f).clk = s.clk := rfl
@[simp] theorem State.modCore_focus (s : State) (f : Core → Core) : (s.modCore f).focus = s.focus := rfl
@[simp] theorem State.modCore_turn (s : State) (f : Core → Core) : (s.modCore f).turn = s.turn := rfl
@[simp] theorem State.modCore_owedFirst (s : State) (f : Core → Core) : (s.modCore f).owedFirst = s.owedFirst := rfl
@[simp] theorem State.modCore_draws (s : State) (f : Core → Core) : (s.modCore f).draws = s.draws := rfl
@[simp] theorem State.modCore_agenda (s : State) (f : Core → Core) : (s.modCore f).agenda = s.agenda := rfl
@[simp] theorem State.modCore_pending (s : State) (f : Core → Core) : (s.modCore f).pending = s.pending := rfl

/-! ## Changing a context -/

@[simp] theorem State.modCtx_tiles (s : State) (n : Nat) (f : Context → Context) : (s.modCtx n f).tiles = s.tiles := rfl
@[simp] theorem State.modCtx_dies (s : State) (n : Nat) (f : Context → Context) : (s.modCtx n f).dies = s.dies := rfl
@[simp] theorem State.modCtx_mem (s : State) (n : Nat) (f : Context → Context) : (s.modCtx n f).mem = s.mem := rfl
@[simp] theorem State.modCtx_vwords (s : State) (n : Nat) (f : Context → Context) : (s.modCtx n f).vwords = s.vwords := rfl
@[simp] theorem State.modCtx_verPages (s : State) (n : Nat) (f : Context → Context) : (s.modCtx n f).verPages = s.verPages := rfl
@[simp] theorem State.modCtx_reservations (s : State) (n : Nat) (f : Context → Context) : (s.modCtx n f).reservations = s.reservations := rfl
@[simp] theorem State.modCtx_walks (s : State) (n : Nat) (f : Context → Context) : (s.modCtx n f).walks = s.walks := rfl
@[simp] theorem State.modCtx_nextWalk (s : State) (n : Nat) (f : Context → Context) : (s.modCtx n f).nextWalk = s.nextWalk := rfl
@[simp] theorem State.modCtx_walkTlb (s : State) (n : Nat) (f : Context → Context) : (s.modCtx n f).walkTlb = s.walkTlb := rfl
@[simp] theorem State.modCtx_walkLast (s : State) (n : Nat) (f : Context → Context) : (s.modCtx n f).walkLast = s.walkLast := rfl
@[simp] theorem State.modCtx_engineFaults (s : State) (n : Nat) (f : Context → Context) : (s.modCtx n f).engineFaults = s.engineFaults := rfl
@[simp] theorem State.modCtx_nextFault (s : State) (n : Nat) (f : Context → Context) : (s.modCtx n f).nextFault = s.nextFault := rfl
@[simp] theorem State.modCtx_nextCopy (s : State) (n : Nat) (f : Context → Context) : (s.modCtx n f).nextCopy = s.nextCopy := rfl
@[simp] theorem State.modCtx_demand (s : State) (n : Nat) (f : Context → Context) : (s.modCtx n f).demand = s.demand := rfl
@[simp] theorem State.modCtx_nextDemand (s : State) (n : Nat) (f : Context → Context) : (s.modCtx n f).nextDemand = s.nextDemand := rfl
@[simp] theorem State.modCtx_notifies (s : State) (n : Nat) (f : Context → Context) : (s.modCtx n f).notifies = s.notifies := rfl
@[simp] theorem State.modCtx_quotas (s : State) (n : Nat) (f : Context → Context) : (s.modCtx n f).quotas = s.quotas := rfl
@[simp] theorem State.modCtx_saved (s : State) (n : Nat) (f : Context → Context) : (s.modCtx n f).saved = s.saved := rfl
@[simp] theorem State.modCtx_hostOut (s : State) (n : Nat) (f : Context → Context) : (s.modCtx n f).hostOut = s.hostOut := rfl
@[simp] theorem State.modCtx_peerOut (s : State) (n : Nat) (f : Context → Context) : (s.modCtx n f).peerOut = s.peerOut := rfl
@[simp] theorem State.modCtx_owner (s : State) (n : Nat) (f : Context → Context) : (s.modCtx n f).owner = s.owner := rfl
@[simp] theorem State.modCtx_life (s : State) (n : Nat) (f : Context → Context) : (s.modCtx n f).life = s.life := rfl
@[simp] theorem State.modCtx_keys (s : State) (n : Nat) (f : Context → Context) : (s.modCtx n f).keys = s.keys := rfl
@[simp] theorem State.modCtx_keySets (s : State) (n : Nat) (f : Context → Context) : (s.modCtx n f).keySets = s.keySets := rfl
@[simp] theorem State.modCtx_ideKeys (s : State) (n : Nat) (f : Context → Context) : (s.modCtx n f).ideKeys = s.ideKeys := rfl
@[simp] theorem State.modCtx_measurements (s : State) (n : Nat) (f : Context → Context) : (s.modCtx n f).measurements = s.measurements := rfl
@[simp] theorem State.modCtx_verified (s : State) (n : Nat) (f : Context → Context) : (s.modCtx n f).verified = s.verified := rfl
@[simp] theorem State.modCtx_doorbells (s : State) (n : Nat) (f : Context → Context) : (s.modCtx n f).doorbells = s.doorbells := rfl
@[simp] theorem State.modCtx_peers (s : State) (n : Nat) (f : Context → Context) : (s.modCtx n f).peers = s.peers := rfl
@[simp] theorem State.modCtx_isMS (s : State) (n : Nat) (f : Context → Context) : (s.modCtx n f).isMS = s.isMS := rfl
@[simp] theorem State.modCtx_wiping (s : State) (n : Nat) (f : Context → Context) : (s.modCtx n f).wiping = s.wiping := rfl
@[simp] theorem State.modCtx_powered (s : State) (n : Nat) (f : Context → Context) : (s.modCtx n f).powered = s.powered := rfl
@[simp] theorem State.modCtx_linkLanes (s : State) (n : Nat) (f : Context → Context) : (s.modCtx n f).linkLanes = s.linkLanes := rfl
@[simp] theorem State.modCtx_linkRate (s : State) (n : Nat) (f : Context → Context) : (s.modCtx n f).linkRate = s.linkRate := rfl
@[simp] theorem State.modCtx_mailQ (s : State) (n : Nat) (f : Context → Context) : (s.modCtx n f).mailQ = s.mailQ := rfl
@[simp] theorem State.modCtx_responses (s : State) (n : Nat) (f : Context → Context) : (s.modCtx n f).responses = s.responses := rfl
@[simp] theorem State.modCtx_linkReplies (s : State) (n : Nat) (f : Context → Context) : (s.modCtx n f).linkReplies = s.linkReplies := rfl
@[simp] theorem State.modCtx_telemetry (s : State) (n : Nat) (f : Context → Context) : (s.modCtx n f).telemetry = s.telemetry := rfl
@[simp] theorem State.modCtx_cores (s : State) (n : Nat) (f : Context → Context) : (s.modCtx n f).cores = s.cores := rfl
@[simp] theorem State.modCtx_sysMode (s : State) (n : Nat) (f : Context → Context) : (s.modCtx n f).sysMode = s.sysMode := rfl
@[simp] theorem State.modCtx_eccError (s : State) (n : Nat) (f : Context → Context) : (s.modCtx n f).eccError = s.eccError := rfl
@[simp] theorem State.modCtx_clk (s : State) (n : Nat) (f : Context → Context) : (s.modCtx n f).clk = s.clk := rfl
@[simp] theorem State.modCtx_focus (s : State) (n : Nat) (f : Context → Context) : (s.modCtx n f).focus = s.focus := rfl
@[simp] theorem State.modCtx_turn (s : State) (n : Nat) (f : Context → Context) : (s.modCtx n f).turn = s.turn := rfl
@[simp] theorem State.modCtx_owedFirst (s : State) (n : Nat) (f : Context → Context) : (s.modCtx n f).owedFirst = s.owedFirst := rfl
@[simp] theorem State.modCtx_draws (s : State) (n : Nat) (f : Context → Context) : (s.modCtx n f).draws = s.draws := rfl
@[simp] theorem State.modCtx_agenda (s : State) (n : Nat) (f : Context → Context) : (s.modCtx n f).agenda = s.agenda := rfl
@[simp] theorem State.modCtx_pending (s : State) (n : Nat) (f : Context → Context) : (s.modCtx n f).pending = s.pending := rfl

/-! ## Changing a versioned word -/

@[simp] theorem State.setVword_tiles (s : State) (pa : Nat) (w : VWord) : (s.setVword pa w).tiles = s.tiles := rfl
@[simp] theorem State.setVword_dies (s : State) (pa : Nat) (w : VWord) : (s.setVword pa w).dies = s.dies := rfl
@[simp] theorem State.setVword_contexts (s : State) (pa : Nat) (w : VWord) : (s.setVword pa w).contexts = s.contexts := rfl
@[simp] theorem State.setVword_mem (s : State) (pa : Nat) (w : VWord) : (s.setVword pa w).mem = s.mem := rfl
@[simp] theorem State.setVword_verPages (s : State) (pa : Nat) (w : VWord) : (s.setVword pa w).verPages = s.verPages := rfl
@[simp] theorem State.setVword_reservations (s : State) (pa : Nat) (w : VWord) : (s.setVword pa w).reservations = s.reservations := rfl
@[simp] theorem State.setVword_walks (s : State) (pa : Nat) (w : VWord) : (s.setVword pa w).walks = s.walks := rfl
@[simp] theorem State.setVword_nextWalk (s : State) (pa : Nat) (w : VWord) : (s.setVword pa w).nextWalk = s.nextWalk := rfl
@[simp] theorem State.setVword_walkTlb (s : State) (pa : Nat) (w : VWord) : (s.setVword pa w).walkTlb = s.walkTlb := rfl
@[simp] theorem State.setVword_walkLast (s : State) (pa : Nat) (w : VWord) : (s.setVword pa w).walkLast = s.walkLast := rfl
@[simp] theorem State.setVword_engineFaults (s : State) (pa : Nat) (w : VWord) : (s.setVword pa w).engineFaults = s.engineFaults := rfl
@[simp] theorem State.setVword_nextFault (s : State) (pa : Nat) (w : VWord) : (s.setVword pa w).nextFault = s.nextFault := rfl
@[simp] theorem State.setVword_nextCopy (s : State) (pa : Nat) (w : VWord) : (s.setVword pa w).nextCopy = s.nextCopy := rfl
@[simp] theorem State.setVword_demand (s : State) (pa : Nat) (w : VWord) : (s.setVword pa w).demand = s.demand := rfl
@[simp] theorem State.setVword_nextDemand (s : State) (pa : Nat) (w : VWord) : (s.setVword pa w).nextDemand = s.nextDemand := rfl
@[simp] theorem State.setVword_notifies (s : State) (pa : Nat) (w : VWord) : (s.setVword pa w).notifies = s.notifies := rfl
@[simp] theorem State.setVword_quotas (s : State) (pa : Nat) (w : VWord) : (s.setVword pa w).quotas = s.quotas := rfl
@[simp] theorem State.setVword_saved (s : State) (pa : Nat) (w : VWord) : (s.setVword pa w).saved = s.saved := rfl
@[simp] theorem State.setVword_hostOut (s : State) (pa : Nat) (w : VWord) : (s.setVword pa w).hostOut = s.hostOut := rfl
@[simp] theorem State.setVword_peerOut (s : State) (pa : Nat) (w : VWord) : (s.setVword pa w).peerOut = s.peerOut := rfl
@[simp] theorem State.setVword_owner (s : State) (pa : Nat) (w : VWord) : (s.setVword pa w).owner = s.owner := rfl
@[simp] theorem State.setVword_life (s : State) (pa : Nat) (w : VWord) : (s.setVword pa w).life = s.life := rfl
@[simp] theorem State.setVword_keys (s : State) (pa : Nat) (w : VWord) : (s.setVword pa w).keys = s.keys := rfl
@[simp] theorem State.setVword_keySets (s : State) (pa : Nat) (w : VWord) : (s.setVword pa w).keySets = s.keySets := rfl
@[simp] theorem State.setVword_ideKeys (s : State) (pa : Nat) (w : VWord) : (s.setVword pa w).ideKeys = s.ideKeys := rfl
@[simp] theorem State.setVword_measurements (s : State) (pa : Nat) (w : VWord) : (s.setVword pa w).measurements = s.measurements := rfl
@[simp] theorem State.setVword_verified (s : State) (pa : Nat) (w : VWord) : (s.setVword pa w).verified = s.verified := rfl
@[simp] theorem State.setVword_doorbells (s : State) (pa : Nat) (w : VWord) : (s.setVword pa w).doorbells = s.doorbells := rfl
@[simp] theorem State.setVword_peers (s : State) (pa : Nat) (w : VWord) : (s.setVword pa w).peers = s.peers := rfl
@[simp] theorem State.setVword_isMS (s : State) (pa : Nat) (w : VWord) : (s.setVword pa w).isMS = s.isMS := rfl
@[simp] theorem State.setVword_wiping (s : State) (pa : Nat) (w : VWord) : (s.setVword pa w).wiping = s.wiping := rfl
@[simp] theorem State.setVword_powered (s : State) (pa : Nat) (w : VWord) : (s.setVword pa w).powered = s.powered := rfl
@[simp] theorem State.setVword_linkLanes (s : State) (pa : Nat) (w : VWord) : (s.setVword pa w).linkLanes = s.linkLanes := rfl
@[simp] theorem State.setVword_linkRate (s : State) (pa : Nat) (w : VWord) : (s.setVword pa w).linkRate = s.linkRate := rfl
@[simp] theorem State.setVword_mailQ (s : State) (pa : Nat) (w : VWord) : (s.setVword pa w).mailQ = s.mailQ := rfl
@[simp] theorem State.setVword_responses (s : State) (pa : Nat) (w : VWord) : (s.setVword pa w).responses = s.responses := rfl
@[simp] theorem State.setVword_linkReplies (s : State) (pa : Nat) (w : VWord) : (s.setVword pa w).linkReplies = s.linkReplies := rfl
@[simp] theorem State.setVword_telemetry (s : State) (pa : Nat) (w : VWord) : (s.setVword pa w).telemetry = s.telemetry := rfl
@[simp] theorem State.setVword_cores (s : State) (pa : Nat) (w : VWord) : (s.setVword pa w).cores = s.cores := rfl
@[simp] theorem State.setVword_sysMode (s : State) (pa : Nat) (w : VWord) : (s.setVword pa w).sysMode = s.sysMode := rfl
@[simp] theorem State.setVword_eccError (s : State) (pa : Nat) (w : VWord) : (s.setVword pa w).eccError = s.eccError := rfl
@[simp] theorem State.setVword_clk (s : State) (pa : Nat) (w : VWord) : (s.setVword pa w).clk = s.clk := rfl
@[simp] theorem State.setVword_focus (s : State) (pa : Nat) (w : VWord) : (s.setVword pa w).focus = s.focus := rfl
@[simp] theorem State.setVword_turn (s : State) (pa : Nat) (w : VWord) : (s.setVword pa w).turn = s.turn := rfl
@[simp] theorem State.setVword_owedFirst (s : State) (pa : Nat) (w : VWord) : (s.setVword pa w).owedFirst = s.owedFirst := rfl
@[simp] theorem State.setVword_draws (s : State) (pa : Nat) (w : VWord) : (s.setVword pa w).draws = s.draws := rfl
@[simp] theorem State.setVword_agenda (s : State) (pa : Nat) (w : VWord) : (s.setVword pa w).agenda = s.agenda := rfl
@[simp] theorem State.setVword_pending (s : State) (pa : Nat) (w : VWord) : (s.setVword pa w).pending = s.pending := rfl

/-! ## Owing a happening -/

@[simp] theorem State.post_tiles (s : State) (i : Instr) (f : Focus) : (s.post i f).tiles = s.tiles := rfl
@[simp] theorem State.post_dies (s : State) (i : Instr) (f : Focus) : (s.post i f).dies = s.dies := rfl
@[simp] theorem State.post_contexts (s : State) (i : Instr) (f : Focus) : (s.post i f).contexts = s.contexts := rfl
@[simp] theorem State.post_mem (s : State) (i : Instr) (f : Focus) : (s.post i f).mem = s.mem := rfl
@[simp] theorem State.post_vwords (s : State) (i : Instr) (f : Focus) : (s.post i f).vwords = s.vwords := rfl
@[simp] theorem State.post_verPages (s : State) (i : Instr) (f : Focus) : (s.post i f).verPages = s.verPages := rfl
@[simp] theorem State.post_reservations (s : State) (i : Instr) (f : Focus) : (s.post i f).reservations = s.reservations := rfl
@[simp] theorem State.post_walks (s : State) (i : Instr) (f : Focus) : (s.post i f).walks = s.walks := rfl
@[simp] theorem State.post_nextWalk (s : State) (i : Instr) (f : Focus) : (s.post i f).nextWalk = s.nextWalk := rfl
@[simp] theorem State.post_walkTlb (s : State) (i : Instr) (f : Focus) : (s.post i f).walkTlb = s.walkTlb := rfl
@[simp] theorem State.post_walkLast (s : State) (i : Instr) (f : Focus) : (s.post i f).walkLast = s.walkLast := rfl
@[simp] theorem State.post_engineFaults (s : State) (i : Instr) (f : Focus) : (s.post i f).engineFaults = s.engineFaults := rfl
@[simp] theorem State.post_nextFault (s : State) (i : Instr) (f : Focus) : (s.post i f).nextFault = s.nextFault := rfl
@[simp] theorem State.post_nextCopy (s : State) (i : Instr) (f : Focus) : (s.post i f).nextCopy = s.nextCopy := rfl
@[simp] theorem State.post_demand (s : State) (i : Instr) (f : Focus) : (s.post i f).demand = s.demand := rfl
@[simp] theorem State.post_nextDemand (s : State) (i : Instr) (f : Focus) : (s.post i f).nextDemand = s.nextDemand := rfl
@[simp] theorem State.post_notifies (s : State) (i : Instr) (f : Focus) : (s.post i f).notifies = s.notifies := rfl
@[simp] theorem State.post_quotas (s : State) (i : Instr) (f : Focus) : (s.post i f).quotas = s.quotas := rfl
@[simp] theorem State.post_saved (s : State) (i : Instr) (f : Focus) : (s.post i f).saved = s.saved := rfl
@[simp] theorem State.post_hostOut (s : State) (i : Instr) (f : Focus) : (s.post i f).hostOut = s.hostOut := rfl
@[simp] theorem State.post_peerOut (s : State) (i : Instr) (f : Focus) : (s.post i f).peerOut = s.peerOut := rfl
@[simp] theorem State.post_owner (s : State) (i : Instr) (f : Focus) : (s.post i f).owner = s.owner := rfl
@[simp] theorem State.post_life (s : State) (i : Instr) (f : Focus) : (s.post i f).life = s.life := rfl
@[simp] theorem State.post_keys (s : State) (i : Instr) (f : Focus) : (s.post i f).keys = s.keys := rfl
@[simp] theorem State.post_keySets (s : State) (i : Instr) (f : Focus) : (s.post i f).keySets = s.keySets := rfl
@[simp] theorem State.post_ideKeys (s : State) (i : Instr) (f : Focus) : (s.post i f).ideKeys = s.ideKeys := rfl
@[simp] theorem State.post_measurements (s : State) (i : Instr) (f : Focus) : (s.post i f).measurements = s.measurements := rfl
@[simp] theorem State.post_verified (s : State) (i : Instr) (f : Focus) : (s.post i f).verified = s.verified := rfl
@[simp] theorem State.post_doorbells (s : State) (i : Instr) (f : Focus) : (s.post i f).doorbells = s.doorbells := rfl
@[simp] theorem State.post_peers (s : State) (i : Instr) (f : Focus) : (s.post i f).peers = s.peers := rfl
@[simp] theorem State.post_isMS (s : State) (i : Instr) (f : Focus) : (s.post i f).isMS = s.isMS := rfl
@[simp] theorem State.post_wiping (s : State) (i : Instr) (f : Focus) : (s.post i f).wiping = s.wiping := rfl
@[simp] theorem State.post_powered (s : State) (i : Instr) (f : Focus) : (s.post i f).powered = s.powered := rfl
@[simp] theorem State.post_linkLanes (s : State) (i : Instr) (f : Focus) : (s.post i f).linkLanes = s.linkLanes := rfl
@[simp] theorem State.post_linkRate (s : State) (i : Instr) (f : Focus) : (s.post i f).linkRate = s.linkRate := rfl
@[simp] theorem State.post_mailQ (s : State) (i : Instr) (f : Focus) : (s.post i f).mailQ = s.mailQ := rfl
@[simp] theorem State.post_responses (s : State) (i : Instr) (f : Focus) : (s.post i f).responses = s.responses := rfl
@[simp] theorem State.post_linkReplies (s : State) (i : Instr) (f : Focus) : (s.post i f).linkReplies = s.linkReplies := rfl
@[simp] theorem State.post_telemetry (s : State) (i : Instr) (f : Focus) : (s.post i f).telemetry = s.telemetry := rfl
@[simp] theorem State.post_cores (s : State) (i : Instr) (f : Focus) : (s.post i f).cores = s.cores := rfl
@[simp] theorem State.post_sysMode (s : State) (i : Instr) (f : Focus) : (s.post i f).sysMode = s.sysMode := rfl
@[simp] theorem State.post_eccError (s : State) (i : Instr) (f : Focus) : (s.post i f).eccError = s.eccError := rfl
@[simp] theorem State.post_clk (s : State) (i : Instr) (f : Focus) : (s.post i f).clk = s.clk := rfl
@[simp] theorem State.post_focus (s : State) (i : Instr) (f : Focus) : (s.post i f).focus = s.focus := rfl
@[simp] theorem State.post_turn (s : State) (i : Instr) (f : Focus) : (s.post i f).turn = s.turn := rfl
@[simp] theorem State.post_owedFirst (s : State) (i : Instr) (f : Focus) : (s.post i f).owedFirst = s.owedFirst := rfl
@[simp] theorem State.post_draws (s : State) (i : Instr) (f : Focus) : (s.post i f).draws = s.draws := rfl
@[simp] theorem State.post_agenda (s : State) (i : Instr) (f : Focus) : (s.post i f).agenda = s.agenda := rfl

/-! ## Owing one no longer -/

@[simp] theorem State.unpost_tiles (s : State) (i : Instr) (f : Focus) : (s.unpost i f).tiles = s.tiles := rfl
@[simp] theorem State.unpost_dies (s : State) (i : Instr) (f : Focus) : (s.unpost i f).dies = s.dies := rfl
@[simp] theorem State.unpost_contexts (s : State) (i : Instr) (f : Focus) : (s.unpost i f).contexts = s.contexts := rfl
@[simp] theorem State.unpost_mem (s : State) (i : Instr) (f : Focus) : (s.unpost i f).mem = s.mem := rfl
@[simp] theorem State.unpost_vwords (s : State) (i : Instr) (f : Focus) : (s.unpost i f).vwords = s.vwords := rfl
@[simp] theorem State.unpost_verPages (s : State) (i : Instr) (f : Focus) : (s.unpost i f).verPages = s.verPages := rfl
@[simp] theorem State.unpost_reservations (s : State) (i : Instr) (f : Focus) : (s.unpost i f).reservations = s.reservations := rfl
@[simp] theorem State.unpost_walks (s : State) (i : Instr) (f : Focus) : (s.unpost i f).walks = s.walks := rfl
@[simp] theorem State.unpost_nextWalk (s : State) (i : Instr) (f : Focus) : (s.unpost i f).nextWalk = s.nextWalk := rfl
@[simp] theorem State.unpost_walkTlb (s : State) (i : Instr) (f : Focus) : (s.unpost i f).walkTlb = s.walkTlb := rfl
@[simp] theorem State.unpost_walkLast (s : State) (i : Instr) (f : Focus) : (s.unpost i f).walkLast = s.walkLast := rfl
@[simp] theorem State.unpost_engineFaults (s : State) (i : Instr) (f : Focus) : (s.unpost i f).engineFaults = s.engineFaults := rfl
@[simp] theorem State.unpost_nextFault (s : State) (i : Instr) (f : Focus) : (s.unpost i f).nextFault = s.nextFault := rfl
@[simp] theorem State.unpost_nextCopy (s : State) (i : Instr) (f : Focus) : (s.unpost i f).nextCopy = s.nextCopy := rfl
@[simp] theorem State.unpost_demand (s : State) (i : Instr) (f : Focus) : (s.unpost i f).demand = s.demand := rfl
@[simp] theorem State.unpost_nextDemand (s : State) (i : Instr) (f : Focus) : (s.unpost i f).nextDemand = s.nextDemand := rfl
@[simp] theorem State.unpost_notifies (s : State) (i : Instr) (f : Focus) : (s.unpost i f).notifies = s.notifies := rfl
@[simp] theorem State.unpost_quotas (s : State) (i : Instr) (f : Focus) : (s.unpost i f).quotas = s.quotas := rfl
@[simp] theorem State.unpost_saved (s : State) (i : Instr) (f : Focus) : (s.unpost i f).saved = s.saved := rfl
@[simp] theorem State.unpost_hostOut (s : State) (i : Instr) (f : Focus) : (s.unpost i f).hostOut = s.hostOut := rfl
@[simp] theorem State.unpost_peerOut (s : State) (i : Instr) (f : Focus) : (s.unpost i f).peerOut = s.peerOut := rfl
@[simp] theorem State.unpost_owner (s : State) (i : Instr) (f : Focus) : (s.unpost i f).owner = s.owner := rfl
@[simp] theorem State.unpost_life (s : State) (i : Instr) (f : Focus) : (s.unpost i f).life = s.life := rfl
@[simp] theorem State.unpost_keys (s : State) (i : Instr) (f : Focus) : (s.unpost i f).keys = s.keys := rfl
@[simp] theorem State.unpost_keySets (s : State) (i : Instr) (f : Focus) : (s.unpost i f).keySets = s.keySets := rfl
@[simp] theorem State.unpost_ideKeys (s : State) (i : Instr) (f : Focus) : (s.unpost i f).ideKeys = s.ideKeys := rfl
@[simp] theorem State.unpost_measurements (s : State) (i : Instr) (f : Focus) : (s.unpost i f).measurements = s.measurements := rfl
@[simp] theorem State.unpost_verified (s : State) (i : Instr) (f : Focus) : (s.unpost i f).verified = s.verified := rfl
@[simp] theorem State.unpost_doorbells (s : State) (i : Instr) (f : Focus) : (s.unpost i f).doorbells = s.doorbells := rfl
@[simp] theorem State.unpost_peers (s : State) (i : Instr) (f : Focus) : (s.unpost i f).peers = s.peers := rfl
@[simp] theorem State.unpost_isMS (s : State) (i : Instr) (f : Focus) : (s.unpost i f).isMS = s.isMS := rfl
@[simp] theorem State.unpost_wiping (s : State) (i : Instr) (f : Focus) : (s.unpost i f).wiping = s.wiping := rfl
@[simp] theorem State.unpost_powered (s : State) (i : Instr) (f : Focus) : (s.unpost i f).powered = s.powered := rfl
@[simp] theorem State.unpost_linkLanes (s : State) (i : Instr) (f : Focus) : (s.unpost i f).linkLanes = s.linkLanes := rfl
@[simp] theorem State.unpost_linkRate (s : State) (i : Instr) (f : Focus) : (s.unpost i f).linkRate = s.linkRate := rfl
@[simp] theorem State.unpost_mailQ (s : State) (i : Instr) (f : Focus) : (s.unpost i f).mailQ = s.mailQ := rfl
@[simp] theorem State.unpost_responses (s : State) (i : Instr) (f : Focus) : (s.unpost i f).responses = s.responses := rfl
@[simp] theorem State.unpost_linkReplies (s : State) (i : Instr) (f : Focus) : (s.unpost i f).linkReplies = s.linkReplies := rfl
@[simp] theorem State.unpost_telemetry (s : State) (i : Instr) (f : Focus) : (s.unpost i f).telemetry = s.telemetry := rfl
@[simp] theorem State.unpost_cores (s : State) (i : Instr) (f : Focus) : (s.unpost i f).cores = s.cores := rfl
@[simp] theorem State.unpost_sysMode (s : State) (i : Instr) (f : Focus) : (s.unpost i f).sysMode = s.sysMode := rfl
@[simp] theorem State.unpost_eccError (s : State) (i : Instr) (f : Focus) : (s.unpost i f).eccError = s.eccError := rfl
@[simp] theorem State.unpost_clk (s : State) (i : Instr) (f : Focus) : (s.unpost i f).clk = s.clk := rfl
@[simp] theorem State.unpost_focus (s : State) (i : Instr) (f : Focus) : (s.unpost i f).focus = s.focus := rfl
@[simp] theorem State.unpost_turn (s : State) (i : Instr) (f : Focus) : (s.unpost i f).turn = s.turn := rfl
@[simp] theorem State.unpost_owedFirst (s : State) (i : Instr) (f : Focus) : (s.unpost i f).owedFirst = s.owedFirst := rfl
@[simp] theorem State.unpost_draws (s : State) (i : Instr) (f : Focus) : (s.unpost i f).draws = s.draws := rfl
@[simp] theorem State.unpost_agenda (s : State) (i : Instr) (f : Focus) : (s.unpost i f).agenda = s.agenda := rfl

/-! ## Changing a slot of a tile -/

@[simp] theorem Tile.modSlot_owner (T : Tile) (k : SlotId) (f : Slot → Slot) : (T.modSlot k f).owner = T.owner := rfl
@[simp] theorem Tile.modSlot_split (T : Tile) (k : SlotId) (f : Slot → Slot) : (T.modSlot k f).split = T.split := rfl
@[simp] theorem Tile.modSlot_lastIssued (T : Tile) (k : SlotId) (f : Slot → Slot) : (T.modSlot k f).lastIssued = T.lastIssued := rfl
@[simp] theorem Tile.modSlot_istore (T : Tile) (k : SlotId) (f : Slot → Slot) : (T.modSlot k f).istore = T.istore := rfl
@[simp] theorem Tile.modSlot_vcs (T : Tile) (k : SlotId) (f : Slot → Slot) : (T.modSlot k f).vcs = T.vcs := rfl
@[simp] theorem Tile.modSlot_v (T : Tile) (k : SlotId) (f : Slot → Slot) : (T.modSlot k f).v = T.v := rfl
@[simp] theorem Tile.modSlot_a (T : Tile) (k : SlotId) (f : Slot → Slot) : (T.modSlot k f).a = T.a := rfl
@[simp] theorem Tile.modSlot_m (T : Tile) (k : SlotId) (f : Slot → Slot) : (T.modSlot k f).m = T.m := rfl
@[simp] theorem Tile.modSlot_z (T : Tile) (k : SlotId) (f : Slot → Slot) : (T.modSlot k f).z = T.z := rfl
@[simp] theorem Tile.modSlot_active (T : Tile) (k : SlotId) (f : Slot → Slot) : (T.modSlot k f).active = T.active := rfl
@[simp] theorem Tile.modSlot_shadow (T : Tile) (k : SlotId) (f : Slot → Slot) : (T.modSlot k f).shadow = T.shadow := rfl
@[simp] theorem Tile.modSlot_matQ (T : Tile) (k : SlotId) (f : Slot → Slot) : (T.modSlot k f).matQ = T.matQ := rfl
@[simp] theorem Tile.modSlot_pairIn (T : Tile) (k : SlotId) (f : Slot → Slot) : (T.modSlot k f).pairIn = T.pairIn := rfl
@[simp] theorem Tile.modSlot_pairDeadline (T : Tile) (k : SlotId) (f : Slot → Slot) : (T.modSlot k f).pairDeadline = T.pairDeadline := rfl
@[simp] theorem Tile.modSlot_pairLost (T : Tile) (k : SlotId) (f : Slot → Slot) : (T.modSlot k f).pairLost = T.pairLost := rfl
@[simp] theorem Tile.modSlot_matCounts (T : Tile) (k : SlotId) (f : Slot → Slot) : (T.modSlot k f).matCounts = T.matCounts := rfl
@[simp] theorem Tile.modSlot_lfsr (T : Tile) (k : SlotId) (f : Slot → Slot) : (T.modSlot k f).lfsr = T.lfsr := rfl
@[simp] theorem Tile.modSlot_stages (T : Tile) (k : SlotId) (f : Slot → Slot) : (T.modSlot k f).stages = T.stages := rfl
@[simp] theorem Tile.modSlot_nextCmd (T : Tile) (k : SlotId) (f : Slot → Slot) : (T.modSlot k f).nextCmd = T.nextCmd := rfl
@[simp] theorem Tile.modSlot_chain (T : Tile) (k : SlotId) (f : Slot → Slot) : (T.modSlot k f).chain = T.chain := rfl
@[simp] theorem Tile.modSlot_shadowChain (T : Tile) (k : SlotId) (f : Slot → Slot) : (T.modSlot k f).shadowChain = T.shadowChain := rfl
@[simp] theorem Tile.modSlot_frontier (T : Tile) (k : SlotId) (f : Slot → Slot) : (T.modSlot k f).frontier = T.frontier := rfl
@[simp] theorem Tile.modSlot_chainNext (T : Tile) (k : SlotId) (f : Slot → Slot) : (T.modSlot k f).chainNext = T.chainNext := rfl
@[simp] theorem Tile.modSlot_stream (T : Tile) (k : SlotId) (f : Slot → Slot) : (T.modSlot k f).stream = T.stream := rfl
@[simp] theorem Tile.modSlot_sp (T : Tile) (k : SlotId) (f : Slot → Slot) : (T.modSlot k f).sp = T.sp := rfl
@[simp] theorem Tile.modSlot_present (T : Tile) (k : SlotId) (f : Slot → Slot) : (T.modSlot k f).present = T.present := rfl
@[simp] theorem Tile.modSlot_l1 (T : Tile) (k : SlotId) (f : Slot → Slot) : (T.modSlot k f).l1 = T.l1 := rfl
@[simp] theorem Tile.modSlot_accesses (T : Tile) (k : SlotId) (f : Slot → Slot) : (T.modSlot k f).accesses = T.accesses := rfl
@[simp] theorem Tile.modSlot_nextAcc (T : Tile) (k : SlotId) (f : Slot → Slot) : (T.modSlot k f).nextAcc = T.nextAcc := rfl
@[simp] theorem Tile.modSlot_utlb (T : Tile) (k : SlotId) (f : Slot → Slot) : (T.modSlot k f).utlb = T.utlb := rfl
@[simp] theorem Tile.modSlot_held (T : Tile) (k : SlotId) (f : Slot → Slot) : (T.modSlot k f).held = T.held := rfl
@[simp] theorem Tile.modSlot_ag (T : Tile) (k : SlotId) (f : Slot → Slot) : (T.modSlot k f).ag = T.ag := rfl
@[simp] theorem Tile.modSlot_mcst (T : Tile) (k : SlotId) (f : Slot → Slot) : (T.modSlot k f).mcst = T.mcst := rfl
@[simp] theorem Tile.modSlot_mcb (T : Tile) (k : SlotId) (f : Slot → Slot) : (T.modSlot k f).mcb = T.mcb := rfl
@[simp] theorem Tile.modSlot_branches (T : Tile) (k : SlotId) (f : Slot → Slot) : (T.modSlot k f).branches = T.branches := rfl
@[simp] theorem Tile.modSlot_holds (T : Tile) (k : SlotId) (f : Slot → Slot) : (T.modSlot k f).holds = T.holds := rfl
@[simp] theorem Tile.modSlot_vcSlot (T : Tile) (k : SlotId) (f : Slot → Slot) : (T.modSlot k f).vcSlot = T.vcSlot := rfl
@[simp] theorem Tile.modSlot_phase (T : Tile) (k : SlotId) (f : Slot → Slot) : (T.modSlot k f).phase = T.phase := rfl
@[simp] theorem Tile.modSlot_lead (T : Tile) (k : SlotId) (f : Slot → Slot) : (T.modSlot k f).lead = T.lead := rfl
@[simp] theorem Tile.modSlot_walksOut (T : Tile) (k : SlotId) (f : Slot → Slot) : (T.modSlot k f).walksOut = T.walksOut := rfl
@[simp] theorem Tile.modSlot_statSum (T : Tile) (k : SlotId) (f : Slot → Slot) : (T.modSlot k f).statSum = T.statSum := rfl
@[simp] theorem Tile.modSlot_balance (T : Tile) (k : SlotId) (f : Slot → Slot) : (T.modSlot k f).balance = T.balance := rfl
@[simp] theorem Tile.modSlot_lastWord (T : Tile) (k : SlotId) (f : Slot → Slot) : (T.modSlot k f).lastWord = T.lastWord := rfl
/-! ## What an update puts -/

@[simp] theorem State.tile_modTile (s : State) (t : TileId) (f : Tile → Tile) : (s.modTile t f).tile t = f (s.tile t) := by
  simp [State.modTile, State.tile]
theorem State.tile_modTile_ne (s : State) {t u : TileId} (f : Tile → Tile) (h : u ≠ t) : (s.modTile t f).tile u = s.tile u := by
  have h' : t.val ≠ u.val := fun e => h (Fin.ext e.symm)
  simp [State.modTile, State.tile, Vector.getElem_set_ne, h']
theorem State.tile_modTile_if (s : State) (t u : TileId) (f : Tile → Tile) :
    (s.modTile t f).tile u = if u = t then f (s.tile t) else s.tile u := by
  by_cases h : u = t
  · subst h; simp
  · simp [h, State.tile_modTile_ne]
@[simp] theorem Tile.slot_modSlot (T : Tile) (k : SlotId) (f : Slot → Slot) : (T.modSlot k f).slot k = f (T.slot k) := by
  simp [Tile.modSlot, Tile.slot]
theorem Tile.slot_modSlot_ne (T : Tile) {k j : SlotId} (f : Slot → Slot) (h : j ≠ k) : (T.modSlot k f).slot j = T.slot j := by
  have h' : k.val ≠ j.val := fun e => h (Fin.ext e.symm)
  simp [Tile.modSlot, Tile.slot, Vector.getElem_set_ne, h']
@[simp] theorem State.slot_modSlot (s : State) (t : TileId) (k : SlotId) (f : Slot → Slot) :
    (s.modSlot t k f).slot t k = f (s.slot t k) := by simp [State.modSlot, State.slot]
theorem State.slot_modSlot_ne (s : State) (t : TileId) {k j : SlotId} (f : Slot → Slot) (h : j ≠ k) :
    (s.modSlot t k f).slot t j = s.slot t j := by simp [State.modSlot, State.slot, Tile.slot_modSlot_ne _ _ h]
theorem State.slot_modSlot_tile (s : State) {t u : TileId} (k j : SlotId) (f : Slot → Slot) (h : u ≠ t) :
    (s.modSlot t k f).slot u j = s.slot u j := by simp [State.modSlot, State.slot, State.tile_modTile_ne _ _ h]
@[simp] theorem State.cur_modCur (s : State) (f : Slot → Slot) : (s.modCur f).cur = f s.cur := by
  simp [State.modCur, State.cur]
@[simp] theorem State.here_modTile (s : State) (f : Tile → Tile) : (s.modTile s.focus.tile f).here = f s.here := by simp [State.here]
@[simp] theorem State.tile_post (s : State) (i : Instr) (f : Focus) (t : TileId) : (s.post i f).tile t = s.tile t := rfl
@[simp] theorem State.tile_unpost (s : State) (i : Instr) (f : Focus) (t : TileId) : (s.unpost i f).tile t = s.tile t := rfl
@[simp] theorem State.tile_modCtx (s : State) (n : Nat) (f : Context → Context) (t : TileId) : (s.modCtx n f).tile t = s.tile t := rfl
@[simp] theorem State.tile_modDie (s : State) (d : DieId) (f : Die → Die) (t : TileId) : (s.modDie d f).tile t = s.tile t := rfl
@[simp] theorem State.post_pending (s : State) (i : Instr) (f : Focus) : (s.post i f).pending = s.pending ++ [.happen i f] := rfl
@[simp] theorem State.tile_modCore (s : State) (f : Core → Core) (t : TileId) : (s.modCore f).tile t = s.tile t := rfl
@[simp] theorem State.core_modCore (s : State) (f : Core → Core) : (s.modCore f).core = f s.core := by simp [State.modCore, State.core]
theorem State.cores_modCore (s : State) (f : Core → Core) (d : DieId) :
    (s.modCore f).cores[d] = if d = s.focus.die then f s.core else s.cores[d] := by
  by_cases h : d = s.focus.die
  · subst h; simp [State.modCore]
  · have h' : s.focus.die.val ≠ d.val := fun e => h (Fin.ext e.symm)
    simp [State.modCore, Vector.getElem_set_ne, h, h']
@[simp] theorem State.modDie_same (s : State) (d : DieId) (f : Die → Die) : (s.modDie d f).dies[d] = f s.dies[d] := by
  simp [State.modDie]

end Sys2Proof.Machine
end

