-- ==== Sys2Proof/Laws/Words.lean ====
section
/-! SUPPORT. What the shared shapes of a word do: registers, a scalar word, a transfer, a command, a happening, a trap and a block. -/
namespace Sys2Proof.Machine
open Sys2Proof

/-! ## Registers -/

@[simp] theorem readX_zero (xs : Vector Word 32) : readX xs 0#5 = 0#64 := rfl
@[simp] theorem readP_zero (ps : Vector Bool 8) : readP ps 0#3 = true := rfl
@[simp] theorem State.getX_zero (s : State) : s.getX 0#5 = 0#64 := rfl
@[simp] theorem State.getP_zero (s : State) : s.getP 0#3 = true := rfl
@[simp] theorem Slot.setX_zero (k : Slot) (v : Word) : k.setX 0#5 v = k := rfl
@[simp] theorem Slot.setP_zero (k : Slot) (v : Bool) : k.setP 0#3 v = k := rfl
@[simp] theorem Slot.setX_pc (k : Slot) (r : XReg) (v : Word) : (k.setX r v).pc = k.pc := by unfold Slot.setX; split <;> rfl
@[simp] theorem Slot.setX_p (k : Slot) (r : XReg) (v : Word) : (k.setX r v).p = k.p := by unfold Slot.setX; split <;> rfl
@[simp] theorem Slot.setX_cls (k : Slot) (r : XReg) (v : Word) : (k.setX r v).cls = k.cls := by unfold Slot.setX; split <;> rfl
@[simp] theorem Slot.setX_status (k : Slot) (r : XReg) (v : Word) : (k.setX r v).status = k.status := by unfold Slot.setX; split <;> rfl
@[simp] theorem Slot.setP_pc (k : Slot) (r : PReg) (v : Bool) : (k.setP r v).pc = k.pc := by unfold Slot.setP; split <;> rfl
@[simp] theorem Slot.setP_x (k : Slot) (r : PReg) (v : Bool) : (k.setP r v).x = k.x := by unfold Slot.setP; split <;> rfl

/-- A register file after a write to one register of it (R51). -/
theorem readX_set (xs : Vector Word 32) (r q : XReg) (v : Word) (h : r ≠ 0) :
    readX (xs.set (xIx r) v) q = if q = r then v else readX xs q := by
  have : (xIx r).val = (xIx q).val → q = r := fun e => BitVec.eq_of_toNat_eq e.symm
  have : q = r → (xIx r).val = (xIx q).val := fun e => by rw [e]
  simp only [readX, Fin.getElem_fin, Vector.getElem_set]
  grind
theorem readP_set (ps : Vector Bool 8) (r q : PReg) (v : Bool) (h : r ≠ 0) :
    readP (ps.set (pIx r) v) q = if q = r then v else readP ps q := by
  have : (pIx r).val = (pIx q).val → q = r := fun e => BitVec.eq_of_toNat_eq e.symm
  have : q = r → (pIx r).val = (pIx q).val := fun e => by rw [e]
  simp only [readP, Fin.getElem_fin, Vector.getElem_set]
  grind

@[simp] theorem State.modTile_id (s : State) (t : TileId) : (s.modTile t fun T => T) = s := by
  simp [State.modTile, State.tile]
@[simp] theorem State.modSlot_id (s : State) (t : TileId) (k : SlotId) : (s.modSlot t k fun q => q) = s := by
  have : (fun T : Tile => T.modSlot k fun q => q) = fun T => T := by funext T; simp [Tile.modSlot, Tile.slot]
  simp [State.modSlot, this]
@[simp] theorem State.setX_zero (s : State) (v : Word) : s.setX 0#5 v = s := by
  unfold State.setX; split
  · rfl
  · simp [State.modCur]
@[simp] theorem State.setP_zero (s : State) (v : Bool) : s.setP 0#3 v = s := by
  unfold State.setP; split
  · rfl
  · simp [State.modCur]

@[simp] theorem State.setX_focus (s : State) (r : XReg) (v : Word) : (s.setX r v).focus = s.focus := by
  unfold State.setX; split; (split <;> rfl); rfl
@[simp] theorem State.setX_sysMode (s : State) (r : XReg) (v : Word) : (s.setX r v).sysMode = s.sysMode := by
  unfold State.setX; split; (split <;> rfl); rfl
@[simp] theorem State.setX_eccError (s : State) (r : XReg) (v : Word) : (s.setX r v).eccError = s.eccError := by
  unfold State.setX; split; (split <;> rfl); rfl
@[simp] theorem State.setP_focus (s : State) (r : PReg) (v : Bool) : (s.setP r v).focus = s.focus := by
  unfold State.setP; split; (split <;> rfl); rfl
@[simp] theorem State.setP_sysMode (s : State) (r : PReg) (v : Bool) : (s.setP r v).sysMode = s.sysMode := by
  unfold State.setP; split; (split <;> rfl); rfl
@[simp] theorem State.setP_eccError (s : State) (r : PReg) (v : Bool) : (s.setP r v).eccError = s.eccError := by
  unfold State.setP; split; (split <;> rfl); rfl

@[simp] theorem State.setX_ps (s : State) (r : XReg) (v : Word) : (s.setX r v).ps = s.ps := by
  unfold State.setX State.ps
  by_cases m : s.sysMode = true
  · by_cases h : r = 0
    · rw [if_pos m, if_pos h]
    · rw [if_pos m, if_neg h]; simp [m]
  · simp [m]
@[simp] theorem State.setP_xs (s : State) (r : PReg) (v : Bool) : (s.setP r v).xs = s.xs := by
  unfold State.setP State.xs
  by_cases m : s.sysMode = true
  · by_cases h : r = 0
    · rw [if_pos m, if_pos h]
    · rw [if_pos m, if_neg h]; simp [m]
  · simp [m]
theorem State.setX_xs (s : State) (r : XReg) (v : Word) (h : r ≠ 0) : (s.setX r v).xs = s.xs.set (xIx r) v := by
  unfold State.setX State.xs
  by_cases m : s.sysMode = true
  · rw [if_pos m, if_neg h]; simp [m]
  · have : (s.cur.setX r v).x = s.cur.x.set (xIx r) v := by rw [Slot.setX, if_neg h]
    simp [m, this]
theorem State.setP_ps (s : State) (r : PReg) (v : Bool) (h : r ≠ 0) : (s.setP r v).ps = s.ps.set (pIx r) v := by
  unfold State.setP State.ps
  by_cases m : s.sysMode = true
  · rw [if_pos m, if_neg h]; simp [m]
  · have : (s.cur.setP r v).p = s.cur.p.set (pIx r) v := by rw [Slot.setP, if_neg h]
    simp [m, this]

/-- Reading an x register after a write: x0 reads 0 and keeps nothing (R51). -/
theorem State.getX_setX (s : State) (r q : XReg) (v : Word) :
    (s.setX r v).getX q = if q = r ∧ r ≠ 0 then v else s.getX q := by
  by_cases h : r = 0
  · subst h; simp
  · rw [State.getX, s.setX_xs r v h, readX_set _ _ _ _ h]; simp only [State.getX]; grind
theorem State.getP_setP (s : State) (r q : PReg) (v : Bool) :
    (s.setP r v).getP q = if q = r ∧ r ≠ 0 then v else s.getP q := by
  by_cases h : r = 0
  · subst h; simp
  · rw [State.getP, s.setP_ps r v h, readP_set _ _ _ _ h]; simp only [State.getP]; grind
@[simp] theorem State.getP_setX (s : State) (r : XReg) (v : Word) (q : PReg) : (s.setX r v).getP q = s.getP q := by simp [State.getP]
@[simp] theorem State.getX_setP (s : State) (r : PReg) (v : Bool) (q : XReg) : (s.setP r v).getX q = s.getX q := by simp [State.getX]

/-! ## Moving past a word -/

@[simp] theorem State.advance_sys (s : State) (n : Nat) (h : s.sysMode = true) :
    s.advance n = s.modCore fun c => { c with pc := c.pc + BitVec.ofNat 64 n } := by simp [State.advance, h]
@[simp] theorem State.advance_focus (s : State) (n : Nat) : (s.advance n).focus = s.focus := by unfold State.advance; split <;> rfl
@[simp] theorem State.advance_sysMode (s : State) (n : Nat) : (s.advance n).sysMode = s.sysMode := by unfold State.advance; split <;> rfl
@[simp] theorem State.advance_eccError (s : State) (n : Nat) : (s.advance n).eccError = s.eccError := by unfold State.advance; split <;> rfl
@[simp] theorem State.advance_mem (s : State) (n : Nat) : (s.advance n).mem = s.mem := by unfold State.advance; split <;> rfl

/-- The slot in focus after a word: its pc lies past the word, its registers stay. -/
theorem State.cur_advance (s : State) (n : Nat) (h : s.sysMode = false) :
    (s.advance n).cur = { s.cur with
      pc := s.cur.pc + BitVec.ofNat 16 n
      run := if 64 ≤ s.cur.run + n / 4 then 0 else s.cur.run + n / 4
      status := if 64 ≤ s.cur.run + n / 4 ∧ s.cur.status = .running then .ready else s.cur.status } := by
  simp only [State.advance, h, State.cur, State.slot, State.modTile_focus, State.tile_modTile, Bool.false_eq_true, if_false]
  simp only [Tile.modSlot, Tile.slot, Fin.getElem_fin, Vector.getElem_set_self]
  rfl
@[simp] theorem State.getX_advance (s : State) (n : Nat) (r : XReg) : (s.advance n).getX r = s.getX r := by
  by_cases m : s.sysMode = true
  · simp [m, State.getX, State.xs]
  · simp [State.getX, State.xs, m, State.cur_advance s n (by simpa using m)]
@[simp] theorem State.getP_advance (s : State) (n : Nat) (r : PReg) : (s.advance n).getP r = s.getP r := by
  by_cases m : s.sysMode = true
  · simp [m, State.getP, State.ps]
  · simp [State.getP, State.ps, m, State.cur_advance s n (by simpa using m)]

/-! ## A word takes its effect -/

theorem State.pendingRegs_none (s : State) (xs : List XReg) (ps : List PReg) (h : s.sysMode = true ∨ s.settled xs ps) :
    s.pendingRegs xs ps = none := by
  unfold State.pendingRegs
  rcases h with h | ⟨hx, hp⟩
  · simp [h]
  · split
    · rfl
    · have e1 : ((xs.map BitVec.toNat).filter fun r => r != 0 && s.cur.pendX.contains r) = [] := by
        rw [List.filter_eq_nil_iff]
        intro n hn
        obtain ⟨r, hr, rfl⟩ := List.mem_map.mp hn
        by_cases h0 : r = 0
        · subst h0; simp
        · simp [hx r hr h0]
      have e2 : ((ps.map BitVec.toNat).filter fun r => r != 0 && s.cur.pendP.contains r) = [] := by
        rw [List.filter_eq_nil_iff]
        intro n hn
        obtain ⟨r, hr, rfl⟩ := List.mem_map.mp hn
        by_cases h0 : r = 0
        · subst h0; simp
        · simp [hp r hr h0]
      simp only [e1, e2]; simp

theorem State.stands_bars (s : State) (n : Nat) (h : s.stands n) (a b : Bool) : s.clauseBars a b = false := by
  rcases h with h | h <;> simp [State.clauseBars, h]
theorem State.stands_falls (s : State) (n : Nat) (h : s.stands n) : s.fallsOut n = false := by
  rcases h with h | h <;> simp [State.fallsOut, h]

/-- Where a scalar word may take its effect, it is what its body does. -/
theorem runGuarded_free (g : PReg) (xs : List XReg) (ps : List PReg) (act : State → Out) (s : State) (h : s.wordFree g xs ps) :
    runGuarded g xs ps act s = act s := by
  obtain ⟨st, hg, hp⟩ := h
  have p1 : s.pendingRegs [] [g] = none := s.pendingRegs_none _ _ (hp.imp_right fun h => ⟨by simp, by
    intro p hm; simp only [List.mem_singleton] at hm; subst hm; exact h.2 p (by simp)⟩)
  have p2 : s.pendingRegs xs ps = none := s.pendingRegs_none _ _ (hp.imp_right fun h => ⟨h.1, fun p hm => h.2 p (by simp [hm])⟩)
  simp [runGuarded, s.stands_bars 4 st, s.stands_falls 4 st, p1, hg, p2]

theorem runWord_free (g : PReg) (xs : List XReg) (ps : List PReg) (body : State → Except Stop State) (s t : State)
    (h : s.wordFree g xs ps) (e : body s = .ok t) : runWord g xs ps body s = .next (t.advance 4) := by
  simp [runWord, runGuarded_free _ _ _ _ s h, e, finishWord]

theorem runX_free (g : PReg) (d : XReg) (srcs : List XReg) (f : State → Word) (s : State) (h : s.wordFree g (d :: srcs) []) :
    runX g d srcs f s = .next ((s.setX d (f s)).advance 4) := runWord_free _ _ _ _ _ _ h rfl

/-- A scalar word whose guard reads false only moves past (R35, R69). -/
theorem runGuarded_false (g : PReg) (xs : List XReg) (ps : List PReg) (act : State → Out) (s : State) (st : s.stands 4)
    (hp : s.sysMode = true ∨ s.settled [] [g]) (hg : s.getP g = false) : runGuarded g xs ps act s = .next (s.advance 4) := by
  simp [runGuarded, s.stands_bars 4 st, s.stands_falls 4 st, s.pendingRegs_none _ _ hp, hg]

theorem cmdLen_eq (i : Instr) : cmdLen i = 16 ∨ cmdLen i = 32 := by unfold cmdLen; split <;> simp

/-- A command outside a clause that passes its checks and whose port takes it: what it does at its port, moved past the command. -/
theorem issueCommand_free (i : Instr) (c : Cmd) (extra : List XReg) (chk : Issue → State → Except Stop Unit)
    (eff : Issue → State → Except Stop State) (s t : State) (part : Issue → State → State) (h : s.commandFree i c extra)
    (hc : chk s.issue s = .ok ()) (he : eff s.issue s = .ok t) :
    issueCommand i c extra chk eff s part = .next (t.endCommand i c (cmdLen i)) := by
  obtain ⟨h1, h2, h3, h4, h5, h6, h7⟩ := h
  have f : s.fallsOut (cmdLen i) = false := s.stands_falls _ (.inr ⟨h2, h3⟩)
  have p := s.pendingRegs_none _ _ (.inr h5)
  have q : (s.here.held.any (·.stops i)) = false := by
    rw [List.any_eq_false]; intro x hx; simp [h7 x hx]
  simp only [issueCommand, q]
  simp [h1, h2, clauseWaveOk, f, p, h4, h6, hc, he]

/-- A transfer that acts: to its target where the branch is taken and the target may be jumped to. -/
theorem runBranch_taken (xs : List XReg) (ps : List PReg) (taken : State → Bool) (off : Int) (s : State) (pc : BitVec 16)
    (h : s.transferFree xs ps) (ht : taken s = true) (hp : s.checkTarget (s.cur.pc.toNat + 4 * off) = .ok pc) :
    runBranch xs ps taken off s = .next (s.jump pc) := by
  obtain ⟨h1, h2, h3⟩ := h
  have b : s.clauseBars false false = false := by simp [State.clauseBars, h1, h2]
  simp [runBranch, h1, b, s.pendingRegs_none _ _ (.inr h3), ht, finishTransfer, hp]
/-- A branch that is not taken falls through. -/
theorem runBranch_through (xs : List XReg) (ps : List PReg) (taken : State → Bool) (off : Int) (s : State)
    (h : s.transferFree xs ps) (ht : taken s = false) (hp : s.cur.pc.toNat + 4 ≤ 0xFFFC) :
    runBranch xs ps taken off s = .next (s.advance 4) := by
  obtain ⟨h1, h2, h3⟩ := h
  have b : s.clauseBars false false = false := by simp [State.clauseBars, h1, h2]
  simp [runBranch, h1, b, s.pendingRegs_none _ _ (.inr h3), ht, finishTransfer, State.fallsOut]; omega

/-- A happening answers with its effect where that is enabled. -/
theorem happening_some (i : Instr) (eff : State → Option State) (s t : State) (h : eff (s.unpost i s.focus) = some t) :
    happening i eff s = .next t := by simp [happening, h]
/-- A happening changes nothing where it is not enabled. -/
theorem happening_none (i : Instr) (eff : State → Option State) (s : State) (h : eff (s.unpost i s.focus) = none) :
    happening i eff s = .next s := by simp [happening, h]

end Sys2Proof.Machine
end

