-- ==== Sys2Proof/Laws/Frames.lean ====
section
/-! SUPPORT. What the shared operations leave alone: bytes, register files, arrays and status words (the frames of Safety), one lemma for
each operation and frame. -/
namespace Sys2Proof.Machine
open Sys2Proof

/-! ## Bytes -/

theorem State.sameBytes_refl (s : State) : s.sameBytes s := ⟨⟨fun _ => rfl, rfl, fun _ => ⟨fun _ => rfl, fun _ => rfl⟩⟩, fun _ => rfl⟩
theorem State.sameBytes_trans {s t u : State} (h : s.sameBytes t) (k : t.sameBytes u) : s.sameBytes u :=
  ⟨⟨fun a => (k.1.1 a).trans (h.1.1 a), k.1.2.1.trans h.1.2.1, fun v => ⟨fun a => ((k.1.2.2 v).1 a).trans ((h.1.2.2 v).1 a),
    fun a => ((k.1.2.2 v).2 a).trans ((h.1.2.2 v).2 a)⟩⟩, fun v => (k.2 v).trans (h.2 v)⟩
/-- Equal stores are the same bytes. -/
theorem State.sameBytes_of {s t : State} (h1 : t.mem = s.mem) (h2 : t.vwords = s.vwords)
    (h3 : ∀ u : TileId, (t.tile u).sp = (s.tile u).sp ∧ (t.tile u).istore = (s.tile u).istore ∧ (t.tile u).l1 = (s.tile u).l1) : s.sameBytes t :=
  ⟨⟨fun a => by rw [h1], h2, fun u => ⟨fun a => by rw [(h3 u).1], fun a => by rw [(h3 u).2.1]⟩⟩, fun u => (h3 u).2.2⟩
theorem State.sameBytes_modTile (s : State) (t : TileId) (f : Tile → Tile) (h : (f (s.tile t)).sp = (s.tile t).sp)
    (k : (f (s.tile t)).istore = (s.tile t).istore) (l : (f (s.tile t)).l1 = (s.tile t).l1) : s.sameBytes (s.modTile t f) :=
  State.sameBytes_of rfl rfl fun u => by
    by_cases e : u = t
    · subst e; simp [h, k, l]
    · simp [State.tile_modTile_ne _ _ e]
theorem State.sameBytes_modSlot (s : State) (t : TileId) (k : SlotId) (f : Slot → Slot) : s.sameBytes (s.modSlot t k f) :=
  s.sameBytes_modTile t _ rfl rfl rfl
theorem State.sameBytes_modCur (s : State) (f : Slot → Slot) : s.sameBytes (s.modCur f) := s.sameBytes_modSlot _ _ _
theorem State.sameBytes_modCtx (s : State) (n : Nat) (f : Context → Context) : s.sameBytes (s.modCtx n f) := s.sameBytes_refl
theorem State.sameBytes_modDie (s : State) (d : DieId) (f : Die → Die) : s.sameBytes (s.modDie d f) := s.sameBytes_refl
theorem State.sameBytes_post (s : State) (i : Instr) (f : Focus) : s.sameBytes (s.post i f) := s.sameBytes_refl
theorem State.sameBytes_postOnce (s : State) (i : Instr) (f : Focus) : s.sameBytes (s.postOnce i f) := by
  unfold State.postOnce; split
  · exact s.sameBytes_refl
  · exact s.sameBytes_post i f
theorem State.sameBytes_unpost (s : State) (i : Instr) (f : Focus) : s.sameBytes (s.unpost i f) := s.sameBytes_refl
theorem State.sameBytes_advance (s : State) (n : Nat) : s.sameBytes (s.advance n) := by
  unfold State.advance; split
  · exact s.sameBytes_refl
  · exact s.sameBytes_modTile _ _ rfl rfl rfl
theorem State.sameBytes_setX (s : State) (r : XReg) (v : Word) : s.sameBytes (s.setX r v) := by
  unfold State.setX; split
  · split
    · exact s.sameBytes_refl
    · exact ⟨⟨fun _ => rfl, rfl, fun _ => ⟨fun _ => rfl, fun _ => rfl⟩⟩, fun _ => rfl⟩
  · exact s.sameBytes_modCur _
theorem State.sameBytes_setP (s : State) (r : PReg) (v : Bool) : s.sameBytes (s.setP r v) := by
  unfold State.setP; split
  · split
    · exact s.sameBytes_refl
    · exact ⟨⟨fun _ => rfl, rfl, fun _ => ⟨fun _ => rfl, fun _ => rfl⟩⟩, fun _ => rfl⟩
  · exact s.sameBytes_modCur _
theorem State.sameBytes_queueRecord (s : State) (c : Nat) (r : BitVec 512) (l : List (TileId × Nat)) : s.sameBytes (s.queueRecord c r l) := s.sameBytes_refl
theorem State.sameBytes_stopSlot (s : State) (t : TileId) (k : SlotId) (kind : Nat) (fi : FaultInfo) (a x : Word) (o : Option Nat) (f : Bool) :
    s.sameBytes (s.stopSlot t k kind fi a x o f) :=
  State.sameBytes_trans (s.sameBytes_modSlot t k _) (State.sameBytes_queueRecord _ _ _ _)
theorem State.sameBytes_takeTrap (s : State) (c : FaultCode) (a x : Word) (n : Nat) (f : Bool) : s.sameBytes (s.takeTrap c a x n f) := by
  unfold State.takeTrap; split
  · exact s.sameBytes_refl
  · exact s.sameBytes_stopSlot ..
@[simp] theorem Tile.joinLine_sp (T : Tile) (n : Fin 4) (k : SlotId) : (T.joinLine n k).sp = T.sp := by unfold Tile.joinLine; dsimp only; split <;> rfl
@[simp] theorem Tile.joinLine_istore (T : Tile) (n : Fin 4) (k : SlotId) : (T.joinLine n k).istore = T.istore := by
  unfold Tile.joinLine; dsimp only; split <;> rfl
@[simp] theorem Tile.joinLine_l1 (T : Tile) (n : Fin 4) (k : SlotId) : (T.joinLine n k).l1 = T.l1 := by unfold Tile.joinLine; dsimp only; split <;> rfl
theorem State.sameBytes_blockSlot (s : State) (w : Wait) : s.sameBytes (s.blockSlot w) := by
  unfold State.blockSlot; split
  · exact s.sameBytes_refl
  · have h := s.sameBytes_modCur fun k => { k with status := .blocked, wait := w, since := s.clk }
    cases w <;> first
      | exact h
      | exact State.sameBytes_trans h (State.sameBytes_postOnce _ _ _)
      | exact State.sameBytes_trans h (State.sameBytes_trans (State.sameBytes_modCtx _ _ _) (State.sameBytes_postOnce _ _ _))
      | exact State.sameBytes_trans h (State.sameBytes_trans (State.sameBytes_modTile _ _ _ (by simp) (by simp) (by simp)) (State.sameBytes_postOnce _ _ _))
theorem State.sameBytes_stop (s : State) (n : Nat) (e : Stop) : s.sameBytes (s.stop n e) := by
  cases e
  · exact s.sameBytes_takeTrap ..
  · exact s.sameBytes_blockSlot _
theorem State.sameBytes_jump (s : State) (pc : BitVec 16) : s.sameBytes (s.jump pc) :=
  State.sameBytes_trans (s.sameBytes_advance 4) (State.sameBytes_modCur _ _)

/-! ## Register files -/

theorem State.sameFiles_refl (s : State) (xs : List XReg) (ps : List PReg) : s.sameFiles s xs ps :=
  ⟨fun _ => ⟨fun _ _ => rfl, fun _ _ => rfl⟩, fun u k => by split <;> simp⟩
/-- The files of every slot and of every management core kept are the same files. -/
theorem State.sameFiles_of {s t : State} (xs : List XReg) (ps : List PReg) (h1 : t.cores = s.cores)
    (h3 : ∀ u k, (t.slot u k).x = (s.slot u k).x ∧ (t.slot u k).p = (s.slot u k).p) : s.sameFiles t xs ps := by
  refine ⟨fun d => ⟨fun r _ => by rw [h1], fun p _ => by rw [h1]⟩, fun u k => ?_⟩
  have := h3 u k
  split
  · exact ⟨fun r _ => by rw [this.1], fun p _ => by rw [this.2]⟩
  · exact this
theorem State.sameFiles_trans {s t u : State} {xs : List XReg} {ps : List PReg} (hf : t.focus = s.focus) (h : s.sameFiles t xs ps)
    (k : t.sameFiles u xs ps) : s.sameFiles u xs ps := by
  refine ⟨fun d => ⟨fun r m => ((k.1 d).1 r m).trans ((h.1 d).1 r m), fun p m => ((k.1 d).2 p m).trans ((h.1 d).2 p m)⟩, fun v j => ?_⟩
  have a := h.2 v j
  have b := k.2 v j
  rw [hf] at b
  split at a
  · next e => rw [if_pos e]; rw [if_pos e] at b; exact ⟨fun r m => (b.1 r m).trans (a.1 r m), fun p m => (b.2 p m).trans (a.2 p m)⟩
  · next e => rw [if_neg e]; rw [if_neg e] at b; exact ⟨b.1.trans a.1, b.2.trans a.2⟩
theorem State.sameFiles_modCore (s : State) (f : Core → Core) (xs : List XReg) (ps : List PReg) (h : (f s.core).x = s.core.x)
    (h' : (f s.core).p = s.core.p) : s.sameFiles (s.modCore f) xs ps := by
  refine ⟨fun d => ?_, fun u k => ?_⟩
  · rw [State.cores_modCore]; split
    · next e => subst e; exact ⟨fun _ _ => by rw [h]; rfl, fun _ _ => by rw [h']; rfl⟩
    · exact ⟨fun _ _ => rfl, fun _ _ => rfl⟩
  · have : (s.modCore f).slot u k = s.slot u k := rfl
    rw [this]; split <;> simp
theorem State.sameFiles_modTile (s : State) (t : TileId) (f : Tile → Tile) (xs : List XReg) (ps : List PReg)
    (h : ∀ k, ((f (s.tile t)).slot k).x = (s.slot t k).x ∧ ((f (s.tile t)).slot k).p = (s.slot t k).p) : s.sameFiles (s.modTile t f) xs ps :=
  State.sameFiles_of _ _ rfl fun u k => by
    by_cases e : u = t
    · subst e; simpa [State.slot] using h k
    · simp [State.slot, State.tile_modTile_ne _ _ e]
theorem State.sameFiles_modSlot (s : State) (t : TileId) (k : SlotId) (f : Slot → Slot) (xs : List XReg) (ps : List PReg)
    (h : (f (s.slot t k)).x = (s.slot t k).x) (h' : (f (s.slot t k)).p = (s.slot t k).p) : s.sameFiles (s.modSlot t k f) xs ps := by
  apply s.sameFiles_modTile
  intro j
  by_cases e : j = k
  · subst e; simp only [Tile.slot_modSlot]; exact ⟨h, h'⟩
  · simp [Tile.slot_modSlot_ne _ _ e, State.slot]
theorem State.sameFiles_postOnce (s : State) (i : Instr) (f : Focus) (xs : List XReg) (ps : List PReg) : s.sameFiles (s.postOnce i f) xs ps := by
  unfold State.postOnce; split
  · exact s.sameFiles_refl _ _
  · exact State.sameFiles_of _ _ rfl fun _ _ => ⟨rfl, rfl⟩
theorem State.sameFiles_advance (s : State) (n : Nat) (xs : List XReg) (ps : List PReg) : s.sameFiles (s.advance n) xs ps := by
  unfold State.advance; split
  · exact State.sameFiles_modCore _ _ _ _ rfl rfl
  · apply s.sameFiles_modTile
    intro j
    by_cases e : j = s.focus.slot
    · subst e; simp [Tile.slot, Tile.modSlot, State.slot]
    · have : s.focus.slot.val ≠ j.val := fun x => e (Fin.ext x.symm)
      simp [Tile.slot, Tile.modSlot, State.slot, Vector.getElem_set_ne, this]

/-! ## Arrays -/

theorem State.sameArrays_refl (s : State) : s.sameArrays s := fun _ => ⟨rfl, rfl, rfl, rfl, rfl, rfl, rfl, rfl⟩
theorem State.sameArrays_trans {s t u : State} (h : s.sameArrays t) (k : t.sameArrays u) : s.sameArrays u := fun v => by
  obtain ⟨a1, a2, a3, a4, a5, a6, a7, a8⟩ := h v
  obtain ⟨b1, b2, b3, b4, b5, b6, b7, b8⟩ := k v
  exact ⟨b1.trans a1, b2.trans a2, b3.trans a3, b4.trans a4, b5.trans a5, b6.trans a6, b7.trans a7, b8.trans a8⟩
theorem State.sameArrays_modTile (s : State) (t : TileId) (f : Tile → Tile)
    (h : (f (s.tile t)).v = (s.tile t).v ∧ (f (s.tile t)).a = (s.tile t).a ∧ (f (s.tile t)).m = (s.tile t).m ∧ (f (s.tile t)).z = (s.tile t).z ∧
      (f (s.tile t)).active = (s.tile t).active ∧ (f (s.tile t)).shadow = (s.tile t).shadow ∧ (f (s.tile t)).present = (s.tile t).present ∧
      (f (s.tile t)).lfsr = (s.tile t).lfsr) : s.sameArrays (s.modTile t f) := fun u => by
  by_cases e : u = t
  · subst e; simpa using h
  · simp [State.tile_modTile_ne _ _ e]
theorem State.sameArrays_modSlot (s : State) (t : TileId) (k : SlotId) (f : Slot → Slot) : s.sameArrays (s.modSlot t k f) :=
  s.sameArrays_modTile t _ ⟨rfl, rfl, rfl, rfl, rfl, rfl, rfl, rfl⟩
theorem State.sameArrays_postOnce (s : State) (i : Instr) (f : Focus) : s.sameArrays (s.postOnce i f) := by
  unfold State.postOnce; split <;> exact fun _ => ⟨rfl, rfl, rfl, rfl, rfl, rfl, rfl, rfl⟩
theorem State.sameArrays_advance (s : State) (n : Nat) : s.sameArrays (s.advance n) := by
  unfold State.advance; split
  · exact s.sameArrays_refl
  · exact s.sameArrays_modTile _ _ ⟨rfl, rfl, rfl, rfl, rfl, rfl, rfl, rfl⟩
theorem State.sameArrays_setX (s : State) (r : XReg) (v : Word) : s.sameArrays (s.setX r v) := by
  unfold State.setX; split
  · split <;> exact fun _ => ⟨rfl, rfl, rfl, rfl, rfl, rfl, rfl, rfl⟩
  · exact s.sameArrays_modSlot _ _ _

/-! ## Status words -/

theorem State.sameStatus_refl (s : State) : s.sameStatus s := fun _ => ⟨rfl, rfl, fun _ => ⟨rfl, rfl, rfl, rfl, rfl⟩⟩
theorem State.sameStatus_trans {s t u : State} (h : s.sameStatus t) (k : t.sameStatus u) : s.sameStatus u := fun v => by
  obtain ⟨a1, a2, a3⟩ := h v
  obtain ⟨b1, b2, b3⟩ := k v
  refine ⟨b1.trans a1, b2.trans a2, fun j => ?_⟩
  obtain ⟨c1, c2, c3, c4, c5⟩ := a3 j
  obtain ⟨d1, d2, d3, d4, d5⟩ := b3 j
  exact ⟨d1.trans c1, d2.trans c2, d3.trans c3, d4.trans c4, d5.trans c5⟩
theorem State.sameStatus_modTile (s : State) (t : TileId) (f : Tile → Tile) (h1 : (f (s.tile t)).phase = (s.tile t).phase)
    (h2 : (f (s.tile t)).lead = (s.tile t).lead)
    (h3 : ∀ k, let q := (f (s.tile t)).slot k
      q.stat = (s.slot t k).stat ∧ q.cnt = (s.slot t k).cnt ∧ q.cls = (s.slot t k).cls ∧ q.win = (s.slot t k).win ∧ q.wavectr = (s.slot t k).wavectr) :
    s.sameStatus (s.modTile t f) := fun u => by
  by_cases e : u = t
  · subst e; exact ⟨by simp [h1], by simp [h2], fun k => by simpa [State.slot] using h3 k⟩
  · simp [State.tile_modTile_ne _ _ e, State.slot]
theorem State.sameStatus_modSlot (s : State) (t : TileId) (k : SlotId) (f : Slot → Slot)
    (h : (f (s.slot t k)).stat = (s.slot t k).stat ∧ (f (s.slot t k)).cnt = (s.slot t k).cnt ∧ (f (s.slot t k)).cls = (s.slot t k).cls ∧
      (f (s.slot t k)).win = (s.slot t k).win ∧ (f (s.slot t k)).wavectr = (s.slot t k).wavectr) : s.sameStatus (s.modSlot t k f) := by
  apply s.sameStatus_modTile t _ rfl rfl
  intro j
  by_cases e : j = k
  · subst e; simpa [State.slot] using h
  · simp [Tile.slot_modSlot_ne _ _ e, State.slot]
theorem State.sameStatus_advance (s : State) (n : Nat) : s.sameStatus (s.advance n) := by
  unfold State.advance; split
  · exact s.sameStatus_refl
  · apply s.sameStatus_modTile _ _ rfl rfl
    intro j
    by_cases e : j = s.focus.slot
    · subst e; simp [Tile.slot, Tile.modSlot, State.slot]
    · have : s.focus.slot.val ≠ j.val := fun x => e (Fin.ext x.symm)
      simp [Tile.slot, Tile.modSlot, State.slot, Vector.getElem_set_ne, this]
theorem State.sameStatus_setX (s : State) (r : XReg) (v : Word) : s.sameStatus (s.setX r v) := by
  unfold State.setX; split
  · split <;> exact fun _ => ⟨rfl, rfl, fun _ => ⟨rfl, rfl, rfl, rfl, rfl⟩⟩
  · apply s.sameStatus_modSlot
    unfold Slot.setX; split <;> simp

/-! ## Updates no frame sees -/

@[simp] theorem State.sameBytes_post_iff (s t : State) (i : Instr) (f : Focus) : s.sameBytes (t.post i f) ↔ s.sameBytes t := Iff.rfl
@[simp] theorem State.sameFiles_post_iff (s t : State) (i : Instr) (f : Focus) (xs : List XReg) (ps : List PReg) :
    s.sameFiles (t.post i f) xs ps ↔ s.sameFiles t xs ps := Iff.rfl
@[simp] theorem State.sameArrays_post_iff (s t : State) (i : Instr) (f : Focus) : s.sameArrays (t.post i f) ↔ s.sameArrays t := Iff.rfl
@[simp] theorem State.sameStatus_post_iff (s t : State) (i : Instr) (f : Focus) : s.sameStatus (t.post i f) ↔ s.sameStatus t := Iff.rfl
@[simp] theorem State.sameBytes_modCtx_iff (s t : State) (n : Nat) (f : Context → Context) : s.sameBytes (t.modCtx n f) ↔ s.sameBytes t := Iff.rfl
@[simp] theorem State.sameFiles_modCtx_iff (s t : State) (n : Nat) (f : Context → Context) (xs : List XReg) (ps : List PReg) :
    s.sameFiles (t.modCtx n f) xs ps ↔ s.sameFiles t xs ps := Iff.rfl
@[simp] theorem State.sameArrays_modCtx_iff (s t : State) (n : Nat) (f : Context → Context) : s.sameArrays (t.modCtx n f) ↔ s.sameArrays t := Iff.rfl
@[simp] theorem State.sameStatus_modCtx_iff (s t : State) (n : Nat) (f : Context → Context) : s.sameStatus (t.modCtx n f) ↔ s.sameStatus t := Iff.rfl
@[simp] theorem State.sameBytes_unpost_iff (s t : State) (i : Instr) (f : Focus) : (s.unpost i f).sameBytes t ↔ s.sameBytes t := Iff.rfl
@[simp] theorem State.sameFiles_unpost_iff (s t : State) (i : Instr) (f : Focus) (xs : List XReg) (ps : List PReg) :
    (s.unpost i f).sameFiles t xs ps ↔ s.sameFiles t xs ps := Iff.rfl
@[simp] theorem State.sameArrays_unpost_iff (s t : State) (i : Instr) (f : Focus) : (s.unpost i f).sameArrays t ↔ s.sameArrays t := Iff.rfl
@[simp] theorem State.sameStatus_unpost_iff (s t : State) (i : Instr) (f : Focus) : (s.unpost i f).sameStatus t ↔ s.sameStatus t := Iff.rfl

end Sys2Proof.Machine
end

