-- ==== Sys2Proof/Laws/Access.lean ====
section
/-! SUPPORT. What issuing a memory access does. -/
namespace Sys2Proof.Machine
open Sys2Proof

/-- What numbering a waved access may change: the wave fields of its slot, and nothing the frames see (R200). -/
theorem State.noteWave_frames (s : State) (iss : Issue) (n : Nat) (w : Option WaveInfo) (u : State) (hu : u = (s.noteWave iss n w).2) :
    u.focus = s.focus ∧ u.sysMode = s.sysMode ∧ u.here.accesses = s.here.accesses ∧ (w = none → u = s) ∧ u.cur.pc = s.cur.pc ∧
      s.sameBytes u ∧ s.sameFiles u [] [] ∧ s.sameArrays u ∧ s.sameStatus u := by
  have same : u = s → u.focus = s.focus ∧ u.sysMode = s.sysMode ∧ u.here.accesses = s.here.accesses ∧ (w = none → u = s) ∧
      u.cur.pc = s.cur.pc ∧ s.sameBytes u ∧ s.sameFiles u [] [] ∧ s.sameArrays u ∧ s.sameStatus u := by
    rintro rfl
    exact ⟨rfl, rfl, rfl, fun _ => rfl, rfl, State.sameBytes_refl _, State.sameFiles_refl _ _ _, State.sameArrays_refl _, State.sameStatus_refl _⟩
  cases w with
  | none => exact same hu
  | some v =>
    by_cases h : s.alive iss = true
    · have e : u = s.modSlot iss.tile iss.slot fun k => k.noteWave n v := by simp [hu, State.noteWave, h]
      subst e
      refine ⟨rfl, rfl, ?_, nofun, ?_, State.sameBytes_modSlot _ _ _ _, State.sameFiles_modSlot _ _ _ _ _ _ rfl rfl,
        State.sameArrays_modSlot _ _ _ _, State.sameStatus_modSlot _ _ _ _ ⟨rfl, rfl, rfl, rfl, rfl⟩⟩
      · by_cases e : s.focus.tile = iss.tile
        · simp [State.here, State.modSlot, e, Tile.modSlot]
        · simp [State.here, State.modSlot, State.tile_modTile_ne _ _ e]
      · by_cases e : s.focus.tile = iss.tile
        · by_cases e' : s.focus.slot = iss.slot
          · simp [State.cur, State.slot, State.modSlot, e, e', Slot.noteWave]
          · simp [State.cur, State.slot, State.modSlot, e, Tile.slot_modSlot_ne _ _ e']
        · simp [State.cur, State.slot, State.modSlot, State.tile_modTile_ne _ _ e]
    · exact same (by simp [hu, State.noteWave, h])

/-- What keeping a new access of the tile in focus does, with one happening owed. -/
theorem State.addAccess_frames (u : State) (a : Access) (i : Instr) (f : Focus) :
    let t := (u.modTile u.focus.tile fun T => T.addAccess a).post i f
    t.here.accesses = u.here.accesses ++ [a] ∧ .happen i f ∈ t.pending ∧ t.cur = u.cur ∧ t.focus = u.focus ∧ t.sysMode = u.sysMode ∧
      u.sameBytes t ∧ u.sameFiles t [] [] ∧ u.sameArrays t ∧ u.sameStatus t := by
  refine ⟨?_, ?_, ?_, rfl, rfl, ?_, ?_, ?_, ?_⟩
  · simp [State.here, Tile.addAccess]
  · simp
  · simp [State.cur, State.slot, Tile.slot, Tile.addAccess]
  · rw [State.sameBytes_post_iff]; exact u.sameBytes_modTile u.focus.tile _ rfl rfl rfl
  · rw [State.sameFiles_post_iff]; exact u.sameFiles_modTile u.focus.tile _ _ _ fun k => ⟨rfl, rfl⟩
  · rw [State.sameArrays_post_iff]; exact u.sameArrays_modTile u.focus.tile _ ⟨rfl, rfl, rfl, rfl, rfl, rfl, rfl, rfl⟩
  · rw [State.sameStatus_post_iff]; exact u.sameStatus_modTile u.focus.tile _ rfl rfl fun _ => ⟨rfl, rfl, rfl, rfl, rfl⟩

/-- Issuing an access (R180, R181): where it is accepted, one access is added and one happening owed, a waved one is numbered, and nothing
else changes. -/
theorem State.issueAccess_accepts (s : State) (k : AccKind) (ps : List Piece) (locs : Option (List (Loc × Nat))) (wave : Option WaveInfo)
    (h : s.accepts k ps locs) :
    ∃ t, s.issueAccess s.issue k ps wave = .ok t ∧ s.issues t k ps locs ∧ (wave = none → t.cur = s.cur) ∧ t.cur.pc = s.cur.pc ∧
      t.focus = s.focus ∧ t.sysMode = s.sysMode ∧ s.sameBytes t ∧ s.sameFiles t [] [] ∧ s.sameArrays t ∧ s.sameStatus t := by
  obtain ⟨hl, ht, hp⟩ := h
  obtain ⟨e, he⟩ := Option.isSome_iff_exists.mp hl
  have he' : (s.tile s.issue.tile).freeLog = some e := he
  have hpool : (locs.isNone && s.needsWalk s.issue ps && s.poolFull s.issue.tile) = false := by
    cases locs with
    | none =>
      cases hw : s.needsWalk s.issue ps with
      | false => simp
      | true => have := hp rfl hw; simp only [State.issue]; simp [this]
    | some l => rfl
  obtain ⟨u, hu⟩ : ∃ u, u = (s.noteWave s.issue s.here.nextAcc wave).2 := ⟨_, rfl⟩
  obtain ⟨f1, f2, f3, f4, f5, f6, f7, f8, f9⟩ := s.noteWave_frames s.issue s.here.nextAcc wave u hu
  obtain ⟨a, h1, h2, h3, h4, h5, h6, h7, hi⟩ : ∃ a : Access, a.id = s.here.nextAcc ∧ a.iss = s.issue ∧ a.kind = k ∧ a.pieces = ps ∧
      a.tileDone = false ∧ a.parked = locs.isNone ∧ a.locs = locs.getD [] ∧
      s.issueAccess s.issue k ps wave = .ok ((u.modTile s.focus.tile fun T => T.addAccess a).post (if locs.isNone then .pageWalkDone else k.owes)
          { tile := s.focus.tile, id := a.id }) := by
    refine ⟨{ id := s.here.nextAcc, iss := s.issue, kind := k, pieces := ps, wave := (s.noteWave s.issue s.here.nextAcc wave).1
              parked := locs.isNone, pooled := locs.isNone && s.needsWalk s.issue ps, locs := locs.getD [], bar := (u.slot s.focus.tile s.focus.slot).storeBar
              olog := if locs.isNone || k.keepsLog then some e else none, entry := some e }, rfl, rfl, rfl, rfl, rfl, rfl, rfl, ?_⟩
    subst hu; rw [State.issueAccess]; simp only [he', ht, hpool]; rfl
  refine ⟨_, hi, ?_⟩
  rw [← f1]
  obtain ⟨g1, g2, g3, g4, g5, g6, g7, g8, g9⟩ := u.addAccess_frames a (if locs.isNone then .pageWalkDone else k.owes) { tile := u.focus.tile, id := a.id }
  exact ⟨⟨a, g1.trans (by rw [f3]), h1, h2, h3, h4, h5, h6, h7, by rw [← f1]; exact g2⟩, fun w => g3.trans (by rw [f4 w]), (by rw [g3]; exact f5),
    g4, g5.trans f2, State.sameBytes_trans f6 g6, State.sameFiles_trans f1 f7 g7, State.sameArrays_trans f8 g8, State.sameStatus_trans f9 g9⟩

/-- A refused access: the fault the tile finds itself. -/
theorem State.issueAccess_fails (s : State) (iss : Issue) (k : AccKind) (ps : List Piece) (wave : Option WaveInfo) (c : FaultCode) (va : Nat)
    (hl : (s.tile iss.tile).freeLog.isSome) (ht : s.tryLocate iss k ps false = .error (c, va)) :
    s.issueAccess iss k ps wave = .error (.trap c (w64 va) 0) := by
  obtain ⟨e, he⟩ := Option.isSome_iff_exists.mp hl
  simp [State.issueAccess, he, ht]

end Sys2Proof.Machine
end

