-- ==== Sys2Proof/Laws/Memory.lean ====
section
/-! SUPPORT. The laws of a memory: a read after a write, and the canonical form every memory operation keeps. -/
namespace Sys2Proof.Machine
open Sys2Proof

/-- A byte below every entry reads 0. -/
theorem Memory.get_below : ∀ (m : List Host.Cell) (lo x : Nat), Memory.wfFrom lo m = true → x < lo → Memory.get m x = 0
  | [], _, _, _, _ => rfl
  | (a, b) :: m, lo, x, h, hx => by
    simp only [Memory.wfFrom, Bool.and_eq_true, decide_eq_true_eq] at h
    have : a ≠ x := by omega
    simp only [Memory.get, this, if_false]
    exact Memory.get_below m (a + 1) x h.2 (by omega)

/-- Reading after writing one byte of a canonical memory. -/
theorem Memory.get_set : ∀ (m : List Host.Cell) (lo x : Nat) (v : Byte) (y : Nat), Memory.wfFrom lo m = true →
    Memory.get (Memory.set m x v) y = if y = x then v else Memory.get m y
  | [], lo, x, v, y, _ => by grind [Memory.set, Memory.get]
  | (a, b) :: m, lo, x, v, y, h => by
    have ih := Memory.get_set m (a + 1) x v y
    have below := Memory.get_below m (a + 1)
    grind [Memory.set, Memory.get, Memory.wfFrom]

/-- The canonical form from a higher bound is one from a lower. -/
theorem Memory.wfFrom_mono {lo hi : Nat} (m : List Host.Cell) (h : Memory.wfFrom hi m = true) (le : lo ≤ hi) :
    Memory.wfFrom lo m = true := by
  cases m <;> grind [Memory.wfFrom]

/-- Writing one byte keeps the canonical form, and its lower bound where the byte lies above it. -/
theorem Memory.wfFrom_set : ∀ (m : List Host.Cell) (lo x : Nat) (v : Byte), Memory.wfFrom lo m = true → lo ≤ x →
    Memory.wfFrom lo (Memory.set m x v) = true
  | [], lo, x, v, _, hx => by grind [Memory.set, Memory.wfFrom]
  | (a, b) :: m, lo, x, v, h, hx => by
    have ih := Memory.wfFrom_set m (a + 1) x v
    have mono := Memory.wfFrom_mono (lo := lo) (hi := a + 1) m
    grind [Memory.set, Memory.wfFrom]

/-- A write of one byte keeps the canonical form. -/
theorem Memory.wf_set (m : List Host.Cell) (x : Nat) (v : Byte) (h : Memory.wf m = true) : Memory.wf (Memory.set m x v) = true :=
  Memory.wfFrom_set m 0 x v h (Nat.zero_le x)

/-- A write of bytes keeps the canonical form. -/
theorem Memory.wf_write (bs : List Byte) : ∀ (m : List Host.Cell) (a : Nat), Memory.wf m = true → Memory.wf (Memory.write m a bs) = true := by
  induction bs with
  | nil => intro m a h; exact h
  | cons b bs ih => intro m a h; exact ih _ _ (Memory.wf_set m a b h)

/-- A byte of a write reads as written, every other byte as before. -/
theorem Memory.get_write (bs : List Byte) : ∀ (m : List Host.Cell) (a y : Nat), Memory.wf m = true →
    Memory.get (Memory.write m a bs) y = if h : a ≤ y ∧ y < a + bs.length then bs[y - a] else Memory.get m y := by
  induction bs with
  | nil => intro m a y h; have : ¬ (a ≤ y ∧ y < a + 0) := by omega
           simp [Memory.write] <;> intros <;> omega
  | cons b bs ih =>
    intro m a y h
    simp only [Memory.write]
    rw [ih _ _ _ (Memory.wf_set m a b h), Memory.get_set m 0 a b y h]
    grind

/-- The bytes written read back. -/
theorem Memory.read_write (m : List Host.Cell) (a : Nat) (bs : List Byte) (h : Memory.wf m = true) :
    Memory.read (Memory.write m a bs) a bs.length = bs := by
  apply List.ext_getElem
  · simp [Memory.read]
  · intro i h1 h2
    simp [Memory.read, Memory.get_write bs m a (a + i) h, h2]

/-- Bytes apart from a write read as before. -/
theorem Memory.read_write_apart (m : List Host.Cell) (a b n : Nat) (bs : List Byte) (h : Memory.wf m = true)
    (d : b + n ≤ a ∨ a + bs.length ≤ b) : Memory.read (Memory.write m a bs) b n = Memory.read m b n := by
  simp only [Memory.read]
  apply List.map_congr_left
  intro i hi
  have := List.mem_range.mp hi
  rw [Memory.get_write bs m a (b + i) h, dif_neg (by omega)]

/-- Two canonical memories that read the same are the same. -/
theorem Memory.ext : ∀ (m n : List Host.Cell) (lo : Nat), Memory.wfFrom lo m = true → Memory.wfFrom lo n = true →
    (∀ x, Memory.get m x = Memory.get n x) → m = n
  | [], [], _, _, _, _ => rfl
  | [], (a, b) :: n, lo, _, h, e => by
    have := e a; simp [Memory.get, Memory.wfFrom] at this h; exact absurd this.symm h.1.2
  | (a, b) :: m, [], lo, h, _, e => by
    have := e a; simp [Memory.get, Memory.wfFrom] at this h; exact absurd this h.1.2
  | (a, b) :: m, (c, d) :: n, lo, hm, hn, e => by
    simp only [Memory.wfFrom, Bool.and_eq_true, decide_eq_true_eq, bne_iff_ne] at hm hn
    have bm := Memory.get_below m (a + 1)
    have bn := Memory.get_below n (c + 1)
    have hac : a = c := by
      rcases Nat.lt_trichotomy a c with h | h | h
      · have := e a; simp [Memory.get, Nat.ne_of_gt h, bn a hn.2 (by omega)] at this; exact absurd this hm.1.2
      · exact h
      · have := e c; simp [Memory.get, Nat.ne_of_gt h, bm c hm.2 (by omega)] at this; exact absurd this.symm hn.1.2
    subst hac
    have hbd : b = d := by have := e a; simpa [Memory.get] using this
    subst hbd
    have : m = n := Memory.ext m n (a + 1) hm.2 hn.2 fun x => by
      have := e x
      by_cases hx : a = x
      · subst hx; rw [bm a hm.2 (by omega), bn a hn.2 (by omega)]
      · simpa [Memory.get, hx] using this
    rw [this]

/-- Little-endian bytes hold their value. -/
theorem leNat_leBytes : ∀ n v : Nat, leNat (leBytes n v) = v % 256 ^ n
  | 0, v => by simp [leBytes, leNat, Nat.mod_one]
  | n + 1, v => by
    simp only [leBytes, leNat, leNat_leBytes n]
    rw [Nat.pow_succ, Nat.mul_comm (256 ^ n) 256, Nat.mod_mul]
    simp
@[simp] theorem leBytes_length : ∀ n v : Nat, (leBytes n v).length = n
  | 0, _ => rfl
  | n + 1, v => by simp [leBytes, leBytes_length n]

end Sys2Proof.Machine
end

