-- ==== Sys2Proof/Laws/PerInstr.lean ====
section
/-! SUPPORT. What holds of every instruction as syntax, one lemma per constructor. -/
namespace Sys2Proof.Laws.OneForm
open Sys2Proof

/-- An instruction has at most one of the three encodings: a scalar word (R33), a command (R38), a walk rule (R253). -/
def Statement (i : Instr) : Prop :=
  (encodeWord i ≠ none → encodeRule i = none ∧ cmdOpcode i = none) ∧ (encodeRule i ≠ none → cmdOpcode i = none)

/-- Of three encodings, the two named are none. -/
theorem of_word {i : Instr} (h : encodeRule i = none) (k : cmdOpcode i = none) : Statement i := ⟨fun _ => ⟨h, k⟩, fun _ => k⟩
theorem of_cmd {i : Instr} (h : encodeWord i = none) (k : encodeRule i = none) : Statement i :=
  ⟨fun n => absurd h n, fun n => absurd k n⟩

theorem add (a1 : _) (a2 : _) (a3 : _) (a4 : _) : Statement (Instr.add a1 a2 a3 a4) := of_word rfl rfl
theorem sub (a1 : _) (a2 : _) (a3 : _) (a4 : _) : Statement (Instr.sub a1 a2 a3 a4) := of_word rfl rfl
theorem and (a1 : _) (a2 : _) (a3 : _) (a4 : _) : Statement (Instr.and a1 a2 a3 a4) := of_word rfl rfl
theorem or (a1 : _) (a2 : _) (a3 : _) (a4 : _) : Statement (Instr.or a1 a2 a3 a4) := of_word rfl rfl
theorem xor (a1 : _) (a2 : _) (a3 : _) (a4 : _) : Statement (Instr.xor a1 a2 a3 a4) := of_word rfl rfl
theorem andn (a1 : _) (a2 : _) (a3 : _) (a4 : _) : Statement (Instr.andn a1 a2 a3 a4) := of_word rfl rfl
theorem sll (a1 : _) (a2 : _) (a3 : _) (a4 : _) : Statement (Instr.sll a1 a2 a3 a4) := of_word rfl rfl
theorem srl (a1 : _) (a2 : _) (a3 : _) (a4 : _) : Statement (Instr.srl a1 a2 a3 a4) := of_word rfl rfl
theorem sra (a1 : _) (a2 : _) (a3 : _) (a4 : _) : Statement (Instr.sra a1 a2 a3 a4) := of_word rfl rfl
theorem rol (a1 : _) (a2 : _) (a3 : _) (a4 : _) : Statement (Instr.rol a1 a2 a3 a4) := of_word rfl rfl
theorem mul (a1 : _) (a2 : _) (a3 : _) (a4 : _) : Statement (Instr.mul a1 a2 a3 a4) := of_word rfl rfl
theorem mulh (a1 : _) (a2 : _) (a3 : _) (a4 : _) : Statement (Instr.mulh a1 a2 a3 a4) := of_word rfl rfl
theorem mulhn (a1 : _) (a2 : _) (a3 : _) (a4 : _) : Statement (Instr.mulhn a1 a2 a3 a4) := of_word rfl rfl
theorem div (a1 : _) (a2 : _) (a3 : _) (a4 : _) : Statement (Instr.div a1 a2 a3 a4) := of_word rfl rfl
theorem divn (a1 : _) (a2 : _) (a3 : _) (a4 : _) : Statement (Instr.divn a1 a2 a3 a4) := of_word rfl rfl
theorem rem (a1 : _) (a2 : _) (a3 : _) (a4 : _) : Statement (Instr.rem a1 a2 a3 a4) := of_word rfl rfl
theorem remn (a1 : _) (a2 : _) (a3 : _) (a4 : _) : Statement (Instr.remn a1 a2 a3 a4) := of_word rfl rfl
theorem min (a1 : _) (a2 : _) (a3 : _) (a4 : _) : Statement (Instr.min a1 a2 a3 a4) := of_word rfl rfl
theorem minn (a1 : _) (a2 : _) (a3 : _) (a4 : _) : Statement (Instr.minn a1 a2 a3 a4) := of_word rfl rfl
theorem max (a1 : _) (a2 : _) (a3 : _) (a4 : _) : Statement (Instr.max a1 a2 a3 a4) := of_word rfl rfl
theorem maxn (a1 : _) (a2 : _) (a3 : _) (a4 : _) : Statement (Instr.maxn a1 a2 a3 a4) := of_word rfl rfl
theorem slt (a1 : _) (a2 : _) (a3 : _) (a4 : _) : Statement (Instr.slt a1 a2 a3 a4) := of_word rfl rfl
theorem sltn (a1 : _) (a2 : _) (a3 : _) (a4 : _) : Statement (Instr.sltn a1 a2 a3 a4) := of_word rfl rfl
theorem clz (a1 : _) (a2 : _) (a3 : _) : Statement (Instr.clz a1 a2 a3) := of_word rfl rfl
theorem ctz (a1 : _) (a2 : _) (a3 : _) : Statement (Instr.ctz a1 a2 a3) := of_word rfl rfl
theorem popc (a1 : _) (a2 : _) (a3 : _) : Statement (Instr.popc a1 a2 a3) := of_word rfl rfl
theorem addi (a1 : _) (a2 : _) (a3 : _) (a4 : _) : Statement (Instr.addi a1 a2 a3 a4) := of_word rfl rfl
theorem andi (a1 : _) (a2 : _) (a3 : _) (a4 : _) : Statement (Instr.andi a1 a2 a3 a4) := of_word rfl rfl
theorem ori (a1 : _) (a2 : _) (a3 : _) (a4 : _) : Statement (Instr.ori a1 a2 a3 a4) := of_word rfl rfl
theorem xori (a1 : _) (a2 : _) (a3 : _) (a4 : _) : Statement (Instr.xori a1 a2 a3 a4) := of_word rfl rfl
theorem slti (a1 : _) (a2 : _) (a3 : _) (a4 : _) : Statement (Instr.slti a1 a2 a3 a4) := of_word rfl rfl
theorem sltni (a1 : _) (a2 : _) (a3 : _) (a4 : _) : Statement (Instr.sltni a1 a2 a3 a4) := of_word rfl rfl
theorem slli (a1 : _) (a2 : _) (a3 : _) (a4 : _) : Statement (Instr.slli a1 a2 a3 a4) := of_word rfl rfl
theorem srli (a1 : _) (a2 : _) (a3 : _) (a4 : _) : Statement (Instr.srli a1 a2 a3 a4) := of_word rfl rfl
theorem srai (a1 : _) (a2 : _) (a3 : _) (a4 : _) : Statement (Instr.srai a1 a2 a3 a4) := of_word rfl rfl
theorem roli (a1 : _) (a2 : _) (a3 : _) (a4 : _) : Statement (Instr.roli a1 a2 a3 a4) := of_word rfl rfl
theorem lui (a1 : _) (a2 : _) : Statement (Instr.lui a1 a2) := of_word rfl rfl
theorem pcai (a1 : _) (a2 : _) : Statement (Instr.pcai a1 a2) := of_word rfl rfl
theorem bfx (a1 : _) (a2 : _) (a3 : _) (a4 : _) (a5 : _) : Statement (Instr.bfx a1 a2 a3 a4 a5) := of_word rfl rfl
theorem bfxS (a1 : _) (a2 : _) (a3 : _) (a4 : _) (a5 : _) : Statement (Instr.bfxS a1 a2 a3 a4 a5) := of_word rfl rfl
theorem bfi (a1 : _) (a2 : _) (a3 : _) (a4 : _) (a5 : _) : Statement (Instr.bfi a1 a2 a3 a4 a5) := of_word rfl rfl
theorem sel (a1 : _) (a2 : _) (a3 : _) (a4 : _) (a5 : _) : Statement (Instr.sel a1 a2 a3 a4 a5) := of_word rfl rfl
theorem pcmpEq (a1 : _) (a2 : _) (a3 : _) (a4 : _) : Statement (Instr.pcmpEq a1 a2 a3 a4) := of_word rfl rfl
theorem pcmpNe (a1 : _) (a2 : _) (a3 : _) (a4 : _) : Statement (Instr.pcmpNe a1 a2 a3 a4) := of_word rfl rfl
theorem pcmpLt (a1 : _) (a2 : _) (a3 : _) (a4 : _) : Statement (Instr.pcmpLt a1 a2 a3 a4) := of_word rfl rfl
theorem pcmpGe (a1 : _) (a2 : _) (a3 : _) (a4 : _) : Statement (Instr.pcmpGe a1 a2 a3 a4) := of_word rfl rfl
theorem pcmpLtn (a1 : _) (a2 : _) (a3 : _) (a4 : _) : Statement (Instr.pcmpLtn a1 a2 a3 a4) := of_word rfl rfl
theorem pcmpGen (a1 : _) (a2 : _) (a3 : _) (a4 : _) : Statement (Instr.pcmpGen a1 a2 a3 a4) := of_word rfl rfl
theorem plog (a1 : _) (a2 : _) (a3 : _) (a4 : _) (a5 : _) : Statement (Instr.plog a1 a2 a3 a4 a5) := of_word rfl rfl
theorem bEq (a1 : _) (a2 : _) (a3 : _) : Statement (Instr.bEq a1 a2 a3) := of_word rfl rfl
theorem bNe (a1 : _) (a2 : _) (a3 : _) : Statement (Instr.bNe a1 a2 a3) := of_word rfl rfl
theorem bLt (a1 : _) (a2 : _) (a3 : _) : Statement (Instr.bLt a1 a2 a3) := of_word rfl rfl
theorem bGe (a1 : _) (a2 : _) (a3 : _) : Statement (Instr.bGe a1 a2 a3) := of_word rfl rfl
theorem bLtn (a1 : _) (a2 : _) (a3 : _) : Statement (Instr.bLtn a1 a2 a3) := of_word rfl rfl
theorem bGen (a1 : _) (a2 : _) (a3 : _) : Statement (Instr.bGen a1 a2 a3) := of_word rfl rfl
theorem bpT (a1 : _) (a2 : _) : Statement (Instr.bpT a1 a2) := of_word rfl rfl
theorem bpF (a1 : _) (a2 : _) : Statement (Instr.bpF a1 a2) := of_word rfl rfl
theorem jal (a1 : _) (a2 : _) : Statement (Instr.jal a1 a2) := of_word rfl rfl
theorem jalr (a1 : _) (a2 : _) (a3 : _) (a4 : _) : Statement (Instr.jalr a1 a2 a3 a4) := of_word rfl rfl
theorem ldb (a1 : _) (a2 : _) (a3 : _) (a4 : _) : Statement (Instr.ldb a1 a2 a3 a4) := of_word rfl rfl
theorem ldbs (a1 : _) (a2 : _) (a3 : _) (a4 : _) : Statement (Instr.ldbs a1 a2 a3 a4) := of_word rfl rfl
theorem ldh (a1 : _) (a2 : _) (a3 : _) (a4 : _) : Statement (Instr.ldh a1 a2 a3 a4) := of_word rfl rfl
theorem ldhs (a1 : _) (a2 : _) (a3 : _) (a4 : _) : Statement (Instr.ldhs a1 a2 a3 a4) := of_word rfl rfl
theorem ldw (a1 : _) (a2 : _) (a3 : _) (a4 : _) : Statement (Instr.ldw a1 a2 a3 a4) := of_word rfl rfl
theorem ldws (a1 : _) (a2 : _) (a3 : _) (a4 : _) : Statement (Instr.ldws a1 a2 a3 a4) := of_word rfl rfl
theorem ldd (a1 : _) (a2 : _) (a3 : _) (a4 : _) : Statement (Instr.ldd a1 a2 a3 a4) := of_word rfl rfl
theorem stb (a1 : _) (a2 : _) (a3 : _) (a4 : _) : Statement (Instr.stb a1 a2 a3 a4) := of_word rfl rfl
theorem sth (a1 : _) (a2 : _) (a3 : _) (a4 : _) : Statement (Instr.sth a1 a2 a3 a4) := of_word rfl rfl
theorem stw (a1 : _) (a2 : _) (a3 : _) (a4 : _) : Statement (Instr.stw a1 a2 a3 a4) := of_word rfl rfl
theorem std (a1 : _) (a2 : _) (a3 : _) (a4 : _) : Statement (Instr.std a1 a2 a3 a4) := of_word rfl rfl
theorem ldvEq (a1 : _) (a2 : _) (a3 : _) (a4 : _) : Statement (Instr.ldvEq a1 a2 a3 a4) := of_word rfl rfl
theorem ldvGe (a1 : _) (a2 : _) (a3 : _) (a4 : _) : Statement (Instr.ldvGe a1 a2 a3 a4) := of_word rfl rfl
theorem stv (a1 : _) (a2 : _) (a3 : _) (a4 : _) : Statement (Instr.stv a1 a2 a3 a4) := of_word rfl rfl
theorem stvRsv (a1 : _) (a2 : _) (a3 : _) : Statement (Instr.stvRsv a1 a2 a3) := of_word rfl rfl
theorem rclm (a1 : _) (a2 : _) (a3 : _) (a4 : _) : Statement (Instr.rclm a1 a2 a3 a4) := of_word rfl rfl
theorem amoAdd (a1 : _) (a2 : _) (a3 : _) (a4 : _) (a5 : _) (a6 : _) : Statement (Instr.amoAdd a1 a2 a3 a4 a5 a6) := of_word rfl rfl
theorem amoAnd (a1 : _) (a2 : _) (a3 : _) (a4 : _) (a5 : _) (a6 : _) : Statement (Instr.amoAnd a1 a2 a3 a4 a5 a6) := of_word rfl rfl
theorem amoOr (a1 : _) (a2 : _) (a3 : _) (a4 : _) (a5 : _) (a6 : _) : Statement (Instr.amoOr a1 a2 a3 a4 a5 a6) := of_word rfl rfl
theorem amoXor (a1 : _) (a2 : _) (a3 : _) (a4 : _) (a5 : _) (a6 : _) : Statement (Instr.amoXor a1 a2 a3 a4 a5 a6) := of_word rfl rfl
theorem amoMin (a1 : _) (a2 : _) (a3 : _) (a4 : _) (a5 : _) (a6 : _) : Statement (Instr.amoMin a1 a2 a3 a4 a5 a6) := of_word rfl rfl
theorem amoMax (a1 : _) (a2 : _) (a3 : _) (a4 : _) (a5 : _) (a6 : _) : Statement (Instr.amoMax a1 a2 a3 a4 a5 a6) := of_word rfl rfl
theorem amoMinn (a1 : _) (a2 : _) (a3 : _) (a4 : _) (a5 : _) (a6 : _) : Statement (Instr.amoMinn a1 a2 a3 a4 a5 a6) := of_word rfl rfl
theorem amoMaxn (a1 : _) (a2 : _) (a3 : _) (a4 : _) (a5 : _) (a6 : _) : Statement (Instr.amoMaxn a1 a2 a3 a4 a5 a6) := of_word rfl rfl
theorem amoSwap (a1 : _) (a2 : _) (a3 : _) (a4 : _) (a5 : _) (a6 : _) : Statement (Instr.amoSwap a1 a2 a3 a4 a5 a6) := of_word rfl rfl
theorem amoCas (a1 : _) (a2 : _) (a3 : _) (a4 : _) (a5 : _) (a6 : _) : Statement (Instr.amoCas a1 a2 a3 a4 a5 a6) := of_word rfl rfl
theorem amoTas (a1 : _) (a2 : _) (a3 : _) (a4 : _) (a5 : _) (a6 : _) : Statement (Instr.amoTas a1 a2 a3 a4 a5 a6) := of_word rfl rfl
theorem amoFadd (a1 : _) (a2 : _) (a3 : _) (a4 : _) (a5 : _) (a6 : _) : Statement (Instr.amoFadd a1 a2 a3 a4 a5 a6) := of_word rfl rfl
theorem fncAcq (a1 : _) (a2 : _) : Statement (Instr.fncAcq a1 a2) := of_word rfl rfl
theorem fncRel (a1 : _) (a2 : _) : Statement (Instr.fncRel a1 a2) := of_word rfl rfl
theorem fncAr (a1 : _) (a2 : _) : Statement (Instr.fncAr a1 a2) := of_word rfl rfl
theorem fncSc (a1 : _) (a2 : _) : Statement (Instr.fncSc a1 a2) := of_word rfl rfl
theorem xfncOe (a1 : _) (a2 : _) : Statement (Instr.xfncOe a1 a2) := of_word rfl rfl
theorem xfncEo (a1 : _) (a2 : _) : Statement (Instr.xfncEo a1 a2) := of_word rfl rfl
theorem pref (a1 : _) (a2 : _) (a3 : _) : Statement (Instr.pref a1 a2 a3) := of_word rfl rfl
theorem prefL2 (a1 : _) (a2 : _) (a3 : _) : Statement (Instr.prefL2 a1 a2 a3) := of_word rfl rfl
theorem cfl (a1 : _) (a2 : _) (a3 : _) : Statement (Instr.cfl a1 a2 a3) := of_word rfl rfl
theorem cinv (a1 : _) (a2 : _) (a3 : _) : Statement (Instr.cinv a1 a2 a3) := of_word rfl rfl
theorem hqw (a1 : _) (a2 : _) (a3 : _) : Statement (Instr.hqw a1 a2 a3) := of_word rfl rfl
theorem hqwTry (a1 : _) (a2 : _) (a3 : _) (a4 : _) : Statement (Instr.hqwTry a1 a2 a3 a4) := of_word rfl rfl
theorem hqr (a1 : _) (a2 : _) (a3 : _) : Statement (Instr.hqr a1 a2 a3) := of_word rfl rfl
theorem hqrTry (a1 : _) (a2 : _) (a3 : _) (a4 : _) : Statement (Instr.hqrTry a1 a2 a3 a4) := of_word rfl rfl
theorem cls (a1 : _) : Statement (Instr.cls a1) := of_word rfl rfl
theorem tend : Statement (Instr.tend) := of_word rfl rfl
theorem nop : Statement (Instr.nop) := of_word rfl rfl
theorem csrR (a1 : _) (a2 : _) (a3 : _) : Statement (Instr.csrR a1 a2 a3) := of_word rfl rfl
theorem csrW (a1 : _) (a2 : _) (a3 : _) (a4 : _) : Statement (Instr.csrW a1 a2 a3 a4) := of_word rfl rfl
theorem csrS (a1 : _) (a2 : _) (a3 : _) (a4 : _) : Statement (Instr.csrS a1 a2 a3 a4) := of_word rfl rfl
theorem csrC (a1 : _) (a2 : _) (a3 : _) (a4 : _) : Statement (Instr.csrC a1 a2 a3 a4) := of_word rfl rfl
theorem seedWrite (a1 : _) : Statement (Instr.seedWrite a1) := of_word rfl rfl
theorem trap (a1 : _) (a2 : _) (a3 : _) : Statement (Instr.trap a1 a2 a3) := of_word rfl rfl
theorem wdg (a1 : _) (a2 : _) (a3 : _) : Statement (Instr.wdg a1 a2 a3) := of_word rfl rfl
theorem kilJ (a1 : _) (a2 : _) (a3 : _) : Statement (Instr.kilJ a1 a2 a3) := of_word rfl rfl
theorem kilC (a1 : _) (a2 : _) (a3 : _) : Statement (Instr.kilC a1 a2 a3) := of_word rfl rfl
theorem ctxs (a1 : _) (a2 : _) (a3 : _) : Statement (Instr.ctxs a1 a2 a3) := of_word rfl rfl
theorem ctxr (a1 : _) (a2 : _) (a3 : _) : Statement (Instr.ctxr a1 a2 a3) := of_word rfl rfl
theorem brk (a1 : _) : Statement (Instr.brk a1) := of_word rfl rfl
theorem bar (a1 : _) (a2 : _) (a3 : _) (a4 : _) : Statement (Instr.bar a1 a2 a3 a4) := of_word rfl rfl
theorem phs (a1 : _) (a2 : _) (a3 : _) : Statement (Instr.phs a1 a2 a3) := of_word rfl rfl
theorem phsTo (a1 : _) (a2 : _) (a3 : _) : Statement (Instr.phsTo a1 a2 a3) := of_word rfl rfl
theorem lead (a1 : _) (a2 : _) : Statement (Instr.lead a1 a2) := of_word rfl rfl
theorem dep (a1 : _) (a2 : _) (a3 : _) (a4 : _) : Statement (Instr.dep a1 a2 a3 a4) := of_word rfl rfl
theorem jsub (a1 : _) (a2 : _) (a3 : _) : Statement (Instr.jsub a1 a2 a3) := of_word rfl rfl
theorem tbnd (a1 : _) (a2 : _) (a3 : _) : Statement (Instr.tbnd a1 a2 a3) := of_word rfl rfl
theorem tbndU (a1 : _) (a2 : _) : Statement (Instr.tbndU a1 a2) := of_word rfl rfl
theorem dmd (a1 : _) (a2 : _) (a3 : _) (a4 : _) (a5 : _) (a6 : _) : Statement (Instr.dmd a1 a2 a3 a4 a5 a6) := of_word rfl rfl
theorem drg (a1 : _) (a2 : _) (a3 : _) : Statement (Instr.drg a1 a2 a3) := of_word rfl rfl
theorem drt (a1 : _) (a2 : _) (a3 : _) : Statement (Instr.drt a1 a2 a3) := of_word rfl rfl
theorem dcut (a1 : _) (a2 : _) (a3 : _) : Statement (Instr.dcut a1 a2 a3) := of_word rfl rfl
theorem dcad (a1 : _) (a2 : _) (a3 : _) (a4 : _) : Statement (Instr.dcad a1 a2 a3 a4) := of_word rfl rfl
theorem dcan (a1 : _) (a2 : _) (a3 : _) (a4 : _) : Statement (Instr.dcan a1 a2 a3 a4) := of_word rfl rfl
theorem vadd (a1 : _) : Statement (Instr.vadd a1) := of_cmd rfl rfl
theorem vsub (a1 : _) : Statement (Instr.vsub a1) := of_cmd rfl rfl
theorem vmul (a1 : _) : Statement (Instr.vmul a1) := of_cmd rfl rfl
theorem vfma (a1 : _) : Statement (Instr.vfma a1) := of_cmd rfl rfl
theorem vfms (a1 : _) : Statement (Instr.vfms a1) := of_cmd rfl rfl
theorem vmin (a1 : _) : Statement (Instr.vmin a1) := of_cmd rfl rfl
theorem vmax (a1 : _) : Statement (Instr.vmax a1) := of_cmd rfl rfl
theorem vabs (a1 : _) : Statement (Instr.vabs a1) := of_cmd rfl rfl
theorem vneg (a1 : _) : Statement (Instr.vneg a1) := of_cmd rfl rfl
theorem vclamp (a1 : _) : Statement (Instr.vclamp a1) := of_cmd rfl rfl
theorem vand (a1 : _) : Statement (Instr.vand a1) := of_cmd rfl rfl
theorem vor (a1 : _) : Statement (Instr.vor a1) := of_cmd rfl rfl
theorem vxor (a1 : _) : Statement (Instr.vxor a1) := of_cmd rfl rfl
theorem vnot (a1 : _) : Statement (Instr.vnot a1) := of_cmd rfl rfl
theorem vshl (a1 : _) : Statement (Instr.vshl a1) := of_cmd rfl rfl
theorem vshr (a1 : _) : Statement (Instr.vshr a1) := of_cmd rfl rfl
theorem vsra (a1 : _) : Statement (Instr.vsra a1) := of_cmd rfl rfl
theorem vcmp (a1 : _) : Statement (Instr.vcmp a1) := of_cmd rfl rfl
theorem vsel (a1 : _) : Statement (Instr.vsel a1) := of_cmd rfl rfl
theorem vmov (a1 : _) : Statement (Instr.vmov a1) := of_cmd rfl rfl
theorem vbcast (a1 : _) : Statement (Instr.vbcast a1) := of_cmd rfl rfl
theorem vperm (a1 : _) : Statement (Instr.vperm a1) := of_cmd rfl rfl
theorem vshf (a1 : _) : Statement (Instr.vshf a1) := of_cmd rfl rfl
theorem vrcp (a1 : _) : Statement (Instr.vrcp a1) := of_cmd rfl rfl
theorem vrsq (a1 : _) : Statement (Instr.vrsq a1) := of_cmd rfl rfl
theorem vsqrt (a1 : _) : Statement (Instr.vsqrt a1) := of_cmd rfl rfl
theorem vexp2 (a1 : _) : Statement (Instr.vexp2 a1) := of_cmd rfl rfl
theorem vlog2 (a1 : _) : Statement (Instr.vlog2 a1) := of_cmd rfl rfl
theorem vtanh (a1 : _) : Statement (Instr.vtanh a1) := of_cmd rfl rfl
theorem vsgm (a1 : _) : Statement (Instr.vsgm a1) := of_cmd rfl rfl
theorem vsin (a1 : _) : Statement (Instr.vsin a1) := of_cmd rfl rfl
theorem vred (a1 : _) : Statement (Instr.vred a1) := of_cmd rfl rfl
theorem vacc (a1 : _) : Statement (Instr.vacc a1) := of_cmd rfl rfl
theorem vdrn (a1 : _) : Statement (Instr.vdrn a1) := of_cmd rfl rfl
theorem vscan (a1 : _) : Statement (Instr.vscan a1) := of_cmd rfl rfl
theorem vstr (a1 : _) : Statement (Instr.vstr a1) := of_cmd rfl rfl
theorem vmrg (a1 : _) : Statement (Instr.vmrg a1) := of_cmd rfl rfl
theorem vcar (a1 : _) : Statement (Instr.vcar a1) := of_cmd rfl rfl
theorem vjoin (a1 : _) : Statement (Instr.vjoin a1) := of_cmd rfl rfl
theorem vcfg (a1 : _) : Statement (Instr.vcfg a1) := of_cmd rfl rfl
theorem vrun (a1 : _) : Statement (Instr.vrun a1) := of_cmd rfl rfl
theorem cvt (a1 : _) : Statement (Instr.cvt a1) := of_cmd rfl rfl
theorem cvtSat (a1 : _) : Statement (Instr.cvtSat a1) := of_cmd rfl rfl
theorem qblk (a1 : _) : Statement (Instr.qblk a1) := of_cmd rfl rfl
theorem dqblk (a1 : _) : Statement (Instr.dqblk a1) := of_cmd rfl rfl
theorem pack6 (a1 : _) : Statement (Instr.pack6 a1) := of_cmd rfl rfl
theorem unpk6 (a1 : _) : Statement (Instr.unpk6 a1) := of_cmd rfl rfl
theorem falFill (a1 : _) : Statement (Instr.falFill a1) := of_cmd rfl rfl
theorem falTest (a1 : _) : Statement (Instr.falTest a1) := of_cmd rfl rfl
theorem tagSet (a1 : _) : Statement (Instr.tagSet a1) := of_cmd rfl rfl
theorem mls (a1 : _) : Statement (Instr.mls a1) := of_cmd rfl rfl
theorem mswp (a1 : _) : Statement (Instr.mswp a1) := of_cmd rfl rfl
theorem mst (a1 : _) : Statement (Instr.mst a1) := of_cmd rfl rfl
theorem msc (a1 : _) : Statement (Instr.msc a1) := of_cmd rfl rfl
theorem mnm (a1 : _) : Statement (Instr.mnm a1) := of_cmd rfl rfl
theorem mintDot (a1 : _) : Statement (Instr.mintDot a1) := of_cmd rfl rfl
theorem mdr (a1 : _) : Statement (Instr.mdr a1) := of_cmd rfl rfl
theorem mclr (a1 : _) : Statement (Instr.mclr a1) := of_cmd rfl rfl
theorem mintCnt (a1 : _) : Statement (Instr.mintCnt a1) := of_cmd rfl rfl
theorem mintScan (a1 : _) : Statement (Instr.mintScan a1) := of_cmd rfl rfl
theorem vld (a1 : _) : Statement (Instr.vld a1) := of_cmd rfl rfl
theorem vst (a1 : _) : Statement (Instr.vst a1) := of_cmd rfl rfl
theorem tld (a1 : _) : Statement (Instr.tld a1) := of_cmd rfl rfl
theorem tst (a1 : _) : Statement (Instr.tst a1) := of_cmd rfl rfl
theorem sbld (a1 : _) : Statement (Instr.sbld a1) := of_cmd rfl rfl
theorem sbst (a1 : _) : Statement (Instr.sbst a1) := of_cmd rfl rfl
theorem sbclr (a1 : _) : Statement (Instr.sbclr a1) := of_cmd rfl rfl
theorem vamo (a1 : _) : Statement (Instr.vamo a1) := of_cmd rfl rfl
theorem cpy (a1 : _) : Statement (Instr.cpy a1) := of_cmd rfl rfl
theorem cpym (a1 : _) (a2 : _) : Statement (Instr.cpym a1 a2) := of_cmd rfl rfl
theorem mcst (a1 : _) : Statement (Instr.mcst a1) := of_cmd rfl rfl
theorem gath (a1 : _) : Statement (Instr.gath a1) := of_cmd rfl rfl
theorem scat (a1 : _) : Statement (Instr.scat a1) := of_cmd rfl rfl
theorem agc (a1 : _) : Statement (Instr.agc a1) := of_cmd rfl rfl
theorem seg (a1 : _) : Statement (Instr.seg a1) := of_cmd rfl rfl
theorem walk (a1 : _) : Statement (Instr.walk a1) := of_cmd rfl rfl
theorem gld (a1 : _) : Statement (Instr.gld a1) := of_cmd rfl rfl
theorem gsh (a1 : _) : Statement (Instr.gsh a1) := of_cmd rfl rfl
theorem grot (a1 : _) : Statement (Instr.grot a1) := of_cmd rfl rfl
theorem gdep (a1 : _) : Statement (Instr.gdep a1) := of_cmd rfl rfl
theorem gstr (a1 : _) : Statement (Instr.gstr a1) := of_cmd rfl rfl
theorem gstp (a1 : _) : Statement (Instr.gstp a1) := of_cmd rfl rfl
theorem gsw (a1 : _) : Statement (Instr.gsw a1) := of_cmd rfl rfl
theorem wkLdk (a1 : _) (a2 : _) : Statement (Instr.wkLdk a1 a2) := ⟨fun h => absurd rfl h, fun _ => rfl⟩
theorem wkLdw (a1 : _) (a2 : _) (a3 : _) : Statement (Instr.wkLdw a1 a2 a3) := ⟨fun h => absurd rfl h, fun _ => rfl⟩
theorem wkHash (a1 : _) (a2 : _) (a3 : _) : Statement (Instr.wkHash a1 a2 a3) := ⟨fun h => absurd rfl h, fun _ => rfl⟩
theorem wkIdx (a1 : _) (a2 : _) (a3 : _) (a4 : _) : Statement (Instr.wkIdx a1 a2 a3 a4) := ⟨fun h => absurd rfl h, fun _ => rfl⟩
theorem wkCmp (a1 : _) (a2 : _) : Statement (Instr.wkCmp a1 a2) := ⟨fun h => absurd rfl h, fun _ => rfl⟩
theorem wkEq (a1 : _) (a2 : _) (a3 : _) : Statement (Instr.wkEq a1 a2 a3) := ⟨fun h => absurd rfl h, fun _ => rfl⟩
theorem wkLr (a1 : _) (a2 : _) (a3 : _) (a4 : _) : Statement (Instr.wkLr a1 a2 a3 a4) := ⟨fun h => absurd rfl h, fun _ => rfl⟩
theorem wkNxt (a1 : _) (a2 : _) (a3 : _) : Statement (Instr.wkNxt a1 a2 a3) := ⟨fun h => absurd rfl h, fun _ => rfl⟩
theorem wkAddImm (a1 : _) (a2 : _) (a3 : _) : Statement (Instr.wkAddImm a1 a2 a3) := ⟨fun h => absurd rfl h, fun _ => rfl⟩
theorem wkAddReg (a1 : _) (a2 : _) (a3 : _) : Statement (Instr.wkAddReg a1 a2 a3) := ⟨fun h => absurd rfl h, fun _ => rfl⟩
theorem wkAndImm (a1 : _) (a2 : _) (a3 : _) : Statement (Instr.wkAndImm a1 a2 a3) := ⟨fun h => absurd rfl h, fun _ => rfl⟩
theorem wkAndReg (a1 : _) (a2 : _) (a3 : _) : Statement (Instr.wkAndReg a1 a2 a3) := ⟨fun h => absurd rfl h, fun _ => rfl⟩
theorem wkChk (a1 : _) (a2 : _) : Statement (Instr.wkChk a1 a2) := ⟨fun h => absurd rfl h, fun _ => rfl⟩
theorem wkJmp (a1 : _) (a2 : _) : Statement (Instr.wkJmp a1 a2) := ⟨fun h => absurd rfl h, fun _ => rfl⟩
theorem wkSkip (a1 : _) : Statement (Instr.wkSkip a1) := ⟨fun h => absurd rfl h, fun _ => rfl⟩
theorem wkEmit (a1 : _) (a2 : _) (a3 : _) : Statement (Instr.wkEmit a1 a2 a3) := ⟨fun h => absurd rfl h, fun _ => rfl⟩
theorem wkMiss : Statement (Instr.wkMiss) := ⟨fun h => absurd rfl h, fun _ => rfl⟩
theorem ringConsumedWrite (a1 : _) : Statement (Instr.ringConsumedWrite a1) := of_word rfl rfl
theorem queueDoorbellWrite (a1 : _) (a2 : _) : Statement (Instr.queueDoorbellWrite a1 a2) := of_word rfl rfl
theorem hdmRead (a1 : _) (a2 : _) : Statement (Instr.hdmRead a1 a2) := of_word rfl rfl
theorem hdmWrite (a1 : _) (a2 : _) : Statement (Instr.hdmWrite a1 a2) := of_word rfl rfl
theorem hostSnoop (a1 : _) : Statement (Instr.hostSnoop a1) := of_word rfl rfl
theorem spdmRequest (a1 : _) : Statement (Instr.spdmRequest a1) := of_word rfl rfl
theorem peerLinkFailure (a1 : _) : Statement (Instr.peerLinkFailure a1) := of_word rfl rfl
theorem illegalEncoding (a1 : _) : Statement (Instr.illegalEncoding a1) := of_word rfl rfl
theorem wkUnassignedRule (a1 : _) : Statement (Instr.wkUnassignedRule a1) := ⟨fun h => absurd rfl h, fun _ => rfl⟩
theorem mailboxUnknownOpcode (a1 : _) : Statement (Instr.mailboxUnknownOpcode a1) := of_word rfl rfl
theorem hostLinkTraining (a1 : _) (a2 : _) : Statement (Instr.hostLinkTraining a1 a2) := of_word rfl rfl
theorem slotSelect : Statement (Instr.slotSelect) := of_word rfl rfl
theorem taskStart : Statement (Instr.taskStart) := of_word rfl rfl
theorem slotUnblock : Statement (Instr.slotUnblock) := of_word rfl rfl
theorem portAccept : Statement (Instr.portAccept) := of_word rfl rfl
theorem clauseCommandEnqueue : Statement (Instr.clauseCommandEnqueue) := of_word rfl rfl
theorem pageWalkDone : Statement (Instr.pageWalkDone) := of_word rfl rfl
theorem lateFault : Statement (Instr.lateFault) := of_word rfl rfl
theorem loadComplete : Statement (Instr.loadComplete) := of_word rfl rfl
theorem accessPerform : Statement (Instr.accessPerform) := of_word rfl rfl
theorem stvHomeWrite : Statement (Instr.stvHomeWrite) := of_word rfl rfl
theorem versionTimeout : Statement (Instr.versionTimeout) := of_word rfl rfl
theorem ldvComplete : Statement (Instr.ldvComplete) := of_word rfl rfl
theorem fenceComplete : Statement (Instr.fenceComplete) := of_word rfl rfl
theorem atomicAtNode : Statement (Instr.atomicAtNode) := of_word rfl rfl
theorem hqNotify : Statement (Instr.hqNotify) := of_word rfl rfl
theorem laneStageResult : Statement (Instr.laneStageResult) := of_word rfl rfl
theorem elementFire : Statement (Instr.elementFire) := of_word rfl rfl
theorem steerRoute : Statement (Instr.steerRoute) := of_word rfl rfl
theorem mergeTake : Statement (Instr.mergeTake) := of_word rfl rfl
theorem carryTake : Statement (Instr.carryTake) := of_word rfl rfl
theorem vrunEnd : Statement (Instr.vrunEnd) := of_word rfl rfl
theorem mlsLoaded : Statement (Instr.mlsLoaded) := of_word rfl rfl
theorem zRowLand : Statement (Instr.zRowLand) := of_word rfl rfl
theorem pairStageArrive : Statement (Instr.pairStageArrive) := of_word rfl rfl
theorem pairTimeout : Statement (Instr.pairTimeout) := of_word rfl rfl
theorem balanceDispatch : Statement (Instr.balanceDispatch) := of_word rfl rfl
theorem balanceSteal : Statement (Instr.balanceSteal) := of_word rfl rfl
theorem balanceTrigger : Statement (Instr.balanceTrigger) := of_word rfl rfl
theorem copyStart : Statement (Instr.copyStart) := of_word rfl rfl
theorem copyFlitDeliver : Statement (Instr.copyFlitDeliver) := of_word rfl rfl
theorem copyEndOfTile : Statement (Instr.copyEndOfTile) := of_word rfl rfl
theorem copyReply : Statement (Instr.copyReply) := of_word rfl rfl
theorem templateCopy : Statement (Instr.templateCopy) := of_word rfl rfl
theorem cpymFollowOn : Statement (Instr.cpymFollowOn) := of_word rfl rfl
theorem mcstFlitAccept : Statement (Instr.mcstFlitAccept) := of_word rfl rfl
theorem agValueReturn : Statement (Instr.agValueReturn) := of_word rfl rfl
theorem engineFault : Statement (Instr.engineFault) := of_word rfl rfl
theorem walkDequeue : Statement (Instr.walkDequeue) := of_word rfl rfl
theorem walkMemoryRead : Statement (Instr.walkMemoryRead) := of_word rfl rfl
theorem walkHandoff : Statement (Instr.walkHandoff) := of_word rfl rfl
theorem walkReply : Statement (Instr.walkReply) := of_word rfl rfl
theorem fallowKeyReply : Statement (Instr.fallowKeyReply) := of_word rfl rfl
theorem flitSend : Statement (Instr.flitSend) := of_word rfl rfl
theorem streamBufferLanding : Statement (Instr.streamBufferLanding) := of_word rfl rfl
theorem graftForward : Statement (Instr.graftForward) := of_word rfl rfl
theorem shadowLoaded : Statement (Instr.shadowLoaded) := of_word rfl rfl
theorem rotSwap : Statement (Instr.rotSwap) := of_word rfl rfl
theorem graphStopped : Statement (Instr.graphStopped) := of_word rfl rfl
theorem demandInsert : Statement (Instr.demandInsert) := of_word rfl rfl
theorem portServe : Statement (Instr.portServe) := of_word rfl rfl
theorem sourcePost : Statement (Instr.sourcePost) := of_word rfl rfl
theorem cuttingWrite : Statement (Instr.cuttingWrite) := of_word rfl rfl
theorem sinkEotAccept : Statement (Instr.sinkEotAccept) := of_word rfl rfl
theorem cancelFlit : Statement (Instr.cancelFlit) := of_word rfl rfl
theorem jobAdmit : Statement (Instr.jobAdmit) := of_word rfl rfl
theorem conditionReeval : Statement (Instr.conditionReeval) := of_word rfl rfl
theorem presenceReport : Statement (Instr.presenceReport) := of_word rfl rfl
theorem jobSelect : Statement (Instr.jobSelect) := of_word rfl rfl
theorem triggerDeliver : Statement (Instr.triggerDeliver) := of_word rfl rfl
theorem jobComplete : Statement (Instr.jobComplete) := of_word rfl rfl
theorem barrierComplete : Statement (Instr.barrierComplete) := of_word rfl rfl
theorem faultRecordWrite : Statement (Instr.faultRecordWrite) := of_word rfl rfl
theorem watchdogExpiry : Statement (Instr.watchdogExpiry) := of_word rfl rfl
theorem saveLimitExpiry : Statement (Instr.saveLimitExpiry) := of_word rfl rfl
theorem ownClaim : Statement (Instr.ownClaim) := of_word rfl rfl
theorem ownGive : Statement (Instr.ownGive) := of_word rfl rfl
theorem ownQuery : Statement (Instr.ownQuery) := of_word rfl rfl
theorem lifecycle : Statement (Instr.lifecycle) := of_word rfl rfl
theorem keys : Statement (Instr.keys) := of_word rfl rfl
theorem wipe : Statement (Instr.wipe) := of_word rfl rfl
theorem measure : Statement (Instr.measure) := of_word rfl rfl
theorem telemetry : Statement (Instr.telemetry) := of_word rfl rfl
theorem quotaSet : Statement (Instr.quotaSet) := of_word rfl rfl
theorem queueMap : Statement (Instr.queueMap) := of_word rfl rfl
theorem ctxCreate : Statement (Instr.ctxCreate) := of_word rfl rfl
theorem ctxSave : Statement (Instr.ctxSave) := of_word rfl rfl
theorem ctxRestore : Statement (Instr.ctxRestore) := of_word rfl rfl
theorem ctxKill : Statement (Instr.ctxKill) := of_word rfl rfl
theorem ctxResume : Statement (Instr.ctxResume) := of_word rfl rfl
theorem ptWrite : Statement (Instr.ptWrite) := of_word rfl rfl
theorem imgVerify : Statement (Instr.imgVerify) := of_word rfl rfl
theorem launch : Statement (Instr.launch) := of_word rfl rfl
theorem jobSubmit : Statement (Instr.jobSubmit) := of_word rfl rfl
theorem demand : Statement (Instr.demand) := of_word rfl rfl
theorem dieMode : Statement (Instr.dieMode) := of_word rfl rfl
theorem peerCfg : Statement (Instr.peerCfg) := of_word rfl rfl
theorem reset : Statement (Instr.reset) := of_word rfl rfl
theorem thermalThrottle : Statement (Instr.thermalThrottle) := of_word rfl rfl
theorem thermalShutdown : Statement (Instr.thermalShutdown) := of_word rfl rfl
theorem wipeEnd : Statement (Instr.wipeEnd) := of_word rfl rfl
theorem powerStateChangeEnd : Statement (Instr.powerStateChangeEnd) := of_word rfl rfl
theorem thermalRecovery : Statement (Instr.thermalRecovery) := of_word rfl rfl
theorem activeWordsFetched : Statement (Instr.activeWordsFetched) := of_word rfl rfl

end Sys2Proof.Laws.OneForm
end

