-- ==== Sys2Proof/Tests/Slice0.lean ====
section
/-! SUPPORT. The model's own tests. Decoding: words written out from the spec's encodings. Well-formedness: an ill-formed term for each check. Then
small states, on which the witness of each statement meets its hypotheses, and one step of an instruction gives what its rule says. -/
namespace Sys2Proof.Tests
open Sys2Proof.Machine
-- one theorem after the other: hundreds of kernel evaluations at once would each hold a thread
set_option Elab.async false

/-! ### Decoding: words from the opcode table's fixed bits and fields (R36, R253), commands from R38, R46 and the opcode tables of the classes -/

theorem test_decode_word0 :
    decodeScalar 0x066A8006 = .add 19 10 16 6 ∧
    decodeScalar 0x066A800E = .sub 19 10 16 6 ∧
    decodeScalar 0x066A8016 = .and 19 10 16 6 ∧
    decodeScalar 0x066A801E = .or 19 10 16 6 ∧
    decodeScalar 0x066A8026 = .xor 19 10 16 6 ∧
    decodeScalar 0x066A802E = .andn 19 10 16 6 ∧
    decodeScalar 0x066A8036 = .sll 19 10 16 6 ∧
    decodeScalar 0x066A803E = .srl 19 10 16 6 ∧
    decodeScalar 0x066A8046 = .sra 19 10 16 6 ∧
    decodeScalar 0x066A804E = .rol 19 10 16 6 ∧
    decodeScalar 0x066A8056 = .mul 19 10 16 6 ∧
    decodeScalar 0x066A805E = .mulh 19 10 16 6 := by decide

theorem test_decode_word1 :
    decodeScalar 0x066A8066 = .mulhn 19 10 16 6 ∧
    decodeScalar 0x066A806E = .div 19 10 16 6 ∧
    decodeScalar 0x066A8076 = .divn 19 10 16 6 ∧
    decodeScalar 0x066A807E = .rem 19 10 16 6 ∧
    decodeScalar 0x066A8086 = .remn 19 10 16 6 ∧
    decodeScalar 0x066A808E = .min 19 10 16 6 ∧
    decodeScalar 0x066A8096 = .minn 19 10 16 6 ∧
    decodeScalar 0x066A809E = .max 19 10 16 6 ∧
    decodeScalar 0x066A80A6 = .maxn 19 10 16 6 ∧
    decodeScalar 0x066A80AE = .slt 19 10 16 6 ∧
    decodeScalar 0x066A80B6 = .sltn 19 10 16 6 ∧
    decodeScalar 0x066A00BE = .clz 19 10 6 := by decide

theorem test_decode_word2 :
    decodeScalar 0x066A00C6 = .ctz 19 10 6 ∧
    decodeScalar 0x066A00CE = .popc 19 10 6 ∧
    decodeScalar 0x0A6AAABE = .addi 19 10 5463 6 ∧
    decodeScalar 0x0E6AAABE = .andi 19 10 5463 6 ∧
    decodeScalar 0x126AAABE = .ori 19 10 5463 6 ∧
    decodeScalar 0x166AAABE = .xori 19 10 5463 6 ∧
    decodeScalar 0x1A6AAABE = .slti 19 10 5463 6 ∧
    decodeScalar 0x1E6AAABE = .sltni 19 10 5463 6 ∧
    decodeScalar 0x226A01BE = .slli 19 10 55 6 ∧
    decodeScalar 0x226A21BE = .srli 19 10 55 6 ∧
    decodeScalar 0x226A41BE = .srai 19 10 55 6 ∧
    decodeScalar 0x226A61BE = .roli 19 10 55 6 := by decide

theorem test_decode_word3 :
    decodeScalar 0x26755557 = .lui 19 1398103 ∧
    decodeScalar 0x2A755557 = .pcai 19 1398103 ∧
    decodeScalar 0x2E6A3076 = .bfx 19 10 12 7 6 ∧
    decodeScalar 0x2E6A03FE = .bfxS 19 10 0 63 6 ∧
    decodeScalar 0x326AFC06 = .bfi 19 10 63 0 6 ∧
    decodeScalar 0x366A802E = .sel 19 10 16 5 6 ∧
    decodeScalar 0x38B35006 = .pcmpEq 5 19 10 6 ∧
    decodeScalar 0x38B3500E = .pcmpNe 5 19 10 6 ∧
    decodeScalar 0x38B35016 = .pcmpLt 5 19 10 6 ∧
    decodeScalar 0x38B3501E = .pcmpGe 5 19 10 6 ∧
    decodeScalar 0x38B35026 = .pcmpLtn 5 19 10 6 ∧
    decodeScalar 0x38B3502E = .pcmpGen 5 19 10 6 := by decide

theorem test_decode_word4 :
    decodeScalar 0x3CA6187E = .plog 5 6 3 15 6 ∧
    decodeScalar 0x426A1557 = .bEq 19 10 5463 ∧
    decodeScalar 0x426A3557 = .bNe 19 10 5463 ∧
    decodeScalar 0x426A5557 = .bLt 19 10 5463 ∧
    decodeScalar 0x426A7557 = .bGe 19 10 5463 ∧
    decodeScalar 0x426A9557 = .bLtn 19 10 5463 ∧
    decodeScalar 0x426AB557 = .bGen 19 10 5463 ∧
    decodeScalar 0x44A01557 = .bpT 5 5463 ∧
    decodeScalar 0x44A03557 = .bpF 5 5463 ∧
    decodeScalar 0x4A755557 = .jal 19 1398103 ∧
    decodeScalar 0x4E6AAABE = .jalr 19 10 5463 6 ∧
    decodeScalar 0x526A1ABE = .ldb 19 10 855 6 := by decide

theorem test_decode_word5 :
    decodeScalar 0x526A3ABE = .ldbs 19 10 855 6 ∧
    decodeScalar 0x526A5ABE = .ldh 19 10 855 6 ∧
    decodeScalar 0x526A7ABE = .ldhs 19 10 855 6 ∧
    decodeScalar 0x526A9ABE = .ldw 19 10 855 6 ∧
    decodeScalar 0x526ABABE = .ldws 19 10 855 6 ∧
    decodeScalar 0x526ADABE = .ldd 19 10 855 6 ∧
    decodeScalar 0x566A1ABE = .stb 19 10 855 6 ∧
    decodeScalar 0x566A3ABE = .sth 19 10 855 6 ∧
    decodeScalar 0x566A5ABE = .stw 19 10 855 6 ∧
    decodeScalar 0x566A7ABE = .std 19 10 855 6 ∧
    decodeScalar 0x5A6A8006 = .ldvEq 19 10 16 6 ∧
    decodeScalar 0x5A6A800E = .ldvGe 19 10 16 6 := by decide

theorem test_decode_word6 :
    decodeScalar 0x5E6A8006 = .stv 19 10 16 6 ∧
    decodeScalar 0x5C13500E = .stvRsv 19 10 6 ∧
    decodeScalar 0x626A8006 = .rclm 19 10 16 6 ∧
    decodeScalar 0x666A807E = .amoAdd 19 10 16 3 3 6 ∧
    decodeScalar 0x666A80FE = .amoAnd 19 10 16 3 3 6 ∧
    decodeScalar 0x666A817E = .amoOr 19 10 16 3 3 6 ∧
    decodeScalar 0x666A81FE = .amoXor 19 10 16 3 3 6 ∧
    decodeScalar 0x666A827E = .amoMin 19 10 16 3 3 6 ∧
    decodeScalar 0x666A82FE = .amoMax 19 10 16 3 3 6 ∧
    decodeScalar 0x666A837E = .amoMinn 19 10 16 3 3 6 ∧
    decodeScalar 0x666A83FE = .amoMaxn 19 10 16 3 3 6 ∧
    decodeScalar 0x666A847E = .amoSwap 19 10 16 3 3 6 := by decide

theorem test_decode_word7 :
    decodeScalar 0x666A84FE = .amoCas 19 10 16 3 3 6 ∧
    decodeScalar 0x666A857E = .amoTas 19 10 16 3 3 6 ∧
    decodeScalar 0x666A85BE = .amoFadd 19 10 16 1 3 6 ∧
    decodeScalar 0x68002C06 = .fncAcq 11 6 ∧
    decodeScalar 0x68006C06 = .fncRel 11 6 ∧
    decodeScalar 0x6800AC06 = .fncAr 11 6 ∧
    decodeScalar 0x6800EC06 = .fncSc 11 6 ∧
    decodeScalar 0x6C002C06 = .xfncOe 11 6 ∧
    decodeScalar 0x6C00AC06 = .xfncEo 11 6 ∧
    decodeScalar 0x70131ABE = .pref 19 855 6 ∧
    decodeScalar 0x70133ABE = .prefL2 19 855 6 ∧
    decodeScalar 0x70135ABE = .cfl 19 855 6 := by decide

theorem test_decode_word8 :
    decodeScalar 0x70139ABE = .cinv 19 855 6 ∧
    decodeScalar 0x766A0006 = .hqw 19 10 6 ∧
    decodeScalar 0x766A6806 = .hqwTry 19 10 5 6 ∧
    decodeScalar 0x766A8006 = .hqr 19 10 6 ∧
    decodeScalar 0x766AE806 = .hqrTry 19 10 5 6 ∧
    decodeScalar 0x8000000F = .cls 15 ∧
    decodeScalar 0x84000000 = .tend ∧
    decodeScalar 0x88000000 = .nop ∧
    decodeScalar 0x8E60014E = .csrR 19 41 6 ∧
    decodeScalar 0x8E6A414E = .csrW 19 10 41 6 ∧
    decodeScalar 0x8E6A814E = .csrS 19 10 41 6 ∧
    decodeScalar 0x8E6AC14E = .csrC 19 10 41 6 := by decide

theorem test_decode_word9 :
    decodeScalar 0x90131ABE = .trap 19 855 6 ∧
    decodeScalar 0x926A2006 = .wdg 19 10 6 ∧
    decodeScalar 0x926A4006 = .kilJ 19 10 6 ∧
    decodeScalar 0x926A5006 = .kilC 19 10 6 ∧
    decodeScalar 0x926A6006 = .ctxs 19 10 6 ∧
    decodeScalar 0x926A8006 = .ctxr 19 10 6 ∧
    decodeScalar 0x9400D557 = .brk 54615 ∧
    decodeScalar 0x9813FC06 = .bar 19 15 3 6 ∧
    decodeScalar 0x9E601ABE = .phs 19 855 6 ∧
    decodeScalar 0x9E6A2006 = .phsTo 19 10 6 ∧
    decodeScalar 0x9C0046BE = .lead 215 6 ∧
    decodeScalar 0x9E6AA806 = .dep 19 10 5 6 := by decide

theorem test_decode_word10 :
    decodeScalar 0xA26A0006 = .jsub 19 10 6 ∧
    decodeScalar 0xA66A0006 = .tbnd 19 10 6 ∧
    decodeScalar 0xA400F806 = .tbndU 15 6 ∧
    decodeScalar 0xAA6A80FE = .dmd 19 10 16 1 15 6 ∧
    decodeScalar 0xAE6A0006 = .drg 19 10 6 ∧
    decodeScalar 0xAE6A000E = .drt 19 10 6 ∧
    decodeScalar 0xAE6A0016 = .dcut 19 10 6 ∧
    decodeScalar 0xAE6A801E = .dcad 19 10 16 6 ∧
    decodeScalar 0xAE6A8026 = .dcan 19 10 16 6 := by decide

theorem test_decode_rule0 :
    decodeRule 0x05000003 = .wkLdk 5 3 ∧
    decodeRule 0x0DC35557 = .wkLdw 5 6 218455 ∧
    decodeRule 0x15C00037 = .wkHash 5 6 55 ∧
    decodeRule 0x1DCC0037 = .wkIdx 5 6 3 55 ∧
    decodeRule 0x20B80000 = .wkCmp 5 6 ∧
    decodeRule 0x28B800D7 = .wkEq 5 6 215 ∧
    decodeRule 0x35C2AF57 = .wkLr 5 6 343 343 ∧
    decodeRule 0x3DC35557 = .wkNxt 5 6 218455 ∧
    decodeRule 0x45C15557 = .wkAddImm 5 6 87383 := by decide

theorem test_decode_rule1 :
    decodeRule 0x45CE0000 = .wkAddReg 5 6 3 ∧
    decodeRule 0x4DC15557 = .wkAndImm 5 6 87383 ∧
    decodeRule 0x4DCE0000 = .wkAndReg 5 6 3 ∧
    decodeRule 0x50B80000 = .wkChk 5 6 ∧
    decodeRule 0x5800013F = .wkJmp 19 15 ∧
    decodeRule 0x6000000F = .wkSkip 15 ∧
    decodeRule 0x68A35557 = .wkEmit 5 6 21847 ∧
    decodeRule 0x70000000 = .wkMiss := by decide

theorem test_decode_command0 :
    decodeCommand 0xFC00280261340010002000300001000A 0xABCD =
      .vadd { ga := 5, gb := 0, comb := 0, hint := 0, chain := 1, yield := 0, stall := 6, tag := 2, eh := 3, ew := 2, s1 := 0x8, s2 := 0x10, s3 := 0x18, s4 := 0x0, s5 := 0x8005 } ∧
    decodeCommand 0xFC006BC360B400100020801200010000 0xABCD =
      .vsub { ga := 5, gb := 3, comb := 3, hint := 0, chain := 1, yield := 1, stall := 6, tag := 1, eh := 3, ew := 2, s1 := 0x8, s2 := 0x10, s3 := 0x4009, s4 := 0x0, s5 := 0x8000 } ∧
    decodeCommand 0xFC00A80261B4001000217FFE00010004 0xABCD =
      .vmul { ga := 5, gb := 0, comb := 0, hint := 0, chain := 1, yield := 0, stall := 6, tag := 3, eh := 3, ew := 2, s1 := 0x8, s2 := 0x10, s3 := 0xBFFF, s4 := 0x0, s5 := 0x8002 } ∧
    decodeCommand 0xFC00EBC360B400100020003000410002 0xABCD =
      .vfma { ga := 5, gb := 3, comb := 3, hint := 0, chain := 1, yield := 1, stall := 6, tag := 1, eh := 3, ew := 2, s1 := 0x8, s2 := 0x10, s3 := 0x18, s4 := 0x20, s5 := 0x8001 } ∧
    decodeCommand 0xFC01280261B4001000208007000F0006 0xABCD =
      .vfms { ga := 5, gb := 0, comb := 0, hint := 0, chain := 1, yield := 0, stall := 6, tag := 3, eh := 3, ew := 2, s1 := 0x8, s2 := 0x10, s3 := 0x4003, s4 := 0x8007, s5 := 0x8003 } ∧
    decodeCommand 0xFC016BC3643400100020003000010010 0xABCD =
      .vmin { ga := 5, gb := 3, comb := 3, hint := 0, chain := 1, yield := 1, stall := 6, tag := 8, eh := 3, ew := 2, s1 := 0x8, s2 := 0x10, s3 := 0x18, s4 := 0x0, s5 := 0x8008 } := by decide

theorem test_decode_command1 :
    decodeCommand 0xFC01A80264B400100020003000010000 0xABCD =
      .vmax { ga := 5, gb := 0, comb := 0, hint := 0, chain := 1, yield := 0, stall := 6, tag := 9, eh := 3, ew := 2, s1 := 0x8, s2 := 0x10, s3 := 0x18, s4 := 0x0, s5 := 0x8000 } ∧
    decodeCommand 0xFC01EBC3613400100020000000010000 0xABCD =
      .vabs { ga := 5, gb := 3, comb := 3, hint := 0, chain := 1, yield := 1, stall := 6, tag := 2, eh := 3, ew := 2, s1 := 0x8, s2 := 0x10, s3 := 0x0, s4 := 0x0, s5 := 0x8000 } ∧
    decodeCommand 0xFC02280260B400100020000000010000 0xABCD =
      .vneg { ga := 5, gb := 0, comb := 0, hint := 0, chain := 1, yield := 0, stall := 6, tag := 1, eh := 3, ew := 2, s1 := 0x8, s2 := 0x10, s3 := 0x0, s4 := 0x0, s5 := 0x8000 } ∧
    decodeCommand 0xFC026BC3613400100020800200510000 0xABCD =
      .vclamp { ga := 5, gb := 3, comb := 3, hint := 0, chain := 1, yield := 1, stall := 6, tag := 2, eh := 3, ew := 2, s1 := 0x8, s2 := 0x10, s3 := 0x4001, s4 := 0x28, s5 := 0x8000 } ∧
    decodeCommand 0xFC02A802603400100020003000010000 0xABCD =
      .vand { ga := 5, gb := 0, comb := 0, hint := 0, chain := 1, yield := 0, stall := 6, tag := 0, eh := 3, ew := 2, s1 := 0x8, s2 := 0x10, s3 := 0x18, s4 := 0x0, s5 := 0x8000 } ∧
    decodeCommand 0xFC02EBC3603400100020800400010000 0xABCD =
      .vor { ga := 5, gb := 3, comb := 3, hint := 0, chain := 1, yield := 1, stall := 6, tag := 0, eh := 3, ew := 2, s1 := 0x8, s2 := 0x10, s3 := 0x4002, s4 := 0x0, s5 := 0x8000 } := by decide

theorem test_decode_command2 :
    decodeCommand 0xFC0328026034001000213FFE00010000 0xABCD =
      .vxor { ga := 5, gb := 0, comb := 0, hint := 0, chain := 1, yield := 0, stall := 6, tag := 0, eh := 3, ew := 2, s1 := 0x8, s2 := 0x10, s3 := 0x9FFF, s4 := 0x0, s5 := 0x8000 } ∧
    decodeCommand 0xFC036BC3603400100020000000010000 0xABCD =
      .vnot { ga := 5, gb := 3, comb := 3, hint := 0, chain := 1, yield := 1, stall := 6, tag := 0, eh := 3, ew := 2, s1 := 0x8, s2 := 0x10, s3 := 0x0, s4 := 0x0, s5 := 0x8000 } ∧
    decodeCommand 0xFC03A802653400100021007E00010000 0xABCD =
      .vshl { ga := 5, gb := 0, comb := 0, hint := 0, chain := 1, yield := 0, stall := 6, tag := 10, eh := 3, ew := 2, s1 := 0x8, s2 := 0x10, s3 := 0x803F, s4 := 0x0, s5 := 0x8000 } ∧
    decodeCommand 0xFC03EBC3653400100020803E00010000 0xABCD =
      .vshr { ga := 5, gb := 3, comb := 3, hint := 0, chain := 1, yield := 1, stall := 6, tag := 10, eh := 3, ew := 2, s1 := 0x8, s2 := 0x10, s3 := 0x401F, s4 := 0x0, s5 := 0x8000 } ∧
    decodeCommand 0xFC042802653400100020003000010000 0xABCD =
      .vsra { ga := 5, gb := 0, comb := 0, hint := 0, chain := 1, yield := 0, stall := 6, tag := 10, eh := 3, ew := 2, s1 := 0x8, s2 := 0x10, s3 := 0x18, s4 := 0x0, s5 := 0x8000 } ∧
    decodeCommand 0xFC046BC360B400100020003000010140 0xABCD =
      .vcmp { ga := 5, gb := 3, comb := 3, hint := 0, chain := 1, yield := 1, stall := 6, tag := 1, eh := 3, ew := 2, s1 := 0x8, s2 := 0x10, s3 := 0x18, s4 := 0x0, s5 := 0x80A0 } := by decide

theorem test_decode_command3 :
    decodeCommand 0xFC04A802603400100020003000410000 0xABCD =
      .vsel { ga := 5, gb := 0, comb := 0, hint := 0, chain := 1, yield := 0, stall := 6, tag := 0, eh := 3, ew := 2, s1 := 0x8, s2 := 0x10, s3 := 0x18, s4 := 0x20, s5 := 0x8000 } ∧
    decodeCommand 0xFC04EBC3603400100020000000010000 0xABCD =
      .vmov { ga := 5, gb := 3, comb := 3, hint := 0, chain := 1, yield := 1, stall := 6, tag := 0, eh := 3, ew := 2, s1 := 0x8, s2 := 0x10, s3 := 0x0, s4 := 0x0, s5 := 0x8000 } ∧
    decodeCommand 0xFC05280260B40010800E000000010000 0xABCD =
      .vbcast { ga := 5, gb := 0, comb := 0, hint := 0, chain := 1, yield := 0, stall := 6, tag := 1, eh := 3, ew := 2, s1 := 0x8, s2 := 0x4007, s3 := 0x0, s4 := 0x0, s5 := 0x8000 } ∧
    decodeCommand 0xFC056BC3613400100020003000010000 0xABCD =
      .vperm { ga := 5, gb := 3, comb := 3, hint := 0, chain := 1, yield := 1, stall := 6, tag := 2, eh := 3, ew := 2, s1 := 0x8, s2 := 0x10, s3 := 0x18, s4 := 0x0, s5 := 0x8000 } ∧
    decodeCommand 0xFC05A8026134001000217F8200010000 0xABCD =
      .vshf { ga := 5, gb := 0, comb := 0, hint := 0, chain := 1, yield := 0, stall := 6, tag := 2, eh := 3, ew := 2, s1 := 0x8, s2 := 0x10, s3 := 0xBFC1, s4 := 0x0, s5 := 0x8000 } ∧
    decodeCommand 0xFC402BC360B400100020000000010000 0xABCD =
      .vrcp { ga := 5, gb := 3, comb := 3, hint := 0, chain := 1, yield := 1, stall := 6, tag := 1, eh := 3, ew := 2, s1 := 0x8, s2 := 0x10, s3 := 0x0, s4 := 0x0, s5 := 0x8000 } := by decide

theorem test_decode_command4 :
    decodeCommand 0xFC40680260B400100020000000010002 0xABCD =
      .vrsq { ga := 5, gb := 0, comb := 0, hint := 0, chain := 1, yield := 0, stall := 6, tag := 1, eh := 3, ew := 2, s1 := 0x8, s2 := 0x10, s3 := 0x0, s4 := 0x0, s5 := 0x8001 } ∧
    decodeCommand 0xFC40ABC360B400100020000000010004 0xABCD =
      .vsqrt { ga := 5, gb := 3, comb := 3, hint := 0, chain := 1, yield := 1, stall := 6, tag := 1, eh := 3, ew := 2, s1 := 0x8, s2 := 0x10, s3 := 0x0, s4 := 0x0, s5 := 0x8002 } ∧
    decodeCommand 0xFC40E802613400100020000000010006 0xABCD =
      .vexp2 { ga := 5, gb := 0, comb := 0, hint := 0, chain := 1, yield := 0, stall := 6, tag := 2, eh := 3, ew := 2, s1 := 0x8, s2 := 0x10, s3 := 0x0, s4 := 0x0, s5 := 0x8003 } ∧
    decodeCommand 0xFC412BC3613400100020000000010008 0xABCD =
      .vlog2 { ga := 5, gb := 3, comb := 3, hint := 0, chain := 1, yield := 1, stall := 6, tag := 2, eh := 3, ew := 2, s1 := 0x8, s2 := 0x10, s3 := 0x0, s4 := 0x0, s5 := 0x8004 } ∧
    decodeCommand 0xFC41680261340010002000000001000A 0xABCD =
      .vtanh { ga := 5, gb := 0, comb := 0, hint := 0, chain := 1, yield := 0, stall := 6, tag := 2, eh := 3, ew := 2, s1 := 0x8, s2 := 0x10, s3 := 0x0, s4 := 0x0, s5 := 0x8005 } ∧
    decodeCommand 0xFC41ABC3613400100020000000010000 0xABCD =
      .vsgm { ga := 5, gb := 3, comb := 3, hint := 0, chain := 1, yield := 1, stall := 6, tag := 2, eh := 3, ew := 2, s1 := 0x8, s2 := 0x10, s3 := 0x0, s4 := 0x0, s5 := 0x8000 } := by decide

theorem test_decode_command5 :
    decodeCommand 0xFC41E802613400100020000000010000 0xABCD =
      .vsin { ga := 5, gb := 0, comb := 0, hint := 0, chain := 1, yield := 0, stall := 6, tag := 2, eh := 3, ew := 2, s1 := 0x8, s2 := 0x10, s3 := 0x0, s4 := 0x0, s5 := 0x8000 } ∧
    decodeCommand 0xFC442BC360B5A00A0020000000010040 0xABCD =
      .vred { ga := 5, gb := 3, comb := 3, hint := 0, chain := 1, yield := 1, stall := 6, tag := 1, eh := 3, ew := 2, s1 := 0xD005, s2 := 0x10, s3 := 0x0, s4 := 0x0, s5 := 0x8020 } ∧
    decodeCommand 0xFC4468026135A01E00200000000100A0 0xABCD =
      .vacc { ga := 5, gb := 0, comb := 0, hint := 0, chain := 1, yield := 0, stall := 6, tag := 2, eh := 3, ew := 2, s1 := 0xD00F, s2 := 0x10, s3 := 0x0, s4 := 0x0, s5 := 0x8050 } ∧
    decodeCommand 0xFC44ABC360800011A004000080090240 0xABCD =
      .vdrn { ga := 5, gb := 3, comb := 3, hint := 0, chain := 1, yield := 1, stall := 6, tag := 1, eh := 0, ew := 0, s1 := 0x8, s2 := 0xD002, s3 := 0x0, s4 := 0x4004, s5 := 0x8120 } ∧
    decodeCommand 0xFC44E80260B400100020000000010180 0xABCD =
      .vscan { ga := 5, gb := 0, comb := 0, hint := 0, chain := 1, yield := 0, stall := 6, tag := 1, eh := 3, ew := 2, s1 := 0x8, s2 := 0x10, s3 := 0x0, s4 := 0x0, s5 := 0x80C0 } ∧
    decodeCommand 0xFC802BC3600100050009000600000000 0xABCD =
      .vstr { ga := 5, gb := 3, comb := 3, hint := 0, chain := 1, yield := 1, stall := 6, tag := 0, eh := 0, ew := 0, s1 := 0x8002, s2 := 0x8004, s3 := 0x8003, s4 := 0x0, s5 := 0x0 } := by decide

theorem test_decode_command6 :
    decodeCommand 0xFC8068026001000DB007000800000000 0xABCD =
      .vmrg { ga := 5, gb := 0, comb := 0, hint := 0, chain := 1, yield := 0, stall := 6, tag := 0, eh := 0, ew := 0, s1 := 0x8006, s2 := 0xD803, s3 := 0x8004, s4 := 0x0, s5 := 0x0 } ∧
    decodeCommand 0xFC80ABC36001000BB018000000000000 0xABCD =
      .vcar { ga := 5, gb := 3, comb := 3, hint := 0, chain := 1, yield := 1, stall := 6, tag := 0, eh := 0, ew := 0, s1 := 0x8005, s2 := 0xD80C, s3 := 0x0, s4 := 0x0, s5 := 0x0 } ∧
    decodeCommand 0xFC80E8026001000B1FFF007E00000000 0xABCD =
      .vjoin { ga := 5, gb := 0, comb := 0, hint := 0, chain := 1, yield := 0, stall := 6, tag := 0, eh := 0, ew := 0, s1 := 0x8005, s2 := 0x8FFF, s3 := 0x803F, s4 := 0x0, s5 := 0x0 } ∧
    decodeCommand 0xFC812BD7600080220000000000000000 0xABCD =
      .vcfg { ga := 5, gb := 3, comb := 3, hint := 5, chain := 1, yield := 1, stall := 6, tag := 0, eh := 0, ew := 0, s1 := 0x4011, s2 := 0x0, s3 := 0x0, s4 := 0x0, s5 := 0x0 } ∧
    decodeCommand 0xFC81680260340011B0077FFE00000000 0xABCD =
      .vrun { ga := 5, gb := 0, comb := 0, hint := 0, chain := 1, yield := 0, stall := 6, tag := 0, eh := 3, ew := 2, s1 := 0x8, s2 := 0xD803, s3 := 0xBFFF, s4 := 0x0, s5 := 0x0 } ∧
    decodeCommand 0xFCC02BC19134001000212469004A0000 0xABCD =
      .cvt { ga := 5, gb := 3, comb := 3, hint := 0, chain := 0, yield := 1, stall := 9, tag := 2, eh := 3, ew := 2, s1 := 0x8, s2 := 0x10, s3 := 0x9234, s4 := 0x8025, s5 := 0x0 } := by decide

theorem test_decode_command7 :
    decodeCommand 0xFCC06800933400100021000100B1007E 0xABCD =
      .cvtSat { ga := 5, gb := 0, comb := 0, hint := 0, chain := 0, yield := 0, stall := 9, tag := 6, eh := 3, ew := 2, s1 := 0x8, s2 := 0x10, s3 := 0x8000, s4 := 0x8058, s5 := 0x803F } ∧
    decodeCommand 0xFCC0ABC1933400100021000700C00000 0xABCD =
      .qblk { ga := 5, gb := 3, comb := 3, hint := 0, chain := 0, yield := 1, stall := 9, tag := 6, eh := 3, ew := 2, s1 := 0x8, s2 := 0x10, s3 := 0x8003, s4 := 0x8060, s5 := 0x0 } ∧
    decodeCommand 0xFCC0E800913400100021000701800000 0xABCD =
      .dqblk { ga := 5, gb := 0, comb := 0, hint := 0, chain := 0, yield := 0, stall := 9, tag := 2, eh := 3, ew := 2, s1 := 0x8, s2 := 0x10, s3 := 0x8003, s4 := 0x80C0, s5 := 0x0 } ∧
    decodeCommand 0xFCC12BC193B400100020000000000000 0xABCD =
      .pack6 { ga := 5, gb := 3, comb := 3, hint := 0, chain := 0, yield := 1, stall := 9, tag := 7, eh := 3, ew := 2, s1 := 0x8, s2 := 0x10, s3 := 0x0, s4 := 0x0, s5 := 0x0 } ∧
    decodeCommand 0xFCC1680093B400100020000000000000 0xABCD =
      .unpk6 { ga := 5, gb := 0, comb := 0, hint := 0, chain := 0, yield := 0, stall := 9, tag := 7, eh := 3, ew := 2, s1 := 0x8, s2 := 0x10, s3 := 0x0, s4 := 0x0, s5 := 0x0 } ∧
    decodeCommand 0xFCC1ABC191340010800B7FFE00000000 0xABCD =
      .falFill { ga := 5, gb := 3, comb := 3, hint := 0, chain := 0, yield := 1, stall := 9, tag := 2, eh := 3, ew := 2, s1 := 0x8, s2 := 0x4005, s3 := 0xBFFF, s4 := 0x0, s5 := 0x0 } := by decide

theorem test_decode_command8 :
    decodeCommand 0xFCC1E8009034800C0021C00E00000000 0xABCD =
      .falTest { ga := 5, gb := 0, comb := 0, hint := 0, chain := 0, yield := 0, stall := 9, tag := 0, eh := 3, ew := 2, s1 := 0x4006, s2 := 0x10, s3 := 0xE007, s4 := 0x0, s5 := 0x0 } ∧
    decodeCommand 0xFCC22BC198B400100000000000000000 0xABCD =
      .tagSet { ga := 5, gb := 3, comb := 3, hint := 0, chain := 0, yield := 1, stall := 9, tag := 17, eh := 3, ew := 2, s1 := 0x8, s2 := 0x0, s3 := 0x0, s4 := 0x0, s5 := 0x0 } ∧
    decodeCommand 0xFD0028009101B0120000000000000000 0xABCD =
      .mls { ga := 5, gb := 0, comb := 0, hint := 0, chain := 0, yield := 0, stall := 9, tag := 2, eh := 0, ew := 0, s1 := 0xD809, s2 := 0x0, s3 := 0x0, s4 := 0x0, s5 := 0x0 } ∧
    decodeCommand 0xFD006BC1900000000000000000000000 0xABCD =
      .mswp { ga := 5, gb := 3, comb := 3, hint := 0, chain := 0, yield := 1, stall := 9, tag := 0, eh := 0, ew := 0, s1 := 0x0, s2 := 0x0, s3 := 0x0, s4 := 0x0, s5 := 0x0 } ∧
    decodeCommand 0xFD00A80091019007B009003F00110040 0xABCD =
      .mst { ga := 5, gb := 0, comb := 0, hint := 0, chain := 0, yield := 0, stall := 9, tag := 2, eh := 0, ew := 0, s1 := 0xC803, s2 := 0xD804, s3 := 0x801F, s4 := 0x8008, s5 := 0x8020 } ∧
    decodeCommand 0xFD00EBC191819003B005B87E80100000 0xABCD =
      .msc { ga := 5, gb := 3, comb := 3, hint := 0, chain := 0, yield := 1, stall := 9, tag := 3, eh := 0, ew := 0, s1 := 0xC801, s2 := 0xD802, s3 := 0xDC3F, s4 := 0x4008, s5 := 0x0 } := by decide

theorem test_decode_command9 :
    decodeCommand 0xFD012800943590000020003100010006 0xABCD =
      .mnm { ga := 5, gb := 0, comb := 0, hint := 0, chain := 0, yield := 0, stall := 9, tag := 8, eh := 3, ew := 2, s1 := 0xC800, s2 := 0x10, s3 := 0x18, s4 := 0x8000, s5 := 0x8003 } ∧
    decodeCommand 0xFD016BC192819005B003B005B807B808 0xABCD =
      .mintDot { ga := 5, gb := 3, comb := 3, hint := 0, chain := 0, yield := 1, stall := 9, tag := 5, eh := 0, ew := 0, s1 := 0xC802, s2 := 0xD801, s3 := 0xD802, s4 := 0xDC03, s5 := 0xDC04 } ∧
    decodeCommand 0xFD01A800913400119003002080130000 0xABCD =
      .mdr { ga := 5, gb := 0, comb := 0, hint := 0, chain := 0, yield := 0, stall := 9, tag := 2, eh := 3, ew := 2, s1 := 0x8, s2 := 0xC801, s3 := 0x8010, s4 := 0x4009, s5 := 0x8000 } ∧
    decodeCommand 0xFD01EBC19001001E0000000000000000 0xABCD =
      .mclr { ga := 5, gb := 3, comb := 3, hint := 0, chain := 0, yield := 1, stall := 9, tag := 0, eh := 0, ew := 0, s1 := 0x800F, s2 := 0x0, s3 := 0x0, s4 := 0x0, s5 := 0x0 } ∧
    decodeCommand 0xFD0228009681B01FB003B80400000000 0xABCD =
      .mintCnt { ga := 5, gb := 0, comb := 0, hint := 0, chain := 0, yield := 0, stall := 9, tag := 13, eh := 0, ew := 0, s1 := 0xD80F, s2 := 0xD801, s3 := 0xDC02, s4 := 0x0, s5 := 0x0 } ∧
    decodeCommand 0xFD026BC197B40011B00700C800000000 0xABCD =
      .mintScan { ga := 5, gb := 3, comb := 3, hint := 0, chain := 0, yield := 1, stall := 9, tag := 15, eh := 3, ew := 2, s1 := 0x8, s2 := 0xD803, s3 := 0x8064, s4 := 0x0, s5 := 0x0 } := by decide

theorem test_decode_command10 :
    decodeCommand 0xFD40281491340010800B7FFF8181C080 0xABCD =
      .vld { ga := 5, gb := 0, comb := 0, hint := 5, chain := 0, yield := 0, stall := 9, tag := 2, eh := 3, ew := 2, s1 := 0x8, s2 := 0x4005, s3 := 0xBFFF, s4 := 0xC0C0, s5 := 0xE040 } ∧
    decodeCommand 0xFD406BD590340010800A800C00000000 0xABCD =
      .vst { ga := 5, gb := 3, comb := 3, hint := 5, chain := 0, yield := 1, stall := 9, tag := 0, eh := 3, ew := 2, s1 := 0x8, s2 := 0x4005, s3 := 0x4006, s4 := 0x0, s5 := 0x0 } ∧
    decodeCommand 0xFD40A8149401801E800B008000000000 0xABCD =
      .tld { ga := 5, gb := 0, comb := 0, hint := 5, chain := 0, yield := 0, stall := 9, tag := 8, eh := 0, ew := 0, s1 := 0xC00F, s2 := 0x4005, s3 := 0x8040, s4 := 0x0, s5 := 0x0 } ∧
    decodeCommand 0xFD40EBD590018006800A00018181C080 0xABCD =
      .tst { ga := 5, gb := 3, comb := 3, hint := 5, chain := 0, yield := 1, stall := 9, tag := 0, eh := 0, ew := 0, s1 := 0xC003, s2 := 0x4005, s3 := 0x0, s4 := 0xC0C0, s5 := 0xE040 } ∧
    decodeCommand 0xFD41281490B40010800A000000000000 0xABCD =
      .sbld { ga := 5, gb := 0, comb := 0, hint := 5, chain := 0, yield := 0, stall := 9, tag := 1, eh := 3, ew := 2, s1 := 0x8, s2 := 0x4005, s3 := 0x0, s4 := 0x0, s5 := 0x0 } ∧
    decodeCommand 0xFD416BD590B40010800A000000000000 0xABCD =
      .sbst { ga := 5, gb := 3, comb := 3, hint := 5, chain := 0, yield := 1, stall := 9, tag := 1, eh := 3, ew := 2, s1 := 0x8, s2 := 0x4005, s3 := 0x0, s4 := 0x0, s5 := 0x0 } := by decide

theorem test_decode_command11 :
    decodeCommand 0xFD41A8149000800B7FFE000000000000 0xABCD =
      .sbclr { ga := 5, gb := 0, comb := 0, hint := 5, chain := 0, yield := 0, stall := 9, tag := 0, eh := 0, ew := 0, s1 := 0x4005, s2 := 0xBFFF, s3 := 0x0, s4 := 0x0, s5 := 0x0 } ∧
    decodeCommand 0xFD802BD590B4800A0010002100C1B004 0xABCD =
      .vamo { ga := 5, gb := 3, comb := 3, hint := 5, chain := 0, yield := 1, stall := 9, tag := 1, eh := 3, ew := 2, s1 := 0x4005, s2 := 0x8, s3 := 0x10, s4 := 0x8060, s5 := 0xD802 } ∧
    decodeCommand 0xFDC028149000800A800D2001B8188014 0xABCD =
      .cpy { ga := 5, gb := 0, comb := 0, hint := 5, chain := 0, yield := 0, stall := 9, tag := 0, eh := 0, ew := 0, s1 := 0x4005, s2 := 0x4006, s3 := 0x9000, s4 := 0xDC0C, s5 := 0x400A } ∧
    decodeCommand 0xFDC06BD59001B80A800C800E0001B006 0xABCD =
      .cpym { ga := 5, gb := 3, comb := 3, hint := 5, chain := 0, yield := 1, stall := 9, tag := 0, eh := 0, ew := 0, s1 := 0xDC05, s2 := 0x4006, s3 := 0x4007, s4 := 0x0, s5 := 0xD803 } 0xABCD ∧
    decodeCommand 0xFDC0A8149000800A800D0081B812803C 0xABCD =
      .mcst { ga := 5, gb := 0, comb := 0, hint := 5, chain := 0, yield := 0, stall := 9, tag := 0, eh := 0, ew := 0, s1 := 0x4005, s2 := 0x4006, s3 := 0x8040, s4 := 0xDC09, s5 := 0x401E } ∧
    decodeCommand 0xFDC0EBD59135B00E800A0010800D0186 0xABCD =
      .gath { ga := 5, gb := 3, comb := 3, hint := 5, chain := 0, yield := 1, stall := 9, tag := 2, eh := 3, ew := 2, s1 := 0xD807, s2 := 0x4005, s3 := 0x8, s4 := 0x4006, s5 := 0x80C3 } := by decide

theorem test_decode_command12 :
    decodeCommand 0xFDC128149100800BB010002000010226 0xABCD =
      .scat { ga := 5, gb := 0, comb := 0, hint := 5, chain := 0, yield := 0, stall := 9, tag := 2, eh := 0, ew := 0, s1 := 0x4005, s2 := 0xD808, s3 := 0x10, s4 := 0x0, s5 := 0x8113 } ∧
    decodeCommand 0xFDC16BD590010006800A000000000000 0xABCD =
      .agc { ga := 5, gb := 3, comb := 3, hint := 5, chain := 0, yield := 1, stall := 9, tag := 0, eh := 0, ew := 0, s1 := 0x8003, s2 := 0x4005, s3 := 0x0, s4 := 0x0, s5 := 0x0 } ∧
    decodeCommand 0xFDC1A81490010004800B7FFE00000000 0xABCD =
      .seg { ga := 5, gb := 0, comb := 0, hint := 5, chain := 0, yield := 0, stall := 9, tag := 0, eh := 0, ew := 0, s1 := 0x8002, s2 := 0x4005, s3 := 0xBFFF, s4 := 0x0, s5 := 0x0 } ∧
    decodeCommand 0xFE002BC19080800A800C00117FFFB00E 0xABCD =
      .walk { ga := 5, gb := 3, comb := 3, hint := 0, chain := 0, yield := 1, stall := 9, tag := 1, eh := 0, ew := 0, s1 := 0x4005, s2 := 0x4006, s3 := 0x8, s4 := 0xBFFF, s5 := 0xD807 } ∧
    decodeCommand 0xFE402814900100068010000000000000 0xABCD =
      .gld { ga := 5, gb := 0, comb := 0, hint := 5, chain := 0, yield := 0, stall := 9, tag := 0, eh := 0, ew := 0, s1 := 0x8003, s2 := 0x4008, s3 := 0x0, s4 := 0x0, s5 := 0x0 } ∧
    decodeCommand 0xFE406BC1900100028015B01200000000 0xABCD =
      .gsh { ga := 5, gb := 3, comb := 3, hint := 0, chain := 0, yield := 1, stall := 9, tag := 0, eh := 0, ew := 0, s1 := 0x8001, s2 := 0x400A, s3 := 0xD809, s4 := 0x0, s5 := 0x0 } := by decide

theorem test_decode_command13 :
    decodeCommand 0xFE40A80090008015B012000000000000 0xABCD =
      .grot { ga := 5, gb := 0, comb := 0, hint := 0, chain := 0, yield := 0, stall := 9, tag := 0, eh := 0, ew := 0, s1 := 0x400A, s2 := 0xD809, s3 := 0x0, s4 := 0x0, s5 := 0x0 } ∧
    decodeCommand 0xFE40EBC190011FFF0080000000000000 0xABCD =
      .gdep { ga := 5, gb := 3, comb := 3, hint := 0, chain := 0, yield := 1, stall := 9, tag := 0, eh := 0, ew := 0, s1 := 0x8FFF, s2 := 0x8040, s3 := 0x0, s4 := 0x0, s5 := 0x0 } ∧
    decodeCommand 0xFE412800900100020000000000000000 0xABCD =
      .gstr { ga := 5, gb := 0, comb := 0, hint := 0, chain := 0, yield := 0, stall := 9, tag := 0, eh := 0, ew := 0, s1 := 0x8001, s2 := 0x0, s3 := 0x0, s4 := 0x0, s5 := 0x0 } ∧
    decodeCommand 0xFE416BC19001B0120000000000000000 0xABCD =
      .gstp { ga := 5, gb := 3, comb := 3, hint := 0, chain := 0, yield := 1, stall := 9, tag := 0, eh := 0, ew := 0, s1 := 0xD809, s2 := 0x0, s3 := 0x0, s4 := 0x0, s5 := 0x0 } ∧
    decodeCommand 0xFE41A80090010005B012000000000000 0xABCD =
      .gsw { ga := 5, gb := 0, comb := 0, hint := 0, chain := 0, yield := 0, stall := 9, tag := 0, eh := 0, ew := 0, s1 := 0x8002, s2 := 0xD809, s3 := 0x0, s4 := 0x0, s5 := 0x0 } := by decide
/-! ### Well-formedness: a term that breaks each check is refused (R36, R38 to R48, R66, and each entry's own rule) -/

theorem test_illformed_words :
    ([.bfx 1 2 60 4 0,
      .bfxS 1 2 63 1 0,
      .bfi 1 2 1 63 0,
      .fncAcq 12 0,
      .fncRel 15 0,
      .fncAr 12 0,
      .fncSc 12 0,
      .xfncOe 12 0,
      .xfncEo 12 0,
      .cls 0,
      .csrR 1 0x15 0, .csrW 1 2 0x7FF 0, .csrS 1 2 0x1F 0, .csrC 1 2 0x30 0, .phs 1 0 0, .lead 0 0,
      .amoFadd 1 2 3 0 0 0,
      .amoFadd 1 2 3 3 0 0,
      .wkEq 1 2 0,
      .wkJmp 3 0,
      .wkSkip 0,
      .wkUnassignedRule 0x70000001] : List Instr).all (fun i => !i.wellFormed) = true := by decide

theorem test_illformed_field0 :
    ([.vadd { ga := 5, gb := 3, comb := 0, hint := 0, chain := 0, yield := 0, stall := 0, tag := 2, eh := 1, ew := 1, s1 := 0x8, s2 := 0x10, s3 := 0x18, s4 := 0x0, s5 := 0x8005 },
      .vadd { ga := 5, gb := 0, comb := 0, hint := 1, chain := 0, yield := 0, stall := 0, tag := 2, eh := 1, ew := 1, s1 := 0x8, s2 := 0x10, s3 := 0x18, s4 := 0x0, s5 := 0x8005 },
      .vadd { ga := 5, gb := 0, comb := 0, hint := 0, chain := 0, yield := 0, stall := 7, tag := 2, eh := 1, ew := 1, s1 := 0x8, s2 := 0x10, s3 := 0x18, s4 := 0x0, s5 := 0x8005 },
      .vadd { ga := 5, gb := 0, comb := 0, hint := 0, chain := 0, yield := 0, stall := 0, tag := 18, eh := 1, ew := 1, s1 := 0x8, s2 := 0x10, s3 := 0x18, s4 := 0x0, s5 := 0x8005 },
      .vadd { ga := 5, gb := 0, comb := 0, hint := 0, chain := 0, yield := 0, stall := 0, tag := 2, eh := 1, ew := 1, s1 := 0x40, s2 := 0x10, s3 := 0x18, s4 := 0x0, s5 := 0x8005 },
      .vadd { ga := 5, gb := 0, comb := 0, hint := 0, chain := 0, yield := 0, stall := 0, tag := 2, eh := 1, ew := 1, s1 := 0x8, s2 := 0x4010, s3 := 0x18, s4 := 0x0, s5 := 0x8005 },
      .vadd { ga := 5, gb := 0, comb := 0, hint := 0, chain := 0, yield := 0, stall := 0, tag := 2, eh := 1, ew := 1, s1 := 0x8, s2 := 0x10, s3 := 0x4020, s4 := 0x0, s5 := 0x8005 },
      .vadd { ga := 5, gb := 0, comb := 0, hint := 0, chain := 0, yield := 0, stall := 0, tag := 2, eh := 1, ew := 1, s1 := 0x8, s2 := 0x10, s3 := 0xC801, s4 := 0x0, s5 := 0x8005 },
      .vadd { ga := 5, gb := 0, comb := 0, hint := 0, chain := 0, yield := 0, stall := 0, tag := 2, eh := 1, ew := 1, s1 := 0x8, s2 := 0x10, s3 := 0x18, s4 := 0x9, s5 := 0x8005 },
      .vadd { ga := 5, gb := 0, comb := 0, hint := 0, chain := 0, yield := 0, stall := 0, tag := 2, eh := 1, ew := 1, s1 := 0x8, s2 := 0x10, s3 := 0x18, s4 := 0x0, s5 := 0x3 },
      .vadd { ga := 5, gb := 0, comb := 0, hint := 0, chain := 0, yield := 0, stall := 0, tag := 2, eh := 1, ew := 1, s1 := 0x8, s2 := 0x10, s3 := 0x18, s4 := 0x0, s5 := 0x8200 },
      .vadd { ga := 5, gb := 0, comb := 0, hint := 0, chain := 0, yield := 0, stall := 0, tag := 2, eh := 1, ew := 1, s1 := 0x8, s2 := 0x10, s3 := 0x18, s4 := 0x0, s5 := 0x8100 }] : List Instr).all (fun i => !i.wellFormed) = true := by decide

theorem test_illformed_field1 :
    ([.vadd { ga := 5, gb := 0, comb := 0, hint := 0, chain := 0, yield := 0, stall := 0, tag := 2, eh := 1, ew := 1, s1 := 0x8, s2 := 0x10, s3 := 0x18, s4 := 0x0, s5 := 0x8020 },
      .vadd { ga := 5, gb := 0, comb := 0, hint := 0, chain := 0, yield := 0, stall := 0, tag := 2, eh := 1, ew := 1, s1 := 0x8, s2 := 0x10, s3 := 0x18, s4 := 0x0, s5 := 0x8010 },
      .vadd { ga := 5, gb := 0, comb := 0, hint := 0, chain := 0, yield := 0, stall := 0, tag := 2, eh := 1, ew := 1, s1 := 0x8, s2 := 0x10, s3 := 0x18, s4 := 0x0, s5 := 0x8008 },
      .vadd { ga := 5, gb := 0, comb := 0, hint := 0, chain := 0, yield := 0, stall := 0, tag := 2, eh := 1, ew := 1, s1 := 0x8, s2 := 0x10, s3 := 0x18, s4 := 0x0, s5 := 0x8006 },
      .vadd { ga := 5, gb := 0, comb := 0, hint := 0, chain := 0, yield := 0, stall := 0, tag := 10, eh := 1, ew := 1, s1 := 0x8, s2 := 0x10, s3 := 0x18, s4 := 0x0, s5 := 0x8001 },
      .vld { ga := 5, gb := 0, comb := 0, hint := 6, chain := 0, yield := 0, stall := 0, tag := 2, eh := 1, ew := 1, s1 := 0x8, s2 := 0x4005, s3 := 0xBFFF, s4 := 0xC0C0, s5 := 0xE040 },
      .cvt { ga := 5, gb := 0, comb := 0, hint := 0, chain := 1, yield := 0, stall := 0, tag := 2, eh := 1, ew := 1, s1 := 0x8, s2 := 0x10, s3 := 0x9234, s4 := 0x8025, s5 := 0x0 },
      .gld { ga := 5, gb := 0, comb := 0, hint := 0, chain := 0, yield := 0, stall := 0, tag := 0, eh := 1, ew := 0, s1 := 0x8003, s2 := 0x4008, s3 := 0x0, s4 := 0x0, s5 := 0x0 },
      .gld { ga := 5, gb := 0, comb := 0, hint := 0, chain := 0, yield := 0, stall := 0, tag := 0, eh := 0, ew := 1, s1 := 0x8003, s2 := 0x4008, s3 := 0x0, s4 := 0x0, s5 := 0x0 },
      .mls { ga := 5, gb := 0, comb := 0, hint := 0, chain := 0, yield := 0, stall := 0, tag := 2, eh := 0, ew := 0, s1 := 0xD890, s2 := 0x0, s3 := 0x0, s4 := 0x0, s5 := 0x0 },
      .mls { ga := 5, gb := 0, comb := 0, hint := 0, chain := 0, yield := 0, stall := 0, tag := 2, eh := 0, ew := 0, s1 := 0xDC40, s2 := 0x0, s3 := 0x0, s4 := 0x0, s5 := 0x0 },
      .mls { ga := 5, gb := 0, comb := 0, hint := 0, chain := 0, yield := 0, stall := 0, tag := 2, eh := 0, ew := 0, s1 := 0xC010, s2 := 0x0, s3 := 0x0, s4 := 0x0, s5 := 0x0 }] : List Instr).all (fun i => !i.wellFormed) = true := by decide

theorem test_illformed_field2 :
    ([.mclr { ga := 5, gb := 0, comb := 0, hint := 0, chain := 0, yield := 0, stall := 0, tag := 0, eh := 0, ew := 0, s1 := 0x8010, s2 := 0x0, s3 := 0x0, s4 := 0x0, s5 := 0x0 },
      .mst { ga := 5, gb := 0, comb := 0, hint := 0, chain := 0, yield := 0, stall := 0, tag := 2, eh := 0, ew := 0, s1 := 0xC804, s2 := 0xD804, s3 := 0x801F, s4 := 0x8008, s5 := 0x8020 },
      .vred { ga := 5, gb := 0, comb := 0, hint := 0, chain := 0, yield := 0, stall := 0, tag := 1, eh := 1, ew := 1, s1 := 0xD010, s2 := 0x10, s3 := 0x0, s4 := 0x0, s5 := 0x8020 },
      .falTest { ga := 5, gb := 0, comb := 0, hint := 0, chain := 0, yield := 0, stall := 0, tag := 0, eh := 1, ew := 1, s1 := 0x4006, s2 := 0x10, s3 := 0xE008, s4 := 0x0, s5 := 0x0 },
      .cpy { ga := 5, gb := 0, comb := 0, hint := 0, chain := 0, yield := 0, stall := 0, tag := 0, eh := 0, ew := 0, s1 := 0x4005, s2 := 0x4006, s3 := 0x9000, s4 := 0xDC0C, s5 := 0x4003 },
      .cpy { ga := 5, gb := 0, comb := 0, hint := 0, chain := 0, yield := 0, stall := 0, tag := 0, eh := 0, ew := 0, s1 := 0x4005, s2 := 0x4006, s3 := 0x9000, s4 := 0xDC0C, s5 := 0x4000 },
      .vld { ga := 5, gb := 0, comb := 0, hint := 0, chain := 0, yield := 0, stall := 0, tag := 2, eh := 1, ew := 1, s1 := 0x8, s2 := 0x4005, s3 := 0xBFFF, s4 := 0x0, s5 := 0xE040 },
      .vshl { ga := 5, gb := 0, comb := 0, hint := 0, chain := 0, yield := 0, stall := 0, tag := 10, eh := 1, ew := 1, s1 := 0x8, s2 := 0x10, s3 := 0x8040, s4 := 0x0, s5 := 0x8000 },
      .vcmp { ga := 5, gb := 0, comb := 0, hint := 0, chain := 0, yield := 0, stall := 0, tag := 1, eh := 1, ew := 1, s1 := 0x8, s2 := 0x10, s3 := 0x18, s4 := 0x0, s5 := 0x80C0 },
      .vbcast { ga := 5, gb := 0, comb := 0, hint := 0, chain := 0, yield := 0, stall := 0, tag := 0, eh := 1, ew := 1, s1 := 0x8, s2 := 0x4007, s3 := 0x0, s4 := 0x0, s5 := 0x8000 },
      .vshf { ga := 5, gb := 0, comb := 0, hint := 0, chain := 0, yield := 0, stall := 0, tag := 2, eh := 1, ew := 1, s1 := 0x8, s2 := 0x10, s3 := 0x8040, s4 := 0x0, s5 := 0x8000 },
      .vdrn { ga := 5, gb := 0, comb := 0, hint := 0, chain := 0, yield := 0, stall := 0, tag := 8, eh := 0, ew := 0, s1 := 0x8, s2 := 0xD002, s3 := 0x0, s4 := 0x4004, s5 := 0x8000 }] : List Instr).all (fun i => !i.wellFormed) = true := by decide

theorem test_illformed_field3 :
    ([.vscan { ga := 5, gb := 0, comb := 0, hint := 0, chain := 0, yield := 0, stall := 0, tag := 1, eh := 1, ew := 1, s1 := 0x8, s2 := 0x10, s3 := 0x0, s4 := 0x0, s5 := 0x8060 },
      .vstr { ga := 5, gb := 0, comb := 0, hint := 0, chain := 0, yield := 0, stall := 0, tag := 0, eh := 0, ew := 0, s1 := 0x8004, s2 := 0x8004, s3 := 0x8003, s4 := 0x0, s5 := 0x0 },
      .vstr { ga := 5, gb := 0, comb := 0, hint := 0, chain := 0, yield := 0, stall := 0, tag := 0, eh := 0, ew := 0, s1 := 0x8002, s2 := 0x8004, s3 := 0x0, s4 := 0x0, s5 := 0x0 },
      .vmrg { ga := 5, gb := 0, comb := 0, hint := 0, chain := 0, yield := 0, stall := 0, tag := 0, eh := 0, ew := 0, s1 := 0x8006, s2 := 0xD803, s3 := 0x8005, s4 := 0x0, s5 := 0x0 },
      .vcar { ga := 5, gb := 0, comb := 0, hint := 0, chain := 0, yield := 0, stall := 0, tag := 0, eh := 0, ew := 0, s1 := 0x8005, s2 := 0x8001, s3 := 0x0, s4 := 0x0, s5 := 0x0 },
      .vjoin { ga := 5, gb := 0, comb := 0, hint := 0, chain := 0, yield := 0, stall := 0, tag := 0, eh := 0, ew := 0, s1 := 0x8005, s2 := 0x0, s3 := 0x803F, s4 := 0x0, s5 := 0x0 },
      .vcfg { ga := 5, gb := 0, comb := 0, hint := 0, chain := 0, yield := 0, stall := 0, tag := 1, eh := 0, ew := 0, s1 := 0x4011, s2 := 0x0, s3 := 0x0, s4 := 0x0, s5 := 0x0 },
      .vrun { ga := 5, gb := 0, comb := 0, hint := 0, chain := 0, yield := 0, stall := 0, tag := 0, eh := 1, ew := 1, s1 := 0x8, s2 := 0x4, s3 := 0xBFFF, s4 := 0x0, s5 := 0x0 },
      .vrun { ga := 5, gb := 0, comb := 0, hint := 0, chain := 0, yield := 0, stall := 0, tag := 0, eh := 1, ew := 1, s1 := 0xD801, s2 := 0xD803, s3 := 0xBFFF, s4 := 0x0, s5 := 0x0 },
      .cvt { ga := 5, gb := 0, comb := 0, hint := 0, chain := 0, yield := 0, stall := 0, tag := 6, eh := 1, ew := 1, s1 := 0x8, s2 := 0x10, s3 := 0x9234, s4 := 0x8025, s5 := 0x0 },
      .cvt { ga := 5, gb := 0, comb := 0, hint := 0, chain := 0, yield := 0, stall := 0, tag := 17, eh := 1, ew := 1, s1 := 0x8, s2 := 0x10, s3 := 0x9234, s4 := 0x8025, s5 := 0x0 },
      .cvt { ga := 5, gb := 0, comb := 0, hint := 0, chain := 0, yield := 0, stall := 0, tag := 2, eh := 1, ew := 1, s1 := 0x8, s2 := 0x10, s3 := 0x9234, s4 := 0x8006, s5 := 0x0 }] : List Instr).all (fun i => !i.wellFormed) = true := by decide

theorem test_illformed_field4 :
    ([.cvt { ga := 5, gb := 0, comb := 0, hint := 0, chain := 0, yield := 0, stall := 0, tag := 2, eh := 1, ew := 1, s1 := 0x8, s2 := 0x10, s3 := 0x9234, s4 := 0x80C0, s5 := 0x0 },
      .qblk { ga := 5, gb := 0, comb := 0, hint := 0, chain := 0, yield := 0, stall := 0, tag := 2, eh := 1, ew := 1, s1 := 0x8, s2 := 0x10, s3 := 0x8003, s4 := 0x8060, s5 := 0x0 },
      .dqblk { ga := 5, gb := 0, comb := 0, hint := 0, chain := 0, yield := 0, stall := 0, tag := 2, eh := 1, ew := 1, s1 := 0x8, s2 := 0x10, s3 := 0x8004, s4 := 0x80C0, s5 := 0x0 },
      .pack6 { ga := 5, gb := 0, comb := 0, hint := 0, chain := 0, yield := 0, stall := 0, tag := 2, eh := 1, ew := 1, s1 := 0x8, s2 := 0x10, s3 := 0x0, s4 := 0x0, s5 := 0x0 },
      .falFill { ga := 5, gb := 0, comb := 0, hint := 0, chain := 0, yield := 0, stall := 0, tag := 0, eh := 1, ew := 1, s1 := 0x8, s2 := 0x4005, s3 := 0xBFFF, s4 := 0x0, s5 := 0x0 },
      .tagSet { ga := 5, gb := 0, comb := 0, hint := 0, chain := 0, yield := 0, stall := 0, tag := 0, eh := 1, ew := 1, s1 := 0x8, s2 := 0x0, s3 := 0x0, s4 := 0x0, s5 := 0x0 },
      .mls { ga := 5, gb := 0, comb := 0, hint := 0, chain := 0, yield := 0, stall := 0, tag := 0, eh := 0, ew := 0, s1 := 0xD809, s2 := 0x0, s3 := 0x0, s4 := 0x0, s5 := 0x0 },
      .mswp { ga := 5, gb := 0, comb := 0, hint := 0, chain := 0, yield := 0, stall := 0, tag := 1, eh := 0, ew := 0, s1 := 0x0, s2 := 0x0, s3 := 0x0, s4 := 0x0, s5 := 0x0 },
      .mst { ga := 5, gb := 0, comb := 0, hint := 0, chain := 0, yield := 0, stall := 0, tag := 2, eh := 0, ew := 0, s1 := 0xC803, s2 := 0xD804, s3 := 0x801F, s4 := 0x8010, s5 := 0x8020 },
      .mst { ga := 5, gb := 0, comb := 0, hint := 0, chain := 0, yield := 0, stall := 0, tag := 2, eh := 0, ew := 0, s1 := 0xC803, s2 := 0xD804, s3 := 0x801F, s4 := 0x8001, s5 := 0x8020 },
      .mst { ga := 5, gb := 0, comb := 0, hint := 0, chain := 0, yield := 0, stall := 0, tag := 0, eh := 0, ew := 0, s1 := 0xC803, s2 := 0xD804, s3 := 0x801F, s4 := 0x8008, s5 := 0x8020 },
      .mst { ga := 5, gb := 0, comb := 0, hint := 0, chain := 0, yield := 0, stall := 0, tag := 2, eh := 0, ew := 0, s1 := 0xC803, s2 := 0x3, s3 := 0x801F, s4 := 0x8008, s5 := 0x8020 }] : List Instr).all (fun i => !i.wellFormed) = true := by decide

theorem test_illformed_field5 :
    ([.msc { ga := 5, gb := 0, comb := 0, hint := 0, chain := 0, yield := 0, stall := 0, tag := 1, eh := 0, ew := 0, s1 := 0xC801, s2 := 0xD802, s3 := 0xDC3F, s4 := 0x4008, s5 := 0x0 },
      .mnm { ga := 5, gb := 0, comb := 0, hint := 0, chain := 0, yield := 0, stall := 0, tag := 8, eh := 1, ew := 1, s1 := 0xC800, s2 := 0x10, s3 := 0x18, s4 := 0x8000, s5 := 0x8004 },
      .mintDot { ga := 5, gb := 0, comb := 0, hint := 0, chain := 0, yield := 0, stall := 0, tag := 1, eh := 0, ew := 0, s1 := 0xC802, s2 := 0xD801, s3 := 0xD802, s4 := 0xDC03, s5 := 0xDC04 },
      .mdr { ga := 5, gb := 0, comb := 0, hint := 0, chain := 0, yield := 0, stall := 0, tag := 8, eh := 1, ew := 1, s1 := 0x8, s2 := 0xC801, s3 := 0x8010, s4 := 0x4009, s5 := 0x8000 },
      .mintCnt { ga := 5, gb := 0, comb := 0, hint := 0, chain := 0, yield := 0, stall := 0, tag := 2, eh := 0, ew := 0, s1 := 0xD80F, s2 := 0xD801, s3 := 0xDC02, s4 := 0x0, s5 := 0x0 },
      .mintScan { ga := 5, gb := 0, comb := 0, hint := 0, chain := 0, yield := 0, stall := 0, tag := 2, eh := 1, ew := 1, s1 := 0x8, s2 := 0xD803, s3 := 0x8064, s4 := 0x0, s5 := 0x0 },
      .vld { ga := 5, gb := 0, comb := 0, hint := 0, chain := 0, yield := 0, stall := 0, tag := 7, eh := 1, ew := 1, s1 := 0x8, s2 := 0x4005, s3 := 0xBFFF, s4 := 0xC0C0, s5 := 0xE040 },
      .tld { ga := 5, gb := 0, comb := 0, hint := 0, chain := 0, yield := 0, stall := 0, tag := 1, eh := 0, ew := 0, s1 := 0xC00F, s2 := 0x4005, s3 := 0x8040, s4 := 0x0, s5 := 0x0 },
      .tst { ga := 5, gb := 0, comb := 0, hint := 0, chain := 0, yield := 0, stall := 0, tag := 1, eh := 0, ew := 0, s1 := 0xC003, s2 := 0x4005, s3 := 0x0, s4 := 0xC0C0, s5 := 0xE040 },
      .sbclr { ga := 5, gb := 0, comb := 0, hint := 0, chain := 0, yield := 0, stall := 0, tag := 1, eh := 0, ew := 0, s1 := 0x4005, s2 := 0xBFFF, s3 := 0x0, s4 := 0x0, s5 := 0x0 },
      .vamo { ga := 5, gb := 0, comb := 0, hint := 0, chain := 0, yield := 0, stall := 0, tag := 1, eh := 1, ew := 1, s1 := 0x4005, s2 := 0x8, s3 := 0x10, s4 := 0x80C0, s5 := 0xD802 },
      .vamo { ga := 5, gb := 0, comb := 0, hint := 0, chain := 0, yield := 0, stall := 0, tag := 1, eh := 1, ew := 1, s1 := 0x4005, s2 := 0x8, s3 := 0x10, s4 := 0x8001, s5 := 0xD802 }] : List Instr).all (fun i => !i.wellFormed) = true := by decide

theorem test_illformed_field6 :
    ([.cpy { ga := 5, gb := 0, comb := 0, hint := 0, chain := 0, yield := 0, stall := 0, tag := 1, eh := 0, ew := 0, s1 := 0x4005, s2 := 0x4006, s3 := 0x9000, s4 := 0xDC0C, s5 := 0x400A },
      .cpym { ga := 5, gb := 0, comb := 0, hint := 0, chain := 0, yield := 0, stall := 0, tag := 1, eh := 0, ew := 0, s1 := 0xDC05, s2 := 0x4006, s3 := 0x4007, s4 := 0x0, s5 := 0xD803 } 0,
      .mcst { ga := 5, gb := 0, comb := 0, hint := 0, chain := 0, yield := 0, stall := 0, tag := 1, eh := 0, ew := 0, s1 := 0x4005, s2 := 0x4006, s3 := 0x8040, s4 := 0xDC09, s5 := 0x401E },
      .gath { ga := 5, gb := 0, comb := 0, hint := 0, chain := 0, yield := 0, stall := 0, tag := 6, eh := 0, ew := 0, s1 := 0xD807, s2 := 0x4005, s3 := 0x8, s4 := 0x4006, s5 := 0x80C3 },
      .gath { ga := 5, gb := 0, comb := 0, hint := 0, chain := 0, yield := 0, stall := 0, tag := 2, eh := 0, ew := 0, s1 := 0xD807, s2 := 0x4005, s3 := 0x8, s4 := 0x4006, s5 := 0x8100 },
      .gath { ga := 5, gb := 0, comb := 0, hint := 0, chain := 0, yield := 0, stall := 0, tag := 2, eh := 0, ew := 0, s1 := 0xD807, s2 := 0x4005, s3 := 0x8, s4 := 0x4006, s5 := 0x8004 },
      .scat { ga := 5, gb := 0, comb := 0, hint := 0, chain := 0, yield := 0, stall := 0, tag := 2, eh := 0, ew := 0, s1 := 0x4005, s2 := 0xD808, s3 := 0x10, s4 := 0x0, s5 := 0x8200 },
      .agc { ga := 5, gb := 0, comb := 0, hint := 0, chain := 0, yield := 0, stall := 0, tag := 0, eh := 0, ew := 0, s1 := 0x8004, s2 := 0x4005, s3 := 0x0, s4 := 0x0, s5 := 0x0 },
      .seg { ga := 5, gb := 0, comb := 0, hint := 0, chain := 0, yield := 0, stall := 0, tag := 0, eh := 0, ew := 0, s1 := 0x8002, s2 := 0x4005, s3 := 0x8000, s4 := 0x0, s5 := 0x0 },
      .walk { ga := 5, gb := 0, comb := 0, hint := 0, chain := 0, yield := 0, stall := 0, tag := 1, eh := 0, ew := 0, s1 := 0x4005, s2 := 0x4006, s3 := 0x8, s4 := 0x8003, s5 := 0xD807 },
      .walk { ga := 5, gb := 0, comb := 0, hint := 0, chain := 0, yield := 0, stall := 0, tag := 6, eh := 0, ew := 0, s1 := 0x4005, s2 := 0x4006, s3 := 0x8, s4 := 0xBFFF, s5 := 0xD807 },
      .walk { ga := 5, gb := 0, comb := 0, hint := 0, chain := 0, yield := 0, stall := 0, tag := 1, eh := 1, ew := 0, s1 := 0x4005, s2 := 0x4006, s3 := 0x4008, s4 := 0xBFFF, s5 := 0xD807 }] : List Instr).all (fun i => !i.wellFormed) = true := by decide

theorem test_illformed_field7 :
    ([.walk { ga := 5, gb := 0, comb := 0, hint := 0, chain := 0, yield := 0, stall := 0, tag := 1, eh := 1, ew := 0, s1 := 0x4005, s2 := 0x4006, s3 := 0x4016, s4 := 0xBFFF, s5 := 0xD807 },
      .gdep { ga := 5, gb := 0, comb := 0, hint := 0, chain := 0, yield := 0, stall := 0, tag := 0, eh := 0, ew := 0, s1 := 0x8FFF, s2 := 0x8041, s3 := 0x0, s4 := 0x0, s5 := 0x0 },
      .gstr { ga := 5, gb := 0, comb := 0, hint := 0, chain := 0, yield := 0, stall := 0, tag := 0, eh := 0, ew := 0, s1 := 0x8004, s2 := 0x0, s3 := 0x0, s4 := 0x0, s5 := 0x0 }] : List Instr).all (fun i => !i.wellFormed) = true := by decide

theorem test_illformed_slot10 :
    ([.vadd { ga := 5, gb := 0, comb := 0, hint := 0, chain := 0, yield := 0, stall := 0, tag := 2, eh := 1, ew := 1, s1 := 0xE007, s2 := 0x10, s3 := 0x18, s4 := 0x0, s5 := 0x8005 },
      .vsub { ga := 5, gb := 0, comb := 0, hint := 0, chain := 0, yield := 0, stall := 0, tag := 1, eh := 1, ew := 1, s1 := 0xE007, s2 := 0x10, s3 := 0x4009, s4 := 0x0, s5 := 0x8000 },
      .vmul { ga := 5, gb := 0, comb := 0, hint := 0, chain := 0, yield := 0, stall := 0, tag := 3, eh := 1, ew := 1, s1 := 0xE007, s2 := 0x10, s3 := 0xBFFF, s4 := 0x0, s5 := 0x8002 },
      .vfma { ga := 5, gb := 0, comb := 0, hint := 0, chain := 0, yield := 0, stall := 0, tag := 1, eh := 1, ew := 1, s1 := 0xE007, s2 := 0x10, s3 := 0x18, s4 := 0x20, s5 := 0x8001 },
      .vfms { ga := 5, gb := 0, comb := 0, hint := 0, chain := 0, yield := 0, stall := 0, tag := 3, eh := 1, ew := 1, s1 := 0xE007, s2 := 0x10, s3 := 0x4003, s4 := 0x8007, s5 := 0x8003 },
      .vmin { ga := 5, gb := 0, comb := 0, hint := 0, chain := 0, yield := 0, stall := 0, tag := 8, eh := 1, ew := 1, s1 := 0xE007, s2 := 0x10, s3 := 0x18, s4 := 0x0, s5 := 0x8008 },
      .vmax { ga := 5, gb := 0, comb := 0, hint := 0, chain := 0, yield := 0, stall := 0, tag := 9, eh := 1, ew := 1, s1 := 0xE007, s2 := 0x10, s3 := 0x18, s4 := 0x0, s5 := 0x8000 },
      .vabs { ga := 5, gb := 0, comb := 0, hint := 0, chain := 0, yield := 0, stall := 0, tag := 2, eh := 1, ew := 1, s1 := 0xE007, s2 := 0x10, s3 := 0x0, s4 := 0x0, s5 := 0x8000 },
      .vneg { ga := 5, gb := 0, comb := 0, hint := 0, chain := 0, yield := 0, stall := 0, tag := 1, eh := 1, ew := 1, s1 := 0xE007, s2 := 0x10, s3 := 0x0, s4 := 0x0, s5 := 0x8000 },
      .vclamp { ga := 5, gb := 0, comb := 0, hint := 0, chain := 0, yield := 0, stall := 0, tag := 2, eh := 1, ew := 1, s1 := 0xE007, s2 := 0x10, s3 := 0x4001, s4 := 0x28, s5 := 0x8000 },
      .vand { ga := 5, gb := 0, comb := 0, hint := 0, chain := 0, yield := 0, stall := 0, tag := 0, eh := 1, ew := 1, s1 := 0xE007, s2 := 0x10, s3 := 0x18, s4 := 0x0, s5 := 0x8000 },
      .vor { ga := 5, gb := 0, comb := 0, hint := 0, chain := 0, yield := 0, stall := 0, tag := 0, eh := 1, ew := 1, s1 := 0xE007, s2 := 0x10, s3 := 0x4002, s4 := 0x0, s5 := 0x8000 }] : List Instr).all (fun i => !i.wellFormed) = true := by decide

theorem test_illformed_slot11 :
    ([.vxor { ga := 5, gb := 0, comb := 0, hint := 0, chain := 0, yield := 0, stall := 0, tag := 0, eh := 1, ew := 1, s1 := 0xE007, s2 := 0x10, s3 := 0x9FFF, s4 := 0x0, s5 := 0x8000 },
      .vnot { ga := 5, gb := 0, comb := 0, hint := 0, chain := 0, yield := 0, stall := 0, tag := 0, eh := 1, ew := 1, s1 := 0xE007, s2 := 0x10, s3 := 0x0, s4 := 0x0, s5 := 0x8000 },
      .vshl { ga := 5, gb := 0, comb := 0, hint := 0, chain := 0, yield := 0, stall := 0, tag := 10, eh := 1, ew := 1, s1 := 0xE007, s2 := 0x10, s3 := 0x803F, s4 := 0x0, s5 := 0x8000 },
      .vshr { ga := 5, gb := 0, comb := 0, hint := 0, chain := 0, yield := 0, stall := 0, tag := 10, eh := 1, ew := 1, s1 := 0xE007, s2 := 0x10, s3 := 0x401F, s4 := 0x0, s5 := 0x8000 },
      .vsra { ga := 5, gb := 0, comb := 0, hint := 0, chain := 0, yield := 0, stall := 0, tag := 10, eh := 1, ew := 1, s1 := 0xE007, s2 := 0x10, s3 := 0x18, s4 := 0x0, s5 := 0x8000 },
      .vcmp { ga := 5, gb := 0, comb := 0, hint := 0, chain := 0, yield := 0, stall := 0, tag := 1, eh := 1, ew := 1, s1 := 0xE007, s2 := 0x10, s3 := 0x18, s4 := 0x0, s5 := 0x80A0 },
      .vsel { ga := 5, gb := 0, comb := 0, hint := 0, chain := 0, yield := 0, stall := 0, tag := 0, eh := 1, ew := 1, s1 := 0xE007, s2 := 0x10, s3 := 0x18, s4 := 0x20, s5 := 0x8000 },
      .vmov { ga := 5, gb := 0, comb := 0, hint := 0, chain := 0, yield := 0, stall := 0, tag := 0, eh := 1, ew := 1, s1 := 0xE007, s2 := 0x10, s3 := 0x0, s4 := 0x0, s5 := 0x8000 },
      .vbcast { ga := 5, gb := 0, comb := 0, hint := 0, chain := 0, yield := 0, stall := 0, tag := 1, eh := 1, ew := 1, s1 := 0xE007, s2 := 0x4007, s3 := 0x0, s4 := 0x0, s5 := 0x8000 },
      .vperm { ga := 5, gb := 0, comb := 0, hint := 0, chain := 0, yield := 0, stall := 0, tag := 2, eh := 1, ew := 1, s1 := 0xE007, s2 := 0x10, s3 := 0x18, s4 := 0x0, s5 := 0x8000 },
      .vshf { ga := 5, gb := 0, comb := 0, hint := 0, chain := 0, yield := 0, stall := 0, tag := 2, eh := 1, ew := 1, s1 := 0xE007, s2 := 0x10, s3 := 0xBFC1, s4 := 0x0, s5 := 0x8000 },
      .vrcp { ga := 5, gb := 0, comb := 0, hint := 0, chain := 0, yield := 0, stall := 0, tag := 1, eh := 1, ew := 1, s1 := 0xE007, s2 := 0x10, s3 := 0x0, s4 := 0x0, s5 := 0x8000 }] : List Instr).all (fun i => !i.wellFormed) = true := by decide

theorem test_illformed_slot12 :
    ([.vrsq { ga := 5, gb := 0, comb := 0, hint := 0, chain := 0, yield := 0, stall := 0, tag := 1, eh := 1, ew := 1, s1 := 0xE007, s2 := 0x10, s3 := 0x0, s4 := 0x0, s5 := 0x8001 },
      .vsqrt { ga := 5, gb := 0, comb := 0, hint := 0, chain := 0, yield := 0, stall := 0, tag := 1, eh := 1, ew := 1, s1 := 0xE007, s2 := 0x10, s3 := 0x0, s4 := 0x0, s5 := 0x8002 },
      .vexp2 { ga := 5, gb := 0, comb := 0, hint := 0, chain := 0, yield := 0, stall := 0, tag := 2, eh := 1, ew := 1, s1 := 0xE007, s2 := 0x10, s3 := 0x0, s4 := 0x0, s5 := 0x8003 },
      .vlog2 { ga := 5, gb := 0, comb := 0, hint := 0, chain := 0, yield := 0, stall := 0, tag := 2, eh := 1, ew := 1, s1 := 0xE007, s2 := 0x10, s3 := 0x0, s4 := 0x0, s5 := 0x8004 },
      .vtanh { ga := 5, gb := 0, comb := 0, hint := 0, chain := 0, yield := 0, stall := 0, tag := 2, eh := 1, ew := 1, s1 := 0xE007, s2 := 0x10, s3 := 0x0, s4 := 0x0, s5 := 0x8005 },
      .vsgm { ga := 5, gb := 0, comb := 0, hint := 0, chain := 0, yield := 0, stall := 0, tag := 2, eh := 1, ew := 1, s1 := 0xE007, s2 := 0x10, s3 := 0x0, s4 := 0x0, s5 := 0x8000 },
      .vsin { ga := 5, gb := 0, comb := 0, hint := 0, chain := 0, yield := 0, stall := 0, tag := 2, eh := 1, ew := 1, s1 := 0xE007, s2 := 0x10, s3 := 0x0, s4 := 0x0, s5 := 0x8000 },
      .vred { ga := 5, gb := 0, comb := 0, hint := 0, chain := 0, yield := 0, stall := 0, tag := 1, eh := 1, ew := 1, s1 := 0xE007, s2 := 0x10, s3 := 0x0, s4 := 0x0, s5 := 0x8020 },
      .vacc { ga := 5, gb := 0, comb := 0, hint := 0, chain := 0, yield := 0, stall := 0, tag := 2, eh := 1, ew := 1, s1 := 0xE007, s2 := 0x10, s3 := 0x0, s4 := 0x0, s5 := 0x8050 },
      .vdrn { ga := 5, gb := 0, comb := 0, hint := 0, chain := 0, yield := 0, stall := 0, tag := 1, eh := 0, ew := 0, s1 := 0xE007, s2 := 0xD002, s3 := 0x0, s4 := 0x4004, s5 := 0x8120 },
      .vscan { ga := 5, gb := 0, comb := 0, hint := 0, chain := 0, yield := 0, stall := 0, tag := 1, eh := 1, ew := 1, s1 := 0xE007, s2 := 0x10, s3 := 0x0, s4 := 0x0, s5 := 0x80C0 },
      .vstr { ga := 5, gb := 0, comb := 0, hint := 0, chain := 0, yield := 0, stall := 0, tag := 0, eh := 0, ew := 0, s1 := 0xE007, s2 := 0x8004, s3 := 0x8003, s4 := 0x0, s5 := 0x0 }] : List Instr).all (fun i => !i.wellFormed) = true := by decide

theorem test_illformed_slot13 :
    ([.vmrg { ga := 5, gb := 0, comb := 0, hint := 0, chain := 0, yield := 0, stall := 0, tag := 0, eh := 0, ew := 0, s1 := 0xE007, s2 := 0xD803, s3 := 0x8004, s4 := 0x0, s5 := 0x0 },
      .vcar { ga := 5, gb := 0, comb := 0, hint := 0, chain := 0, yield := 0, stall := 0, tag := 0, eh := 0, ew := 0, s1 := 0xE007, s2 := 0xD80C, s3 := 0x0, s4 := 0x0, s5 := 0x0 },
      .vjoin { ga := 5, gb := 0, comb := 0, hint := 0, chain := 0, yield := 0, stall := 0, tag := 0, eh := 0, ew := 0, s1 := 0xE007, s2 := 0x8FFF, s3 := 0x803F, s4 := 0x0, s5 := 0x0 },
      .vcfg { ga := 5, gb := 0, comb := 0, hint := 0, chain := 0, yield := 0, stall := 0, tag := 0, eh := 0, ew := 0, s1 := 0xE007, s2 := 0x0, s3 := 0x0, s4 := 0x0, s5 := 0x0 },
      .vrun { ga := 5, gb := 0, comb := 0, hint := 0, chain := 0, yield := 0, stall := 0, tag := 0, eh := 1, ew := 1, s1 := 0xE007, s2 := 0xD803, s3 := 0xBFFF, s4 := 0x0, s5 := 0x0 },
      .cvt { ga := 5, gb := 0, comb := 0, hint := 0, chain := 0, yield := 0, stall := 0, tag := 2, eh := 1, ew := 1, s1 := 0xE007, s2 := 0x10, s3 := 0x9234, s4 := 0x8025, s5 := 0x0 },
      .cvtSat { ga := 5, gb := 0, comb := 0, hint := 0, chain := 0, yield := 0, stall := 0, tag := 6, eh := 1, ew := 1, s1 := 0xE007, s2 := 0x10, s3 := 0x8000, s4 := 0x8058, s5 := 0x803F },
      .qblk { ga := 5, gb := 0, comb := 0, hint := 0, chain := 0, yield := 0, stall := 0, tag := 6, eh := 1, ew := 1, s1 := 0xE007, s2 := 0x10, s3 := 0x8003, s4 := 0x8060, s5 := 0x0 },
      .dqblk { ga := 5, gb := 0, comb := 0, hint := 0, chain := 0, yield := 0, stall := 0, tag := 2, eh := 1, ew := 1, s1 := 0xE007, s2 := 0x10, s3 := 0x8003, s4 := 0x80C0, s5 := 0x0 },
      .pack6 { ga := 5, gb := 0, comb := 0, hint := 0, chain := 0, yield := 0, stall := 0, tag := 7, eh := 1, ew := 1, s1 := 0xE007, s2 := 0x10, s3 := 0x0, s4 := 0x0, s5 := 0x0 },
      .unpk6 { ga := 5, gb := 0, comb := 0, hint := 0, chain := 0, yield := 0, stall := 0, tag := 7, eh := 1, ew := 1, s1 := 0xE007, s2 := 0x10, s3 := 0x0, s4 := 0x0, s5 := 0x0 },
      .falFill { ga := 5, gb := 0, comb := 0, hint := 0, chain := 0, yield := 0, stall := 0, tag := 2, eh := 1, ew := 1, s1 := 0xE007, s2 := 0x4005, s3 := 0xBFFF, s4 := 0x0, s5 := 0x0 }] : List Instr).all (fun i => !i.wellFormed) = true := by decide

theorem test_illformed_slot14 :
    ([.falTest { ga := 5, gb := 0, comb := 0, hint := 0, chain := 0, yield := 0, stall := 0, tag := 0, eh := 1, ew := 1, s1 := 0xE007, s2 := 0x10, s3 := 0xE007, s4 := 0x0, s5 := 0x0 },
      .tagSet { ga := 5, gb := 0, comb := 0, hint := 0, chain := 0, yield := 0, stall := 0, tag := 17, eh := 1, ew := 1, s1 := 0xE007, s2 := 0x0, s3 := 0x0, s4 := 0x0, s5 := 0x0 },
      .mls { ga := 5, gb := 0, comb := 0, hint := 0, chain := 0, yield := 0, stall := 0, tag := 2, eh := 0, ew := 0, s1 := 0xE007, s2 := 0x0, s3 := 0x0, s4 := 0x0, s5 := 0x0 },
      .mswp { ga := 5, gb := 0, comb := 0, hint := 0, chain := 0, yield := 0, stall := 0, tag := 0, eh := 0, ew := 0, s1 := 0xE007, s2 := 0x0, s3 := 0x0, s4 := 0x0, s5 := 0x0 },
      .mst { ga := 5, gb := 0, comb := 0, hint := 0, chain := 0, yield := 0, stall := 0, tag := 2, eh := 0, ew := 0, s1 := 0xE007, s2 := 0xD804, s3 := 0x801F, s4 := 0x8008, s5 := 0x8020 },
      .msc { ga := 5, gb := 0, comb := 0, hint := 0, chain := 0, yield := 0, stall := 0, tag := 3, eh := 0, ew := 0, s1 := 0xE007, s2 := 0xD802, s3 := 0xDC3F, s4 := 0x4008, s5 := 0x0 },
      .mnm { ga := 5, gb := 0, comb := 0, hint := 0, chain := 0, yield := 0, stall := 0, tag := 8, eh := 1, ew := 1, s1 := 0xE007, s2 := 0x10, s3 := 0x18, s4 := 0x8000, s5 := 0x8003 },
      .mintDot { ga := 5, gb := 0, comb := 0, hint := 0, chain := 0, yield := 0, stall := 0, tag := 5, eh := 0, ew := 0, s1 := 0xE007, s2 := 0xD801, s3 := 0xD802, s4 := 0xDC03, s5 := 0xDC04 },
      .mdr { ga := 5, gb := 0, comb := 0, hint := 0, chain := 0, yield := 0, stall := 0, tag := 2, eh := 1, ew := 1, s1 := 0xE007, s2 := 0xC801, s3 := 0x8010, s4 := 0x4009, s5 := 0x8000 },
      .mclr { ga := 5, gb := 0, comb := 0, hint := 0, chain := 0, yield := 0, stall := 0, tag := 0, eh := 0, ew := 0, s1 := 0xE007, s2 := 0x0, s3 := 0x0, s4 := 0x0, s5 := 0x0 },
      .mintCnt { ga := 5, gb := 0, comb := 0, hint := 0, chain := 0, yield := 0, stall := 0, tag := 13, eh := 0, ew := 0, s1 := 0xE007, s2 := 0xD801, s3 := 0xDC02, s4 := 0x0, s5 := 0x0 },
      .mintScan { ga := 5, gb := 0, comb := 0, hint := 0, chain := 0, yield := 0, stall := 0, tag := 15, eh := 1, ew := 1, s1 := 0xE007, s2 := 0xD803, s3 := 0x8064, s4 := 0x0, s5 := 0x0 }] : List Instr).all (fun i => !i.wellFormed) = true := by decide

theorem test_illformed_slot15 :
    ([.vld { ga := 5, gb := 0, comb := 0, hint := 0, chain := 0, yield := 0, stall := 0, tag := 2, eh := 1, ew := 1, s1 := 0xE007, s2 := 0x4005, s3 := 0xBFFF, s4 := 0xC0C0, s5 := 0xE040 },
      .vst { ga := 5, gb := 0, comb := 0, hint := 0, chain := 0, yield := 0, stall := 0, tag := 0, eh := 1, ew := 1, s1 := 0xE007, s2 := 0x4005, s3 := 0x4006, s4 := 0x0, s5 := 0x0 },
      .tld { ga := 5, gb := 0, comb := 0, hint := 0, chain := 0, yield := 0, stall := 0, tag := 8, eh := 0, ew := 0, s1 := 0xE007, s2 := 0x4005, s3 := 0x8040, s4 := 0x0, s5 := 0x0 },
      .tst { ga := 5, gb := 0, comb := 0, hint := 0, chain := 0, yield := 0, stall := 0, tag := 0, eh := 0, ew := 0, s1 := 0xE007, s2 := 0x4005, s3 := 0x0, s4 := 0xC0C0, s5 := 0xE040 },
      .sbld { ga := 5, gb := 0, comb := 0, hint := 0, chain := 0, yield := 0, stall := 0, tag := 1, eh := 1, ew := 1, s1 := 0xE007, s2 := 0x4005, s3 := 0x0, s4 := 0x0, s5 := 0x0 },
      .sbst { ga := 5, gb := 0, comb := 0, hint := 0, chain := 0, yield := 0, stall := 0, tag := 1, eh := 1, ew := 1, s1 := 0xE007, s2 := 0x4005, s3 := 0x0, s4 := 0x0, s5 := 0x0 },
      .sbclr { ga := 5, gb := 0, comb := 0, hint := 0, chain := 0, yield := 0, stall := 0, tag := 0, eh := 0, ew := 0, s1 := 0xE007, s2 := 0xBFFF, s3 := 0x0, s4 := 0x0, s5 := 0x0 },
      .vamo { ga := 5, gb := 0, comb := 0, hint := 0, chain := 0, yield := 0, stall := 0, tag := 1, eh := 1, ew := 1, s1 := 0xE007, s2 := 0x8, s3 := 0x10, s4 := 0x8060, s5 := 0xD802 },
      .cpy { ga := 5, gb := 0, comb := 0, hint := 0, chain := 0, yield := 0, stall := 0, tag := 0, eh := 0, ew := 0, s1 := 0xE007, s2 := 0x4006, s3 := 0x9000, s4 := 0xDC0C, s5 := 0x400A },
      .cpym { ga := 5, gb := 0, comb := 0, hint := 0, chain := 0, yield := 0, stall := 0, tag := 0, eh := 0, ew := 0, s1 := 0xE007, s2 := 0x4006, s3 := 0x4007, s4 := 0x0, s5 := 0xD803 } 0,
      .mcst { ga := 5, gb := 0, comb := 0, hint := 0, chain := 0, yield := 0, stall := 0, tag := 0, eh := 0, ew := 0, s1 := 0xE007, s2 := 0x4006, s3 := 0x8040, s4 := 0xDC09, s5 := 0x401E },
      .gath { ga := 5, gb := 0, comb := 0, hint := 0, chain := 0, yield := 0, stall := 0, tag := 2, eh := 0, ew := 0, s1 := 0xE007, s2 := 0x4005, s3 := 0x8, s4 := 0x4006, s5 := 0x80C3 }] : List Instr).all (fun i => !i.wellFormed) = true := by decide

theorem test_illformed_slot16 :
    ([.scat { ga := 5, gb := 0, comb := 0, hint := 0, chain := 0, yield := 0, stall := 0, tag := 2, eh := 0, ew := 0, s1 := 0xE007, s2 := 0xD808, s3 := 0x10, s4 := 0x0, s5 := 0x8113 },
      .agc { ga := 5, gb := 0, comb := 0, hint := 0, chain := 0, yield := 0, stall := 0, tag := 0, eh := 0, ew := 0, s1 := 0xE007, s2 := 0x4005, s3 := 0x0, s4 := 0x0, s5 := 0x0 },
      .seg { ga := 5, gb := 0, comb := 0, hint := 0, chain := 0, yield := 0, stall := 0, tag := 0, eh := 0, ew := 0, s1 := 0xE007, s2 := 0x4005, s3 := 0xBFFF, s4 := 0x0, s5 := 0x0 },
      .walk { ga := 5, gb := 0, comb := 0, hint := 0, chain := 0, yield := 0, stall := 0, tag := 1, eh := 0, ew := 0, s1 := 0xE007, s2 := 0x4006, s3 := 0x8, s4 := 0xBFFF, s5 := 0xD807 },
      .gld { ga := 5, gb := 0, comb := 0, hint := 0, chain := 0, yield := 0, stall := 0, tag := 0, eh := 0, ew := 0, s1 := 0xE007, s2 := 0x4008, s3 := 0x0, s4 := 0x0, s5 := 0x0 },
      .gsh { ga := 5, gb := 0, comb := 0, hint := 0, chain := 0, yield := 0, stall := 0, tag := 0, eh := 0, ew := 0, s1 := 0xE007, s2 := 0x400A, s3 := 0xD809, s4 := 0x0, s5 := 0x0 },
      .grot { ga := 5, gb := 0, comb := 0, hint := 0, chain := 0, yield := 0, stall := 0, tag := 0, eh := 0, ew := 0, s1 := 0xE007, s2 := 0xD809, s3 := 0x0, s4 := 0x0, s5 := 0x0 },
      .gdep { ga := 5, gb := 0, comb := 0, hint := 0, chain := 0, yield := 0, stall := 0, tag := 0, eh := 0, ew := 0, s1 := 0xE007, s2 := 0x8040, s3 := 0x0, s4 := 0x0, s5 := 0x0 },
      .gstr { ga := 5, gb := 0, comb := 0, hint := 0, chain := 0, yield := 0, stall := 0, tag := 0, eh := 0, ew := 0, s1 := 0xE007, s2 := 0x0, s3 := 0x0, s4 := 0x0, s5 := 0x0 },
      .gstp { ga := 5, gb := 0, comb := 0, hint := 0, chain := 0, yield := 0, stall := 0, tag := 0, eh := 0, ew := 0, s1 := 0xE007, s2 := 0x0, s3 := 0x0, s4 := 0x0, s5 := 0x0 },
      .gsw { ga := 5, gb := 0, comb := 0, hint := 0, chain := 0, yield := 0, stall := 0, tag := 0, eh := 0, ew := 0, s1 := 0xE007, s2 := 0xD809, s3 := 0x0, s4 := 0x0, s5 := 0x0 }] : List Instr).all (fun i => !i.wellFormed) = true := by decide

theorem test_wellformed0 :
    ([.vadd { ga := 5, gb := 0, comb := 0, hint := 0, chain := 0, yield := 0, stall := 0, tag := 2, eh := 1, ew := 1, s1 := 0x8, s2 := 0x10, s3 := 0x18, s4 := 0x0, s5 := 0x8005 },
      .vsub { ga := 5, gb := 0, comb := 0, hint := 0, chain := 0, yield := 0, stall := 0, tag := 1, eh := 1, ew := 1, s1 := 0x8, s2 := 0x10, s3 := 0x4009, s4 := 0x0, s5 := 0x8000 },
      .vmul { ga := 5, gb := 0, comb := 0, hint := 0, chain := 0, yield := 0, stall := 0, tag := 3, eh := 1, ew := 1, s1 := 0x8, s2 := 0x10, s3 := 0xBFFF, s4 := 0x0, s5 := 0x8002 },
      .vfma { ga := 5, gb := 0, comb := 0, hint := 0, chain := 0, yield := 0, stall := 0, tag := 1, eh := 1, ew := 1, s1 := 0x8, s2 := 0x10, s3 := 0x18, s4 := 0x20, s5 := 0x8001 },
      .vfms { ga := 5, gb := 0, comb := 0, hint := 0, chain := 0, yield := 0, stall := 0, tag := 3, eh := 1, ew := 1, s1 := 0x8, s2 := 0x10, s3 := 0x4003, s4 := 0x8007, s5 := 0x8003 },
      .vmin { ga := 5, gb := 0, comb := 0, hint := 0, chain := 0, yield := 0, stall := 0, tag := 8, eh := 1, ew := 1, s1 := 0x8, s2 := 0x10, s3 := 0x18, s4 := 0x0, s5 := 0x8008 },
      .vmax { ga := 5, gb := 0, comb := 0, hint := 0, chain := 0, yield := 0, stall := 0, tag := 9, eh := 1, ew := 1, s1 := 0x8, s2 := 0x10, s3 := 0x18, s4 := 0x0, s5 := 0x8000 },
      .vabs { ga := 5, gb := 0, comb := 0, hint := 0, chain := 0, yield := 0, stall := 0, tag := 2, eh := 1, ew := 1, s1 := 0x8, s2 := 0x10, s3 := 0x0, s4 := 0x0, s5 := 0x8000 },
      .vneg { ga := 5, gb := 0, comb := 0, hint := 0, chain := 0, yield := 0, stall := 0, tag := 1, eh := 1, ew := 1, s1 := 0x8, s2 := 0x10, s3 := 0x0, s4 := 0x0, s5 := 0x8000 },
      .vclamp { ga := 5, gb := 0, comb := 0, hint := 0, chain := 0, yield := 0, stall := 0, tag := 2, eh := 1, ew := 1, s1 := 0x8, s2 := 0x10, s3 := 0x4001, s4 := 0x28, s5 := 0x8000 },
      .vand { ga := 5, gb := 0, comb := 0, hint := 0, chain := 0, yield := 0, stall := 0, tag := 0, eh := 1, ew := 1, s1 := 0x8, s2 := 0x10, s3 := 0x18, s4 := 0x0, s5 := 0x8000 },
      .vor { ga := 5, gb := 0, comb := 0, hint := 0, chain := 0, yield := 0, stall := 0, tag := 0, eh := 1, ew := 1, s1 := 0x8, s2 := 0x10, s3 := 0x4002, s4 := 0x0, s5 := 0x8000 },
      .vxor { ga := 5, gb := 0, comb := 0, hint := 0, chain := 0, yield := 0, stall := 0, tag := 0, eh := 1, ew := 1, s1 := 0x8, s2 := 0x10, s3 := 0x9FFF, s4 := 0x0, s5 := 0x8000 },
      .vnot { ga := 5, gb := 0, comb := 0, hint := 0, chain := 0, yield := 0, stall := 0, tag := 0, eh := 1, ew := 1, s1 := 0x8, s2 := 0x10, s3 := 0x0, s4 := 0x0, s5 := 0x8000 },
      .vshl { ga := 5, gb := 0, comb := 0, hint := 0, chain := 0, yield := 0, stall := 0, tag := 10, eh := 1, ew := 1, s1 := 0x8, s2 := 0x10, s3 := 0x803F, s4 := 0x0, s5 := 0x8000 },
      .vshr { ga := 5, gb := 0, comb := 0, hint := 0, chain := 0, yield := 0, stall := 0, tag := 10, eh := 1, ew := 1, s1 := 0x8, s2 := 0x10, s3 := 0x401F, s4 := 0x0, s5 := 0x8000 },
      .vsra { ga := 5, gb := 0, comb := 0, hint := 0, chain := 0, yield := 0, stall := 0, tag := 10, eh := 1, ew := 1, s1 := 0x8, s2 := 0x10, s3 := 0x18, s4 := 0x0, s5 := 0x8000 },
      .vcmp { ga := 5, gb := 0, comb := 0, hint := 0, chain := 0, yield := 0, stall := 0, tag := 1, eh := 1, ew := 1, s1 := 0x8, s2 := 0x10, s3 := 0x18, s4 := 0x0, s5 := 0x80A0 },
      .vsel { ga := 5, gb := 0, comb := 0, hint := 0, chain := 0, yield := 0, stall := 0, tag := 0, eh := 1, ew := 1, s1 := 0x8, s2 := 0x10, s3 := 0x18, s4 := 0x20, s5 := 0x8000 },
      .vmov { ga := 5, gb := 0, comb := 0, hint := 0, chain := 0, yield := 0, stall := 0, tag := 0, eh := 1, ew := 1, s1 := 0x8, s2 := 0x10, s3 := 0x0, s4 := 0x0, s5 := 0x8000 },
      .vbcast { ga := 5, gb := 0, comb := 0, hint := 0, chain := 0, yield := 0, stall := 0, tag := 1, eh := 1, ew := 1, s1 := 0x8, s2 := 0x4007, s3 := 0x0, s4 := 0x0, s5 := 0x8000 }] : List Instr).all (fun i => i.wellFormed) = true := by decide

theorem test_wellformed1 :
    ([.vperm { ga := 5, gb := 0, comb := 0, hint := 0, chain := 0, yield := 0, stall := 0, tag := 2, eh := 1, ew := 1, s1 := 0x8, s2 := 0x10, s3 := 0x18, s4 := 0x0, s5 := 0x8000 },
      .vshf { ga := 5, gb := 0, comb := 0, hint := 0, chain := 0, yield := 0, stall := 0, tag := 2, eh := 1, ew := 1, s1 := 0x8, s2 := 0x10, s3 := 0xBFC1, s4 := 0x0, s5 := 0x8000 },
      .vrcp { ga := 5, gb := 0, comb := 0, hint := 0, chain := 0, yield := 0, stall := 0, tag := 1, eh := 1, ew := 1, s1 := 0x8, s2 := 0x10, s3 := 0x0, s4 := 0x0, s5 := 0x8000 },
      .vrsq { ga := 5, gb := 0, comb := 0, hint := 0, chain := 0, yield := 0, stall := 0, tag := 1, eh := 1, ew := 1, s1 := 0x8, s2 := 0x10, s3 := 0x0, s4 := 0x0, s5 := 0x8001 },
      .vsqrt { ga := 5, gb := 0, comb := 0, hint := 0, chain := 0, yield := 0, stall := 0, tag := 1, eh := 1, ew := 1, s1 := 0x8, s2 := 0x10, s3 := 0x0, s4 := 0x0, s5 := 0x8002 },
      .vexp2 { ga := 5, gb := 0, comb := 0, hint := 0, chain := 0, yield := 0, stall := 0, tag := 2, eh := 1, ew := 1, s1 := 0x8, s2 := 0x10, s3 := 0x0, s4 := 0x0, s5 := 0x8003 },
      .vlog2 { ga := 5, gb := 0, comb := 0, hint := 0, chain := 0, yield := 0, stall := 0, tag := 2, eh := 1, ew := 1, s1 := 0x8, s2 := 0x10, s3 := 0x0, s4 := 0x0, s5 := 0x8004 },
      .vtanh { ga := 5, gb := 0, comb := 0, hint := 0, chain := 0, yield := 0, stall := 0, tag := 2, eh := 1, ew := 1, s1 := 0x8, s2 := 0x10, s3 := 0x0, s4 := 0x0, s5 := 0x8005 },
      .vsgm { ga := 5, gb := 0, comb := 0, hint := 0, chain := 0, yield := 0, stall := 0, tag := 2, eh := 1, ew := 1, s1 := 0x8, s2 := 0x10, s3 := 0x0, s4 := 0x0, s5 := 0x8000 },
      .vsin { ga := 5, gb := 0, comb := 0, hint := 0, chain := 0, yield := 0, stall := 0, tag := 2, eh := 1, ew := 1, s1 := 0x8, s2 := 0x10, s3 := 0x0, s4 := 0x0, s5 := 0x8000 },
      .vred { ga := 5, gb := 0, comb := 0, hint := 0, chain := 0, yield := 0, stall := 0, tag := 1, eh := 1, ew := 1, s1 := 0xD005, s2 := 0x10, s3 := 0x0, s4 := 0x0, s5 := 0x8020 },
      .vacc { ga := 5, gb := 0, comb := 0, hint := 0, chain := 0, yield := 0, stall := 0, tag := 2, eh := 1, ew := 1, s1 := 0xD00F, s2 := 0x10, s3 := 0x0, s4 := 0x0, s5 := 0x8050 },
      .vdrn { ga := 5, gb := 0, comb := 0, hint := 0, chain := 0, yield := 0, stall := 0, tag := 1, eh := 0, ew := 0, s1 := 0x8, s2 := 0xD002, s3 := 0x0, s4 := 0x4004, s5 := 0x8120 },
      .vscan { ga := 5, gb := 0, comb := 0, hint := 0, chain := 0, yield := 0, stall := 0, tag := 1, eh := 1, ew := 1, s1 := 0x8, s2 := 0x10, s3 := 0x0, s4 := 0x0, s5 := 0x80C0 },
      .vstr { ga := 5, gb := 0, comb := 0, hint := 0, chain := 0, yield := 0, stall := 0, tag := 0, eh := 0, ew := 0, s1 := 0x8002, s2 := 0x8004, s3 := 0x8003, s4 := 0x0, s5 := 0x0 },
      .vmrg { ga := 5, gb := 0, comb := 0, hint := 0, chain := 0, yield := 0, stall := 0, tag := 0, eh := 0, ew := 0, s1 := 0x8006, s2 := 0xD803, s3 := 0x8004, s4 := 0x0, s5 := 0x0 },
      .vcar { ga := 5, gb := 0, comb := 0, hint := 0, chain := 0, yield := 0, stall := 0, tag := 0, eh := 0, ew := 0, s1 := 0x8005, s2 := 0xD80C, s3 := 0x0, s4 := 0x0, s5 := 0x0 },
      .vjoin { ga := 5, gb := 0, comb := 0, hint := 0, chain := 0, yield := 0, stall := 0, tag := 0, eh := 0, ew := 0, s1 := 0x8005, s2 := 0x8FFF, s3 := 0x803F, s4 := 0x0, s5 := 0x0 },
      .vcfg { ga := 5, gb := 0, comb := 0, hint := 0, chain := 0, yield := 0, stall := 0, tag := 0, eh := 0, ew := 0, s1 := 0x4011, s2 := 0x0, s3 := 0x0, s4 := 0x0, s5 := 0x0 },
      .vrun { ga := 5, gb := 0, comb := 0, hint := 0, chain := 0, yield := 0, stall := 0, tag := 0, eh := 1, ew := 1, s1 := 0x8, s2 := 0xD803, s3 := 0xBFFF, s4 := 0x0, s5 := 0x0 },
      .cvt { ga := 5, gb := 0, comb := 0, hint := 0, chain := 0, yield := 0, stall := 0, tag := 2, eh := 1, ew := 1, s1 := 0x8, s2 := 0x10, s3 := 0x9234, s4 := 0x8025, s5 := 0x0 }] : List Instr).all (fun i => i.wellFormed) = true := by decide

theorem test_wellformed2 :
    ([.cvtSat { ga := 5, gb := 0, comb := 0, hint := 0, chain := 0, yield := 0, stall := 0, tag := 6, eh := 1, ew := 1, s1 := 0x8, s2 := 0x10, s3 := 0x8000, s4 := 0x8058, s5 := 0x803F },
      .qblk { ga := 5, gb := 0, comb := 0, hint := 0, chain := 0, yield := 0, stall := 0, tag := 6, eh := 1, ew := 1, s1 := 0x8, s2 := 0x10, s3 := 0x8003, s4 := 0x8060, s5 := 0x0 },
      .dqblk { ga := 5, gb := 0, comb := 0, hint := 0, chain := 0, yield := 0, stall := 0, tag := 2, eh := 1, ew := 1, s1 := 0x8, s2 := 0x10, s3 := 0x8003, s4 := 0x80C0, s5 := 0x0 },
      .pack6 { ga := 5, gb := 0, comb := 0, hint := 0, chain := 0, yield := 0, stall := 0, tag := 7, eh := 1, ew := 1, s1 := 0x8, s2 := 0x10, s3 := 0x0, s4 := 0x0, s5 := 0x0 },
      .unpk6 { ga := 5, gb := 0, comb := 0, hint := 0, chain := 0, yield := 0, stall := 0, tag := 7, eh := 1, ew := 1, s1 := 0x8, s2 := 0x10, s3 := 0x0, s4 := 0x0, s5 := 0x0 },
      .falFill { ga := 5, gb := 0, comb := 0, hint := 0, chain := 0, yield := 0, stall := 0, tag := 2, eh := 1, ew := 1, s1 := 0x8, s2 := 0x4005, s3 := 0xBFFF, s4 := 0x0, s5 := 0x0 },
      .falTest { ga := 5, gb := 0, comb := 0, hint := 0, chain := 0, yield := 0, stall := 0, tag := 0, eh := 1, ew := 1, s1 := 0x4006, s2 := 0x10, s3 := 0xE007, s4 := 0x0, s5 := 0x0 },
      .tagSet { ga := 5, gb := 0, comb := 0, hint := 0, chain := 0, yield := 0, stall := 0, tag := 17, eh := 1, ew := 1, s1 := 0x8, s2 := 0x0, s3 := 0x0, s4 := 0x0, s5 := 0x0 },
      .mls { ga := 5, gb := 0, comb := 0, hint := 0, chain := 0, yield := 0, stall := 0, tag := 2, eh := 0, ew := 0, s1 := 0xD809, s2 := 0x0, s3 := 0x0, s4 := 0x0, s5 := 0x0 },
      .mswp { ga := 5, gb := 0, comb := 0, hint := 0, chain := 0, yield := 0, stall := 0, tag := 0, eh := 0, ew := 0, s1 := 0x0, s2 := 0x0, s3 := 0x0, s4 := 0x0, s5 := 0x0 },
      .mst { ga := 5, gb := 0, comb := 0, hint := 0, chain := 0, yield := 0, stall := 0, tag := 2, eh := 0, ew := 0, s1 := 0xC803, s2 := 0xD804, s3 := 0x801F, s4 := 0x8008, s5 := 0x8020 },
      .msc { ga := 5, gb := 0, comb := 0, hint := 0, chain := 0, yield := 0, stall := 0, tag := 3, eh := 0, ew := 0, s1 := 0xC801, s2 := 0xD802, s3 := 0xDC3F, s4 := 0x4008, s5 := 0x0 },
      .mnm { ga := 5, gb := 0, comb := 0, hint := 0, chain := 0, yield := 0, stall := 0, tag := 8, eh := 1, ew := 1, s1 := 0xC800, s2 := 0x10, s3 := 0x18, s4 := 0x8000, s5 := 0x8003 },
      .mintDot { ga := 5, gb := 0, comb := 0, hint := 0, chain := 0, yield := 0, stall := 0, tag := 5, eh := 0, ew := 0, s1 := 0xC802, s2 := 0xD801, s3 := 0xD802, s4 := 0xDC03, s5 := 0xDC04 },
      .mdr { ga := 5, gb := 0, comb := 0, hint := 0, chain := 0, yield := 0, stall := 0, tag := 2, eh := 1, ew := 1, s1 := 0x8, s2 := 0xC801, s3 := 0x8010, s4 := 0x4009, s5 := 0x8000 },
      .mclr { ga := 5, gb := 0, comb := 0, hint := 0, chain := 0, yield := 0, stall := 0, tag := 0, eh := 0, ew := 0, s1 := 0x800F, s2 := 0x0, s3 := 0x0, s4 := 0x0, s5 := 0x0 },
      .mintCnt { ga := 5, gb := 0, comb := 0, hint := 0, chain := 0, yield := 0, stall := 0, tag := 13, eh := 0, ew := 0, s1 := 0xD80F, s2 := 0xD801, s3 := 0xDC02, s4 := 0x0, s5 := 0x0 },
      .mintScan { ga := 5, gb := 0, comb := 0, hint := 0, chain := 0, yield := 0, stall := 0, tag := 15, eh := 1, ew := 1, s1 := 0x8, s2 := 0xD803, s3 := 0x8064, s4 := 0x0, s5 := 0x0 },
      .vld { ga := 5, gb := 0, comb := 0, hint := 0, chain := 0, yield := 0, stall := 0, tag := 2, eh := 1, ew := 1, s1 := 0x8, s2 := 0x4005, s3 := 0xBFFF, s4 := 0xC0C0, s5 := 0xE040 },
      .vst { ga := 5, gb := 0, comb := 0, hint := 0, chain := 0, yield := 0, stall := 0, tag := 0, eh := 1, ew := 1, s1 := 0x8, s2 := 0x4005, s3 := 0x4006, s4 := 0x0, s5 := 0x0 },
      .tld { ga := 5, gb := 0, comb := 0, hint := 0, chain := 0, yield := 0, stall := 0, tag := 8, eh := 0, ew := 0, s1 := 0xC00F, s2 := 0x4005, s3 := 0x8040, s4 := 0x0, s5 := 0x0 }] : List Instr).all (fun i => i.wellFormed) = true := by decide

theorem test_wellformed3 :
    ([.tst { ga := 5, gb := 0, comb := 0, hint := 0, chain := 0, yield := 0, stall := 0, tag := 0, eh := 0, ew := 0, s1 := 0xC003, s2 := 0x4005, s3 := 0x0, s4 := 0xC0C0, s5 := 0xE040 },
      .sbld { ga := 5, gb := 0, comb := 0, hint := 0, chain := 0, yield := 0, stall := 0, tag := 1, eh := 1, ew := 1, s1 := 0x8, s2 := 0x4005, s3 := 0x0, s4 := 0x0, s5 := 0x0 },
      .sbst { ga := 5, gb := 0, comb := 0, hint := 0, chain := 0, yield := 0, stall := 0, tag := 1, eh := 1, ew := 1, s1 := 0x8, s2 := 0x4005, s3 := 0x0, s4 := 0x0, s5 := 0x0 },
      .sbclr { ga := 5, gb := 0, comb := 0, hint := 0, chain := 0, yield := 0, stall := 0, tag := 0, eh := 0, ew := 0, s1 := 0x4005, s2 := 0xBFFF, s3 := 0x0, s4 := 0x0, s5 := 0x0 },
      .vamo { ga := 5, gb := 0, comb := 0, hint := 0, chain := 0, yield := 0, stall := 0, tag := 1, eh := 1, ew := 1, s1 := 0x4005, s2 := 0x8, s3 := 0x10, s4 := 0x8060, s5 := 0xD802 },
      .cpy { ga := 5, gb := 0, comb := 0, hint := 0, chain := 0, yield := 0, stall := 0, tag := 0, eh := 0, ew := 0, s1 := 0x4005, s2 := 0x4006, s3 := 0x9000, s4 := 0xDC0C, s5 := 0x400A },
      .cpym { ga := 5, gb := 0, comb := 0, hint := 0, chain := 0, yield := 0, stall := 0, tag := 0, eh := 0, ew := 0, s1 := 0xDC05, s2 := 0x4006, s3 := 0x4007, s4 := 0x0, s5 := 0xD803 } 0,
      .mcst { ga := 5, gb := 0, comb := 0, hint := 0, chain := 0, yield := 0, stall := 0, tag := 0, eh := 0, ew := 0, s1 := 0x4005, s2 := 0x4006, s3 := 0x8040, s4 := 0xDC09, s5 := 0x401E },
      .gath { ga := 5, gb := 0, comb := 0, hint := 0, chain := 0, yield := 0, stall := 0, tag := 2, eh := 0, ew := 0, s1 := 0xD807, s2 := 0x4005, s3 := 0x8, s4 := 0x4006, s5 := 0x80C3 },
      .scat { ga := 5, gb := 0, comb := 0, hint := 0, chain := 0, yield := 0, stall := 0, tag := 2, eh := 0, ew := 0, s1 := 0x4005, s2 := 0xD808, s3 := 0x10, s4 := 0x0, s5 := 0x8113 },
      .agc { ga := 5, gb := 0, comb := 0, hint := 0, chain := 0, yield := 0, stall := 0, tag := 0, eh := 0, ew := 0, s1 := 0x8003, s2 := 0x4005, s3 := 0x0, s4 := 0x0, s5 := 0x0 },
      .seg { ga := 5, gb := 0, comb := 0, hint := 0, chain := 0, yield := 0, stall := 0, tag := 0, eh := 0, ew := 0, s1 := 0x8002, s2 := 0x4005, s3 := 0xBFFF, s4 := 0x0, s5 := 0x0 },
      .walk { ga := 5, gb := 0, comb := 0, hint := 0, chain := 0, yield := 0, stall := 0, tag := 1, eh := 0, ew := 0, s1 := 0x4005, s2 := 0x4006, s3 := 0x8, s4 := 0xBFFF, s5 := 0xD807 },
      .gld { ga := 5, gb := 0, comb := 0, hint := 0, chain := 0, yield := 0, stall := 0, tag := 0, eh := 0, ew := 0, s1 := 0x8003, s2 := 0x4008, s3 := 0x0, s4 := 0x0, s5 := 0x0 },
      .gsh { ga := 5, gb := 0, comb := 0, hint := 0, chain := 0, yield := 0, stall := 0, tag := 0, eh := 0, ew := 0, s1 := 0x8001, s2 := 0x400A, s3 := 0xD809, s4 := 0x0, s5 := 0x0 },
      .grot { ga := 5, gb := 0, comb := 0, hint := 0, chain := 0, yield := 0, stall := 0, tag := 0, eh := 0, ew := 0, s1 := 0x400A, s2 := 0xD809, s3 := 0x0, s4 := 0x0, s5 := 0x0 },
      .gdep { ga := 5, gb := 0, comb := 0, hint := 0, chain := 0, yield := 0, stall := 0, tag := 0, eh := 0, ew := 0, s1 := 0x8FFF, s2 := 0x8040, s3 := 0x0, s4 := 0x0, s5 := 0x0 },
      .gstr { ga := 5, gb := 0, comb := 0, hint := 0, chain := 0, yield := 0, stall := 0, tag := 0, eh := 0, ew := 0, s1 := 0x8001, s2 := 0x0, s3 := 0x0, s4 := 0x0, s5 := 0x0 },
      .gstp { ga := 5, gb := 0, comb := 0, hint := 0, chain := 0, yield := 0, stall := 0, tag := 0, eh := 0, ew := 0, s1 := 0xD809, s2 := 0x0, s3 := 0x0, s4 := 0x0, s5 := 0x0 },
      .gsw { ga := 5, gb := 0, comb := 0, hint := 0, chain := 0, yield := 0, stall := 0, tag := 0, eh := 0, ew := 0, s1 := 0x8002, s2 := 0xD809, s3 := 0x0, s4 := 0x0, s5 := 0x0 }] : List Instr).all (fun i => i.wellFormed) = true := by decide
/-! ### States to test on -/

/-- Tile 0 in a context that runs, its slot 0 RUNNING at pc 0. -/
def demo : State := { State.reset.placeContext.placeWord [] with focus := {} }
/-- The same, with its context changed. -/
def demoCtx (f : Context → Context) : State := demo.modCtx 0 f
/-- The same, with its tile changed. -/
def demoTile (f : Tile → Tile) : State := demo.modTile 0 f
/-- The same, with its slot changed. -/
def demoSlot (f : Slot → Slot) : State := demo.modCur f
/-- Firmware's mode. -/
def demoSys : State := { State.reset with sysMode := true }
/-- Look at the state an outcome goes on with. -/
def seen {α : Type} (o : Out) (f : State → α) : Option α := match o with | .next t => some (f t) | _ => none

theorem demo_ctx : demo.tileCtx 0 = some placedContext ∧ demo.ctx? 0 = some placedContext ∧ demo.ctxRuns placedContext = true ∧
    demo.canIssue 0 = true := by decide
theorem demo_pend : demo.cur.pendX = [] ∧ demo.cur.pendP = [] ∧ demo.cur.cls.isOpen = false ∧ demo.cur.pc = 0 ∧ demo.cur.status = .running := by decide
/-- A word of a task with no register outstanding and no clause open takes its effect, whatever it names. -/
theorem free_of (s : State) (xs : List XReg) (ps : List PReg) (g : PReg)
    (h : s.sysMode = false ∧ s.cur.cls.isOpen = false ∧ s.cur.pc.toNat + 4 ≤ 0xFFFC ∧ s.cur.pendX = [] ∧ s.cur.pendP = [] ∧ s.getP g = true) :
    s.taskFree g xs ps := by
  obtain ⟨h1, h2, h3, h4, h5, h6⟩ := h
  exact ⟨h1, .inr ⟨h2, h3⟩, h6, .inr ⟨fun r _ _ => by simp [h4], fun p _ _ => by simp [h5]⟩⟩
theorem demo_free (xs : List XReg) (ps : List PReg) : demo.taskFree 0 xs ps := free_of _ _ _ _ (by decide)
/-- So does a memory word, where no released command keeps it waiting. -/
theorem mem_of (s : State) (xs : List XReg) (ps : List PReg) (g : PReg)
    (h : s.sysMode = false ∧ s.cur.cls.isOpen = false ∧ s.cur.pc.toNat + 4 ≤ 0xFFFC ∧ s.cur.pendX = [] ∧ s.cur.pendP = [] ∧ s.getP g = true ∧
      s.memWaits = false) : s.memFree g xs ps :=
  ⟨free_of s xs ps g ⟨h.1, h.2.1, h.2.2.1, h.2.2.2.1, h.2.2.2.2.1, h.2.2.2.2.2.1⟩, h.2.2.2.2.2.2⟩
theorem demo_mem (xs : List XReg) (ps : List PReg) : demo.memFree 0 xs ps := mem_of _ _ _ _ (by decide)
/-- A transfer of such a task acts. -/
theorem transfer_of (s : State) (xs : List XReg) (ps : List PReg)
    (h : s.sysMode = false ∧ s.cur.cls.isOpen = false ∧ s.cur.pendX = [] ∧ s.cur.pendP = []) : s.transferFree xs ps := by
  obtain ⟨h1, h2, h4, h5⟩ := h
  exact ⟨h1, h2, fun r _ _ => by simp [h4], fun p _ _ => by simp [h5]⟩
/-- So does a command whose guard holds and whose port has room. -/
theorem command_of (s : State) (i : Instr) (c : Cmd) (xs : List XReg)
    (h : s.sysMode = false ∧ s.cur.cls.isOpen = false ∧ s.cur.pendX = [] ∧ s.cur.pendP = [] ∧ s.cur.pc.toNat + cmdLen i ≤ 0xFFFC ∧
      cmdGuard c s = true ∧ busyStop i c s.focus.tile s = none ∧ s.here.held = []) : s.commandFree i c xs := by
  obtain ⟨h1, h2, h3, h4, h5, h6, h7, h8⟩ := h
  exact ⟨h1, h2, h5, h6, ⟨fun r _ _ => by simp [h3], fun p _ _ => by simp [h4]⟩, h7, by simp [h8]⟩

/-! ### Scalar words -/

theorem witness_IntegerRegisterForms : demo.wordFree 0 [1, 2, 3] [] ∧ demoSys.wordFree 0 [31, 30, 29] [] :=
  ⟨(demo_free _ _).2, .inl (by decide), by decide, .inl (by decide)⟩
theorem witness_FalseGuardOnlyMovesPast : demo.sysMode = false ∧ demo.stands 4 ∧ demo.settled [] [5] ∧ demo.getP 5 = false :=
  ⟨by decide, (demo_free [] []).2.1, ⟨by simp, by simp [demo_pend]⟩, by decide⟩
theorem witness_ConstantsFieldsAndSelect : (0#6).toNat + ((63#6).toNat + 1) ≤ 64 ∧ (63#6).toNat + ((0#6).toNat + 1) ≤ 64 ∧
    demo.wordFree 0 [1, 2, 3] [4] ∧ demo.getP 4 = false := ⟨by decide, by decide, (demo_free _ _).2, by decide⟩

/-- R76's example: `div` of -7 by 2 is -3 with remainder -1; by 0 the quotient is all ones and the remainder the dividend. -/
theorem test_div : (seen (exec (.div 1 2 3 0) ((demo.setX 2 (-7)).setX 3 2)) (·.getX 1)) = some (-3) ∧
    (seen (exec (.rem 1 2 3 0) ((demo.setX 2 (-7)).setX 3 2)) (·.getX 1)) = some (-1) ∧
    (seen (exec (.divn 1 2 3 0) (demo.setX 2 7)) (·.getX 1)) = some 0xFFFFFFFFFFFFFFFF ∧
    (seen (exec (.remn 1 2 3 0) (demo.setX 2 7)) (·.getX 1)) = some 7 := by decide
/-- R76's second fixed case. -/
theorem test_div_overflow : (seen (exec (.div 1 2 3 0) ((demo.setX 2 0x8000000000000000).setX 3 (-1))) (·.getX 1)) = some 0x8000000000000000 ∧
    (seen (exec (.rem 1 2 3 0) ((demo.setX 2 0x8000000000000000).setX 3 (-1))) (·.getX 1)) = some 0 := by decide
/-- R75: sums wrap; rd may be a source; x0 keeps nothing. -/
theorem test_add : (seen (exec (.add 2 2 2 0) (demo.setX 2 0x8000000000000001)) fun t => (t.getX 2, t.cur.pc)) = some (2, 4) ∧
    (seen (exec (.add 0 2 2 0) (demo.setX 2 1)) (·.getX 0)) = some 0 := by decide
/-- R75: a shift takes the low six bits of its amount; `sra` keeps the sign. -/
theorem test_shifts : (seen (exec (.sll 1 2 3 0) ((demo.setX 2 3).setX 3 65)) (·.getX 1)) = some 6 ∧
    (seen (exec (.sra 1 2 3 0) ((demo.setX 2 (-8)).setX 3 1)) (·.getX 1)) = some (-4) ∧
    (seen (exec (.rol 1 2 3 0) ((demo.setX 2 0x8000000000000001).setX 3 1)) (·.getX 1)) = some 3 := by decide
/-- R75: the high words of -1 times -1, signed and unsigned. -/
theorem test_mulh : (seen (exec (.mulh 1 2 2 0) (demo.setX 2 (-1))) (·.getX 1)) = some 0 ∧
    (seen (exec (.mulhn 1 2 2 0) (demo.setX 2 (-1))) (·.getX 1)) = some 0xFFFFFFFFFFFFFFFE := by decide
/-- R75: counts of a zero word and of one bit. -/
theorem test_counts : (seen (exec (.clz 1 2 0) demo) (·.getX 1)) = some 64 ∧ (seen (exec (.ctz 1 2 0) (demo.setX 2 8)) (·.getX 1)) = some 3 ∧
    (seen (exec (.popc 1 2 0) (demo.setX 2 (-1))) (·.getX 1)) = some 64 := by decide
/-- R77: `andi rd, ra, -1` copies ra; `sltni rd, ra, -1` is 1 for every a but all ones. -/
theorem test_immediates : (seen (exec (.andi 1 2 0x1FFF 0) (demo.setX 2 0xDEADBEEF12345678)) (·.getX 1)) = some 0xDEADBEEF12345678 ∧
    (seen (exec (.sltni 1 2 0x1FFF 0) (demo.setX 2 (-2))) (·.getX 1)) = some 1 ∧
    (seen (exec (.sltni 1 2 0x1FFF 0) (demo.setX 2 (-1))) (·.getX 1)) = some 0 := by decide
/-- R79: `lui` shifts by twelve; `pcai` is relative to the pc and never traps. -/
theorem test_constants : (seen (exec (.lui 1 0x1FFFFF) demo) (·.getX 1)) = some (-4096) ∧
    (seen (exec (.pcai 1 0x1FFFFF) demo) (·.getX 1)) = some (-4) := by decide
/-- R80: a sign-extended field, and an insert into rd. -/
theorem test_fields : (seen (exec (.bfxS 1 2 4 3 0) (demo.setX 2 0xF0)) (·.getX 1)) = some (-1) ∧
    (seen (exec (.bfi 1 2 60 3 0) ((demo.setX 1 7).setX 2 0xFA)) (·.getX 1)) = some 0xA000000000000007 := by decide
/-- R83: `plog p4, p4, p0, nota` inverts p4. -/
theorem test_plog : (seen (exec (.plog 4 4 0 3 0) demo) (·.getP 4)) = some true ∧ (seen (exec (.plog 4 4 0 3 0) (demo.setP 4 true)) (·.getP 4)) = some false := by decide

/-! ### Transfers -/

theorem witness_TransfersGoToTheirTargets :
    demo.transferFree [1, 2] [] ∧ demo.getX 1 = demo.getX 2 ∧ demo.here.isTail 16 = false ∧
    (demoSlot fun k => { k with pc := 0xFFF8 }).transferFree [1, 2] [3] ∧ (demoSlot fun k => { k with pc := 0xFFF8 }).here.isTail 0xFFFC = false ∧
    ((0xFFF8 : Int) + 4 * (1#13).toInt = 0xFFFC) ∧ ((0 : Int) + 4 * (0x1FFF#13).toInt < 0) ∧ ((0xFFF8 : Int) + 4 * (2#13).toInt = 0x10000) ∧
    (demoTile fun T => { T with istore := [(19, 0xFC)] }).here.isTail 20 = true ∧ (demoTile fun T => { T with istore := [(19, 0xFC)] }).transferFree [1] [2] ∧
    demo.getP 1 = false ∧ demo.getP 0 = true :=
  ⟨transfer_of _ _ _ (by decide), by decide, by decide, transfer_of _ _ _ (by decide), by decide, by decide, by decide, by decide, by decide,
    transfer_of _ _ _ (by decide), by decide, by decide⟩
/-- R84: a taken branch, one that falls through, one whose target lies below the store. -/
theorem test_branches : (seen (exec (.bEq 1 2 4) demo) (·.cur.pc)) = some 16 ∧ (seen (exec (.bLt 1 2 4) demo) (·.cur.pc)) = some 4 ∧
    (seen (exec (.bGe 1 2 0x1FFF) demo) fun t => (t.cur.status, t.cur.pc, (t.cur.fault.map (·.code)))) = some (.faulted, 0, some .protect) := by decide
/-- R86, R87: the return address, and a misaligned target that leaves rd. -/
theorem test_jumps : (seen (exec (.jal 31 8) demo) fun t => (t.cur.pc, t.getX 31)) = some (32, 4) ∧
    (seen (exec (.jalr 31 31 0 0) (demo.setX 31 0x40)) fun t => (t.cur.pc, t.getX 31)) = some (0x40, 4) ∧
    (seen (exec (.jalr 31 31 2 0) (demo.setX 31 0x40)) fun t => (t.cur.status, t.getX 31)) = some (.faulted, 0x40) := by decide

/-! ### Clauses, traps, control registers -/

/-- An open clause whose header stands at 0, with pc in its padding or past it. -/
def demoClause (pc : BitVec 16) (left : BitVec 4) : State :=
  demoSlot fun k => { k with pc, cls := { hdr := 0, remaining := left, wave := 3, isOpen := true } }
theorem witness_ClauseHeaderOpensAClause :
    demo.otherClause = false ∧ (0 + 4 + 15) / 16 * 16 ≤ 0xFFFC ∧
    (∀ a, 12 + 4 ≤ a → a < (12 + 4 + 15) / 16 * 16 → a % 4 = 0 → wordAt (Memory.read demo.here.istore a 4) 0 = 0x88000000#32) ∧
    (demoClause 0 2).cur.cls.isOpen = true ∧ (demoClause 0 2).cur.cls.hdr = (demoClause 0 2).cur.pc ∧ clausePc (demoClause 0 2).here 0 (3 - 2) ≤ 0xFFFC ∧
    (demo.modSlot 0 1 fun k => { k with status := .ready, cls := { isOpen := true } }).otherClause = true ∧
    (demoClause 4 2).cur.inPadding = true ∧ (demoClause 16 2).cur.inPadding = false ∧ demo.stands 4 :=
  ⟨by decide, by decide, fun a h1 h2 _ => by omega, by decide, by decide, by decide, by decide, by decide, by decide, (demo_free [] []).2.1⟩
/-- R88: a header at 12 opens a clause at once; the wave counter goes from 0xFE to 0. -/
theorem test_cls : (seen (exec (.cls 5) (demoSlot fun k => { k with pc := 12, wavectr := 0xFE })) fun t => (t.cur.pc, t.cur.cls.remaining, t.cur.cls.wave, t.cur.wavectr))
    = some (16, 5, 0xFE, 0) := by decide
theorem witness_TrapsAreTakenAndResumed :
    demo.taskFree 0 [1] [] ∧ demo.debugging = false ∧ (demoCtx fun c => { c with debug := true }).debugging = true ∧
    (demoCtx fun c => { c with debug := true }).taskFree 0 [] [] ∧ demo.here.owner = some 0 ∧ demo.ctx? 0 = some placedContext ∧
    (let s := demo.takeTrap .illegalField 0 0 16 false
     (s.slot 0 0).status = .faulted ∧ (s.slot 0 0).fault.map (fun f => (f.late, f.inClause, f.len, f.fallThrough)) = some (false, false, 16, false)) :=
  ⟨demo_free _ _, by decide, by decide, free_of _ _ _ _ (by decide), by decide, by decide, by decide⟩
/-- R342: a skip goes on past the word, a retry issues it again, and a `brk` goes on past itself. -/
theorem test_resume : (((demo.takeTrap .illegalField 0 0 16 false).resumeSlot 0 0 false).cur.pc = 16) ∧
    (((demo.takeTrap .illegalField 0 0 16 false).resumeSlot 0 0 true).cur.pc = 0) ∧ (((demo.takeTrap .brk 0 0 4 false).resumeSlot 0 0 true).cur.pc = 4) := by decide
/-- R339, R347: a software trap's record holds its code, kind 00, the slot and aux; the slot is FAULTED. -/
theorem test_trap : (seen (exec (.trap 2 0x155 0) (demo.setX 2 77)) fun t => (t.cur.status,
    (t.ctx? 0).map fun c => c.records.map fun r => (r.bits.extractLsb' 0 16, r.bits.extractLsb' 16 2, r.bits.extractLsb' 320 64))) =
    some (.faulted, some [(0x255, 0, 77)]) := by decide
/-- R67: a word that stands nowhere in the tables traps with its code. -/
theorem test_illegal : (seen (exec (.illegalEncoding .illegalOp) demo) fun t => t.cur.fault.map (·.code)) = some (some .illegalOp) := by decide
theorem witness_ControlRegisters : demo.taskFree 0 [1, 2] [] ∧ demo.tileCtx demo.focus.tile = some placedContext ∧
    (0x014 < (0x015#11).toNat ∧ (0x01F#11).toNat < 0x020) ∧ 0x02F < (0x030#11).toNat ∧
    (let s := (demoCtx fun c => { c with wdCeiling := 2 ^ 32 }).setX 2 0x10000
     s.taskFree 0 [1, 2] [] ∧ 2 ^ 16 ≤ (s.getX 2).toNat ∧ (s.getX 2).toNat ≤ 2 ^ 32 ∧ (demo.getX 2).toNat < 2 ^ 16) :=
  ⟨demo_free _ _, by decide, by decide, by decide, free_of _ _ _ _ (by decide), by decide, by decide, by decide⟩
/-- R344: `csr.s` sets bits of `stat` and answers the old word; a number outside the table traps. -/
theorem test_csr : (seen (exec (.csrS 1 2 0 0) ((demoSlot fun k => { k with stat := 1 }).setX 2 0xF00002)) fun t => (t.getX 1, t.cur.stat)) = some (1, 3) ∧
    (seen (exec (.csrR 1 0x15 0) demo) (·.cur.status)) = some .faulted := by decide
theorem test_seed : (seen (exec (.seedWrite 0x100000000) demo) (·.here.lfsr)) = some 1 := by decide

/-! ### Memory -/

/-- The state an outcome goes on with. -/
def after (o : Out) : State := match o with | .next t => t | _ => State.reset
/-- The context's pages 0 (plain) and 1 (versioned, package scope) are in the micro-TLB. -/
def demoMap (f : Tile → Tile := id) : State := demoTile fun T => f { T with
  utlb := [{ ctx := 0, page := 0, level := 0, leaf := 0x1D }, { ctx := 0, page := 1, level := 0, leaf := 0x100BD }] }
/-- One issued access of the running task. -/
def acc (kind : AccKind) (pieces : List Piece) (locs : List (Loc × Nat)) : Access :=
  { id := 0, iss := demo.issue, olog := some 0, kind, pieces, locs, parked := false }
/-- Accesses in flight. -/
def demoAcc (l : List Access) : State := demoMap fun T => { T with accesses := l, nextAcc := l.length }
/-- The own-scratchpad window's base. -/
def own : Word := BitVec.ofNat 64 Config.ownSpBase

theorem ok_of {ε α : Type} [DecidableEq α] {e : Except ε α} {a : α} (h : (match e with | .ok b => decide (b = a) | _ => false) = true) : e = .ok a := by
  cases e <;> simp_all
theorem err_of {ε α : Type} [DecidableEq ε] {e : Except ε α} {a : ε} (h : (match e with | .error b => decide (b = a) | _ => false) = true) :
    e = .error a := by cases e <;> simp_all
theorem accepts_of {s : State} {k : AccKind} {ps : List Piece} {l : Option (List (Loc × Nat))}
    (h : s.here.freeLog.isSome = true) (h2 : s.tryLocate s.issue k ps false = .ok l) (h3 : l = none → s.needsWalk s.issue ps = true → s.poolFull s.focus.tile = false) :
    s.accepts k ps l := ⟨h, h2, h3⟩
theorem demo_pool : demo.poolFull demo.focus.tile = false := by decide +kernel

theorem witness_LoadsAreIssued : demo.memFree 0 [1, 2] [] ∧
    (let s := demo.setX 2 (own + 0x1FF)
     s.memFree 0 [1, 2] [] ∧ s.accepts (.load 1 true) [{ va := Config.ownSpBase + 0x1FF, len := 1 }] (some [(.sp 0 0x1FF, 1)])) ∧
    demo.accepts (.load 1 false) [{ va := 0, len := 8 }] none ∧ demoMap.accepts (.load 1 false) [{ va := 8, len := 8 }] (some [(.dev 8 false 0, 8)]) ∧
    (demo.setX 2 (own - 8)).tryLocate demo.issue (.load 1 false) [{ va := Config.ownSpBase - 8, len := 8 }] false = .error (.xlate, Config.ownSpBase - 8) ∧
    ((1 : Nat) % 2 ≠ 0) :=
  ⟨demo_mem _ _, ⟨mem_of _ _ _ _ (by decide), accepts_of (by decide) (ok_of (by decide +kernel)) nofun⟩, accepts_of (by decide) (ok_of (by decide)) fun _ _ => demo_pool, accepts_of (by decide) (ok_of (by decide)) nofun, err_of (by decide), by decide⟩
theorem witness_StoresAreIssued : demo.memFree 0 [1, 2] [] ∧ demoMap.memFree 0 [1, 2] [] ∧ inAperture 0 = false ∧
    demoMap.accepts .store [{ va := 0, len := 4, bytes := leBytes 4 0 }] (some [(.dev 0 false 0, 4)]) ∧ inAperture Config.apertureBase = true :=
  ⟨demo_mem _ _, mem_of _ _ _ _ (by decide), by decide, accepts_of (by decide) (ok_of (by decide)) nofun, by decide⟩
theorem witness_ApertureStoreStartsACopy :
    let s := (demo.setX 2 (BitVec.ofNat 64 (Config.apertureBase + 4096 * 63))).setX 1 0xABC
    s.memFree 0 [1, 2] [] ∧ s.here.freeLog.isSome ∧ (s.getX 1).toNat / 2 ^ 12 % 16 = 0 :=
  ⟨mem_of _ _ _ _ (by decide), by decide, by decide⟩
/-- R183: a load leaves its register pending; a misaligned one traps with the address. -/
theorem test_load : (seen (exec (.ldhs 1 2 0 0) (demo.setX 2 own)) fun t => (t.cur.pendX, t.cur.pc, t.here.accesses.length)) = some ([1], 4, 1) ∧
    (seen (exec (.ldh 1 2 1 0) (demo.setX 2 own)) fun t => t.cur.fault.map (·.code)) = some (some .misaligned) := by decide
/-- R183, R194: a halfword of 0xFF80, sign-extended. -/
theorem test_load_completes :
    (seen (exec .loadComplete { demoMap (fun T => { T with sp := [(4, 0x80), (5, 0xFF)], accesses := [acc (.load 1 true) [] [(.sp 0 4, 2)]] }) with
      focus := { id := 0 } }) fun t => (t.getX 1, t.here.accesses.length)) = some (-128, 0) := by decide
/-- R202: a store performs at the tile, then in memory, and only its bytes change. -/
theorem test_store_performs :
    let s := demoAcc [{ acc .store [{ va := 4, len := 2, bytes := [0x34, 0x12] }] [(.dev 4 false 0, 2)] with tileDone := true }]
    (seen (exec .accessPerform (demoAcc [acc .store [{ va := 4, len := 2, bytes := [0x34, 0x12] }] [(.dev 4 false 0, 2)]])) (·.mem)) = some [] ∧
    (seen (exec .accessPerform s) fun t => (t.mem, t.here.accesses.length)) = some ([(4, 0x34), (5, 0x12)], 0) := by decide
theorem witness_LoadCompletes :
    let s := demoAcc [acc (.load 1 true) [{ va := 0, len := 2 }] [(.dev 0 false 0, 2)]]
    let u := demoAcc [acc (.vload [63] 1) [] [(.sp 0 0, 64)]]
    let m := demoAcc [acc (.mload 15 0) [] [(.sp 0 0, 512)]]
    s.here.access? s.focus.id = some (acc (.load 1 true) [{ va := 0, len := 2 }] [(.dev 0 false 0, 2)]) ∧
    loadReady s.here (acc (.load 1 true) [{ va := 0, len := 2 }] [(.dev 0 false 0, 2)]) = true ∧ s.alive demo.issue = true ∧
    (s.here.accesses.all fun b => !b.kind.hasData) = true ∧
    u.here.access? 0 = some (acc (.vload [63] 1) [] [(.sp 0 0, 64)]) ∧ loadReady u.here (acc (.vload [63] 1) [] [(.sp 0 0, 64)]) = true ∧
    m.here.access? 0 = some (acc (.mload 15 0) [] [(.sp 0 0, 512)]) ∧ loadReady m.here (acc (.mload 15 0) [] [(.sp 0 0, 512)]) = true := by decide
theorem witness_StoresPerform :
    let a := acc .store [{ va := 4, len := 2, bytes := [0x34, 0x12] }] [(.dev 4 false 0, 2)]
    let b := { acc .vstore [{ va := Config.ownSpBase, len := 1, bytes := [7] }] [(.sp 0 0, 1)] with tileDone := true }
    let c := { acc (.cacheOp true) [{ va := 0, len := 64 }] [(.dev 0 false 0, 64)] with tileDone := true }
    let r := { acc (.rclm 5) [{ va := 65536, len := 8 }] [(.dev 65536 true 2, 8)] with tileDone := true }
    (∀ x ∈ [a, b, c, r], (demoAcc [x]).here.access? 0 = some x ∧ x.iss.tile = 0 ∧ Memory.wf (demoAcc [x]).mem = true ∧ Memory.wf (demoAcc [x]).here.sp = true) ∧
    storeReady (demoAcc [a]).here a = true ∧ commitReady (demoAcc [{ a with tileDone := true }]).here { a with tileDone := true } = true ∧
    commitReady (demoAcc [b]).here b = true ∧ commitReady (demoAcc [c]).here c = true ∧ commitReady (demoAcc [r]).here r = true := by decide
theorem witness_PageWalkEnds :
    let a := { acc (.load 1 true) [{ va := 0, len := 2 }] [] with parked := true }
    let b := { acc (.load 1 true) [{ va := 0x20000, len := 2 }] [] with parked := true }
    (demoAcc [a]).here.access? 0 = some a ∧ (demoAcc [a]).tryLocate a.iss a.kind a.pieces true = .ok (some [(.dev 0 false 0, 2)]) ∧
    (demoAcc [b]).here.access? 0 = some b ∧ (demoAcc [b]).tryLocate b.iss b.kind b.pieces true = .error (.xlate, 0x20000) ∧
    (demoAcc [b]).alive b.iss = true :=
  ⟨by decide, ok_of (by decide), by decide, err_of (by decide), by decide⟩
/-- R180, R182: an address no table maps is a late fault of the load's word. -/
theorem test_walk_fails :
    (seen (exec .pageWalkDone (demoAcc [{ acc (.load 1 true) [{ va := 0x20000, len := 2 }] [] with parked := true }]))
      fun t => (t.cur.late.map fun l => (l.code, l.addr), t.here.accesses.length)) = some ([(.xlate, 0x20000)], 0) := by decide
theorem witness_LateFaultStopsItsTask :
    let l : Late := { code := .xlate, addr := 8, pc := 0, olog := none, engine := false, aux := 0, access := none }
    let s := demoSlot fun k => { k with late := [l], pc := 4 }
    (s.slot s.focus.tile s.focus.slot).late = [l] ∧ (s.slot s.focus.tile s.focus.slot).status ∈ [SlotStatus.running, .ready, .blocked] ∧
    (s.slot s.focus.tile s.focus.slot).wait ≠ .scheduler := by decide
theorem witness_CacheWords : demo.wordFree 0 [31] [] ∧ demoMap.memFree 0 [2] [] ∧ (0 : Nat) < 2 ^ 52 ∧
    demoMap.accepts (.cacheOp true) [{ va := 0, len := 64 }] (some [(.dev 0 false 0, 64)]) ∧ demo.accepts (.cacheOp false) [{ va := 0, len := 64 }] none :=
  ⟨(demo_free _ _).2, mem_of _ _ _ _ (by decide), by decide, accepts_of (by decide) (ok_of (by decide)) nofun, accepts_of (by decide) (ok_of (by decide)) fun _ _ => demo_pool⟩
theorem witness_FencesWaitForWhatTheyCover :
    let s := demoAcc [acc .store [] [(.dev 0 false 0, 4)]]
    demo.memFree 0 [] [] ∧ s.memFree 0 [] [] ∧ demo.here.accesses = [] ∧
    (s.here.accesses.filter fun b => sameTask b.iss s.issue && decide (b.id < s.here.nextAcc) && b.kind.ordinary) = s.here.accesses ∧
    s.here.accesses.all (fun b => b.kind.isStore && !b.tileDone) = true :=
  ⟨demo_mem _ _, mem_of _ _ _ _ (by decide), by decide, by decide, by decide⟩
/-- R204: `fnc.acq` waits for loads only, `fnc.rel` for stores too; element scope waits for nothing. -/
theorem test_fences :
    let s := demoAcc [acc .store [] [(.dev 0 false 0, 4)]]
    (seen (exec (.fncAcq 2 0) s) (·.cur.pc)) = some 4 ∧ (seen (exec (.fncRel 2 0) s) (·.cur.status)) = some .blocked ∧
    (seen (exec (.fncRel 0 0) s) (·.cur.pc)) = some 4 := by decide
theorem witness_BlockedFenceCompletes :
    let f := fun l => (demoAcc l).modCur fun k => { k with status := .blocked, wait := .fence 1 false 1 }
    (f []).cur.late = [] ∧ fenceDone (f []).here ((f []).issueOf 0 0) 1 false 1 = true ∧
    fenceDone (f [acc .store [] [(.dev 0 false 0, 4)]]).here ((f []).issueOf 0 0) 1 false 1 = false := by decide

/-! ### Versioned words, atomics, queues -/

/-- The word at device address 0x10000 holds versions 3 and 5 with floor 3 and a never mark at 7. -/
def demoVer (never : List Nat := [7]) : State := { demoMap with
  vwords := [(0x10000, { versions := [(3, 33), (5, 55)], floor := 3, never })] }
theorem witness_VersionedLoadReads :
    let s := (demoVer.setX 2 0x10000).setX 3 5
    s.memFree 0 [1, 2, 3] [] ∧ s.here.freeLog.isSome ∧ (s.getX 2).toNat % 8 = 0 ∧
    s.locate s.ctxNum 0 0x10000 { read := true, versioned := true } = .ok (.dev 0x10000 true 2) ∧ ldvFree s.here s.issue 0x10000 = true ∧
    assocGet (s.vword 0x10000).versions 5 = some 55 ∧ assocGet (s.vword 0x10000).versions 4 = none ∧ (s.vword 0x10000).floor ≤ 4 ∧
    assocGet (s.vword 0x10000).versions 2 = none ∧ 2 < (s.vword 0x10000).floor ∧ (s.vword 0x10000).newest.1 < 6 ∧
    7 ∈ (s.vword 0x10000).never ∧ s.reservedFrom 0x10000 6 = false ∧ (∀ u ∈ (s.vword 0x10000).never, u < 8) :=
  ⟨mem_of _ _ _ _ (by decide), by decide, by decide, ok_of (by decide), by decide, by decide, by decide, by decide, by decide, by decide, by decide,
    by decide, by decide, by decide⟩
def runSee (t : State) : SlotStatus × Word × Option FaultCode := (t.cur.status, t.getX 1, t.cur.fault.map (·.code))
def ldvCase (v : Word) : State := (demoVer.setX 2 0x10000).setX 3 v
/-- R187: version 5 is held, 4 was passed over, 2 is below the floor, 6 may still come. -/
theorem test_ldv_eq : seen (exec (.ldvEq 1 2 3 0) (ldvCase 5)) runSee = some (.running, 55, none) ∧
    seen (exec (.ldvEq 1 2 3 0) (ldvCase 4)) runSee = some (.faulted, 0, some .versionNever) ∧
    seen (exec (.ldvEq 1 2 3 0) (ldvCase 2)) runSee = some (.faulted, 0, some .versionReclaimed) ∧
    seen (exec (.ldvEq 1 2 3 0) (ldvCase 6)) runSee = some (.blocked, 0, none) := by decide
/-- R187: `ge` 4 reads the newest; of 6 the never mark at 7 says that it cannot come. -/
theorem test_ldv_ge : seen (exec (.ldvGe 1 2 3 0) (ldvCase 4)) runSee = some (.running, 55, none) ∧
    seen (exec (.ldvGe 1 2 3 0) (ldvCase 6)) runSee = some (.faulted, 0, some .versionNever) := by decide
theorem some_ok_of {ε α : Type} [DecidableEq α] {e : Option (Except ε α)} {a : α}
    (h : (match e with | some (.ok b) => decide (b = a) | _ => false) = true) : e = some (.ok a) := by
  match e with | some (.ok b) => simp_all | some (.error _) => simp_all | none => simp_all
theorem some_err_of {ε α : Type} [DecidableEq ε] {e : Option (Except ε α)} {a : ε}
    (h : (match e with | some (.error b) => decide (b = a) | _ => false) = true) : e = some (.error a) := by
  match e with | some (.ok b) => simp_all | some (.error _) => simp_all | none => simp_all
theorem none_of {α : Type} {e : Option α} (h : e.isNone = true) : e = none := by simpa using h
theorem witness_BlockedVersionedLoadCompletes :
    let s := fun v ge => demoVer.modCur fun k => { k with status := .blocked, wait := .version 0x10000 0x10000 v ge 1 }
    (∀ v ge, (s v ge).cur.status = .blocked ∧ (s v ge).cur.wait = .version 0x10000 0x10000 v ge 1) ∧
    (s 5 false).ldvNow ((s 5 false).issueOf 0 0) 0x10000 5 false = some (.ok 55) ∧
    (s 7 false).ldvNow ((s 7 false).issueOf 0 0) 0x10000 7 false = some (.error .versionNever) ∧
    (s 6 false).ldvNow ((s 6 false).issueOf 0 0) 0x10000 6 false = none :=
  ⟨fun _ _ => ⟨rfl, rfl⟩, some_ok_of (by decide), some_err_of (by decide), none_of (by decide)⟩
theorem witness_VersionedStoresAreIssued :
    let s := (demoVer.setX 2 0x10000).setX 3 6
    s.memFree 0 [1, 2, 3] [] ∧ s.accepts (.stv 6 (s.getX 1)) [{ va := 0x10000, len := 8 }] (some [(.dev 0x10000 true 2, 8)]) ∧
    s.rsvFull s.ctxNum = false ∧ s.accepts (.stvRsv 6) [{ va := 0x10000, len := 8 }] (some [(.dev 0x10000 true 2, 8)]) ∧ (s.getX 1).toNat = 0 ∧
    ((s.setX 1 8).getX 1).toNat = 8 ∧ (s.setX 1 8).accepts (.rclm 6) [{ va := 0x10000, len := 8 }] (some [(.dev 0x10000 true 2, 8)]) ∧
    ((s.setX 2 0x10004).getX 2).toNat % 8 ≠ 0 ∧ ((s.setX 1 4).getX 1).toNat % 8 ≠ 0 :=
  ⟨mem_of _ _ _ _ (by decide), accepts_of (by decide) (ok_of (by decide)) nofun, by decide +kernel, accepts_of (by decide) (ok_of (by decide)) nofun, by decide, by decide, accepts_of (by decide) (ok_of (by decide)) nofun, by decide, by decide⟩
theorem witness_VersionsAreAddedAtHome :
    let a := fun v => acc (.stv v 66) [{ va := 0x10000, len := 8 }] [(.dev 0x10000 true 2, 8)]
    let s := fun v => { demoVer with tiles := (demoAcc [a v]).tiles }
    let w : VWord := { versions := [(1, 1), (2, 2), (3, 3), (4, 4)], floor := 1, never := [] }
    (s 6).here.access? 0 = some (a 6) ∧ (a 6).iss.tile = 0 ∧ (a 6).parked = false ∧ heldBack (s 6).here (a 6) = false ∧
    releasedAt (s 6).here (a 6).iss 0 false = true ∧ ((s 6).vword 0x10000).newest.1 < 6 ∧ ((s 6).vword 0x10000).versions.length < 4 ∧
    5 ≤ ((s 5).vword 0x10000).newest.1 ∧ (s 5).alive demo.issue = true ∧
    4 ≤ ({ s 6 with vwords := [(0x10000, w)] }.vword 0x10000).versions.length := by decide
/-- R188: version 6 joins, and the never marks at or below it are gone. -/
theorem test_stv :
    let a := acc (.stv 7 66) [{ va := 0x10000, len := 8 }] [(.dev 0x10000 true 2, 8)]
    (seen (exec .stvHomeWrite { demoVer with tiles := (demoAcc [a]).tiles }) (·.vword 0x10000)) =
      some { versions := [(3, 33), (5, 55), (7, 66)], floor := 3, never := [] } := by decide
theorem witness_AtomicsAreIssued : demoMap.memFree 0 [1, 2, 3] [] ∧
    demoMap.accepts (.amo 9 8 3 1 0 0) [{ va := 0, len := 8 }] (some [(.dev 0 false 0, 8)]) ∧ (demoMap.setX 2 4).memFree 0 [1, 2, 3] [] ∧
    ((demoMap.setX 2 4).getX 2).toNat % 2 ^ (3#2).toNat ≠ 0 :=
  ⟨mem_of _ _ _ _ (by decide), accepts_of (by decide) (ok_of (by decide)) nofun, mem_of _ _ _ _ (by decide), by decide⟩
theorem witness_AtomicExecutesAtItsNode :
    let a := acc (.amo 4 1 0 1 0x80 0) [{ va := 4, len := 1 }] [(.dev 4 false 0, 1)]
    let s := { demoAcc [a] with mem := [(4, 0x7F)] }
    s.here.access? s.focus.id = some a ∧ a.iss.tile = s.focus.tile ∧ Memory.wf s.mem = true ∧ amoReady s.here a 0 = true ∧ s.alive a.iss = true ∧
    a.kind = .amo (BitVec.ofNat 4 4) 1 0 1 0x80 0 := by decide
/-- R218: the signed minimum of 0x7F and 0x80 at one byte is 0x80; rd gets the old value; R216: its line is then in no L1 of its tile. -/
theorem test_amo :
    let a := acc (.amo 4 1 0 1 0x80 0) [{ va := 4, len := 1 }] [(.dev 4 false 0, 1)]
    (seen (exec .atomicAtNode { demoAcc [a] with mem := [(4, 0x7F), (5, 1)] }) fun t => (t.mem, t.getX 1)) = some ([(4, 0x80), (5, 1)], 0x7F) ∧
    (seen (exec .atomicAtNode (demoMap fun T => { T with l1 := [{ line := 0, data := [] }, { line := 9, data := [] }], accesses := [a] })) fun t => t.here.l1.map (·.line)) =
      some [9] := by decide
theorem witness_FloatAddAtItsNode :
    let a := acc (.amo 11 2 0 1 0x3F80 0) [{ va := 4, len := 2 }] [(.dev 4 false 0, 2)]
    let s := { demoAcc [a] with mem := [(4, 0x80), (5, 0x3F)] }
    s.here.access? s.focus.id = some a ∧ Memory.wf s.mem = true ∧ amoReady s.here a 0 = true ∧ s.alive a.iss = true ∧ a.iss.follow = false ∧
    presentBits 2 0x3F80 = true := by decide
/-- R219: 1 + 1 is 2 in BF16. -/
theorem test_fadd :
    let a := acc (.amo 11 2 0 1 0x3F80 0) [{ va := 4, len := 2 }] [(.dev 4 false 0, 2)]
    (seen (exec .atomicAtNode { demoAcc [a] with mem := [(4, 0x80), (5, 0x3F)] }) fun t => (t.mem, t.getX 1)) = some ([(5, 0x40)], 0x3F80) := by decide

/-! ### Commands -/

/-- A command with every field zero: under the guard p0, one register, no stall. -/
def c0 : Cmd := { ga := 0, gb := 0, comb := 0, hint := 0, chain := 0, yield := 0, stall := 0, tag := 0, eh := 0, ew := 0, s1 := 0, s2 := 0,
                  s3 := 0, s4 := 0, s5 := 0 }
/-- Every v register of the tile holds the same, x2 an address of the own scratchpad. -/
def demoV (tag : BitVec 5) (data : Wave := 0) (f : Tile → Tile := id) : State :=
  (demoMap fun T => f { T with v := Vector.replicate 64 { data, side := 0, tag } }).setX 2 own

theorem witness_VectorAtomics :
    let c : Cmd := { c0 with tag := 0x0E, s1 := 0x4002, s2 := 8, s3 := 16 }
    let a := acc (.vamo 0 0x0E [(1, 4, 2)] 0 (.vc 0 15)) [{ va := 0, len := 4 }] []
    let e := acc (.vamo 0 0x0E [] 1 (.vc 0 15)) [{ va := 0, len := 4 }] []
    (demoV 0x0E).commandFree (.vamo c) c [] ∧ chkVamo c (demoV 0x0E).issue (demoV 0x0E) = .ok () ∧
    checkTags c ((demoV 0x0E).block (demoV 0x0E).issue c c.s2) = .ok 0x0E ∧
    (demoAcc [a]).here.access? 0 = some a ∧ (demoAcc [a]).tryLocate a.iss a.kind [{ va := 4, len := 4 }] false = .ok (some [(.dev 4 false 0, 4)]) ∧
    (demoAcc [e]).here.access? 0 = some e ∧ Memory.wf (demoAcc [a]).mem = true :=
  ⟨command_of _ _ _ _ (by decide), ok_of (by decide), ok_of (by decide), by decide, ok_of (by decide), by decide, by decide⟩
/-- R221, R222: the element's word is replaced and one more is counted. -/
theorem test_vamo :
    (seen (exec .atomicAtNode { demoAcc [acc (.vamo 0 0x0E [(1, 4, 2)] 0 .none) [{ va := 0, len := 4 }] []] with mem := [(4, 40)] }) fun t =>
      (t.mem, t.here.accesses.map (·.kind))) = some ([(4, 42)], [.vamo 0 0x0E [] 1 .none]) := by decide
/-- A descriptor in the own scratchpad: ring at offset 0x40, two entries, head 0 and the tail given. -/
def demoHq (tail : Byte) : State := (demoMap fun T => { T with
  sp := (if tail = 0 then [] else [(12, tail)]) ++ [(16, 1), (18, 0x20)], split := false }).setX 2 own
theorem of_okSome {ε α : Type} {e : Except ε α} {P : α → Bool} (h : (match e with | .ok a => P a | _ => false) = true) :
    ∃ a, e = .ok a ∧ P a = true := by cases e <;> simp_all
theorem witness_QueueWords : (demoHq 1).memFree 0 [1, 2] [4] ∧ (demoHq 1).here.freeLog.isSome ∧
    (∃ q, (demoHq 1).openHq 0 0 Config.ownSpBase true = .ok q ∧
      ((demoHq 1).hqReady q true && !(demoHq 1).notifyFull q && decide (q.desc.held = 1 ∧ q.desc.cap = 2)) = true) ∧
    (∃ q, (demoHq 2).openHq 0 0 Config.ownSpBase true = .ok q ∧ decide (q.desc.held = q.desc.cap) = true) ∧
    (∃ q, (demoHq 0).openHq 0 0 Config.ownSpBase false = .ok q ∧ decide (q.desc.held = 0) = true) :=
  ⟨mem_of _ _ _ _ (by decide), by decide, of_okSome (by decide), of_okSome (by decide), of_okSome (by decide)⟩
/-- R199: an append moves the tail; an empty queue leaves the predicate false. -/
theorem test_hq : (seen (exec (.hqwTry 1 2 4 0) ((demoHq 1).setX 1 7)) fun t => (t.getP 4, t.cur.pc, Memory.get t.here.sp 12, Memory.get t.mem 8)) =
      some (true, 4, 2, 7) ∧
    (seen (exec (.hqrTry 1 2 4 0) ((demoHq 0).setP 4 true)) fun t => (t.getP 4, t.cur.pc)) = some (false, 4) := by decide
theorem witness_QueueNotify :
    let s : State := { demo with focus := { unit := 3 }, notifies := [{ node := 3, tile := 0, vc := 4, word := 8 }] }
    s.notifies.find? (fun m => m.node == s.focus.unit) = some { node := 3, tile := 0, vc := 4, word := 8 } ∧ s.vcRoom 0 4 = true := by decide
theorem witness_BlockMemoryCommands :
    let c : Cmd := { c0 with tag := 1, s1 := 8, s2 := 0x4002 }
    let m : Cmd := { c0 with tag := 1, s1 := 0xC000, s2 := 0x4002 }
    let z : Cmd := { c0 with s1 := 0x4002, s2 := 0x8004 }
    let s := demoV 1
    let iss := s.issue
    (s.commandFree (.vld c) c [] ∧ chkVld c iss s = .ok () ∧ s.accepts (.vload (blockRegs c (slotV c.s1)) c.tag) (loadPieces c iss c.tag) (some [(.sp 0 0, 64)])) ∧
    (s.commandFree (.tld m) m [] ∧ chkTld m iss s = .ok ()) ∧
    (s.commandFree (.sbclr z) z [] ∧ chkSbclr z iss s = .ok () ∧ s.accepts .sbClear (sbclrPieces z iss) (some [(.sp 0 0, 4)])) ∧
    (s.commandFree (.vst { c with tag := 0 }) { c with tag := 0 } [] ∧ storeTag { c with tag := 0 } iss s = .ok 1 ∧ chkVst { c with tag := 0 } iss s = .ok () ∧
      s.accepts .vstore (storePieces { c with tag := 0 } iss s 1) (some [(.sp 0 0, 64)])) ∧
    (s.commandFree (.sbst c) c [] ∧ chkSbst c iss s = .ok () ∧ (sbSplit iss s.here.presentAhead (storePieces c iss s 1)).2 = none) ∧
    (s.commandFree (.sbld c) c [] ∧ chkSbld c iss s = .ok ()) :=
  ⟨⟨command_of _ _ _ _ (by decide), ok_of (by decide), accepts_of (by decide) (ok_of (by decide)) nofun⟩,
   ⟨command_of _ _ _ _ (by decide), ok_of (by decide)⟩,
   ⟨command_of _ _ _ _ (by decide), ok_of (by decide), accepts_of (by decide) (ok_of (by decide)) nofun⟩,
   ⟨command_of _ _ _ _ (by decide), ok_of (by decide), ok_of (by decide), accepts_of (by decide) (ok_of (by decide)) nofun⟩,
   ⟨command_of _ _ _ _ (by decide), ok_of (by decide), by decide⟩, ⟨command_of _ _ _ _ (by decide), ok_of (by decide)⟩⟩

/-! ### Tasks, barriers, jobs -/

theorem witness_TasksStartAndEnd :
    let r := demoTile fun T => { T with slots := (T.slots.set 0 { T.slot 0 with status := .idle }).set 15 { T.slot 15 with status := .ready } }
    let f : Flit := { kind := 0, data := 77 }
    let i := (demoTile fun T => { T with vcs := T.vcs.set 4 { q := [f] } }).modCur fun k => { k with status := .idle, vc := 4 }
    (r.canIssue 0 = true ∧ (∀ j, (r.slot 0 j).status ≠ .running) ∧ r.here.nextReady = some 15) ∧
    (i.cur.status = .idle ∧ (i.vchan 0 i.cur.vc).q = [f] ∧ i.canIssue 0 = true ∧ (i.streamVcs 0).contains i.cur.vc = false ∧
      i.here.winBusy i.focus.slot i.cur.bwin = false) ∧
    (demo.cur.cls.isOpen = false ∧ demo.cur.pc.toNat + 4 ≤ 0xFFFC ∧ demo.unfinished = false ∧ demo.cur.unbind = false ∧ demo.cur.implicit = false) ∧
    (demoSlot fun k => { k with pendX := [31] }).unfinished = true := by decide +kernel
/-- R71: a start puts the word in x1, the VC in x2 and the card's address in x3. -/
theorem test_task_start :
    (seen (exec .taskStart ((demoTile fun T => { T with vcs := T.vcs.set 4 { q := [{ kind := 0, data := 77 }] } }).modCur fun k =>
      { k with status := .idle, vc := 4, entry := 0x40, card := 0x80 })) fun t =>
      (t.cur.status, t.cur.pc, t.getX 1, t.getX 2, t.getX 3, (t.vchan 0 4).q.length)) = some (.ready, 0x40, 77, 4, 0x80, 0) := by decide +kernel
/-- R90: `tend` with nothing outstanding leaves the slot IDLE. -/
theorem test_tend : (seen (exec .tend demo) (·.cur.status)) = some .idle := by decide +kernel
theorem witness_BlockedSlotsGoOn :
    let s := demoSlot fun k => { k with status := .blocked, wait := .presence [] }
    let h : Held := { instr := .mswp c0, iss := demo.issue, released := true }
    let u := demoTile fun T => { T with held := [h] }
    s.cur.status = .blocked ∧ (s.unpost .slotUnblock s.focus).cleared s.cur.wait = true ∧
    u.here.held.find? (·.released) = some h ∧ (bodyOf h.instr).isSome = true := by decide +kernel
/-- The tile's context has one barrier outstanding, at its one tile. -/
def bar0 : Barrier := { bed := 0, id := 3, gen := 0, arrivals := [{ tile := 0, count := 1, vc := 5, slot := 0, epoch := demo.cur.epoch, upto := 0 }] }
theorem witness_BarriersAndPhases :
    let o := { demoCtx (fun c => { c with barriers := [bar0] }) with focus := { id := 3 } }
    (demo.memFree 0 [1, 2] [] ∧ demo.tileCtx 0 = some placedContext ∧ placedContext.saving = none ∧ placedContext.launch = some (0, false) ∧ bedOk 0 = true ∧ inBed 0 0 = true ∧
      bedInside 0 0 = true ∧ (placedContext.barrier 0 3).arrivals = []) ∧
    (bedOk 0x10000 = false ∧ (demo.setX 2 0x10000).memFree 0 [2] []) ∧
    ((o.ctx? 0).map fun c => ((c.barrier 0 3).outstanding, c.saving)) = some (true, none) ∧ ¬ bar0.gen ≥ 1 ∧
    (demo.here.phase.toNat + (1023#10).toNat < 2 ^ 48 ∧ demo.phaseOk 0 1023 = true) ∧ ((demo.setX 1 (2 ^ 48)).getX 1).toNat = 2 ^ 48 :=
  ⟨⟨demo_mem _ _, by decide +kernel, by decide +kernel, by decide +kernel, by decide +kernel, by decide +kernel, by decide +kernel, by decide +kernel⟩, ⟨by decide +kernel, mem_of _ _ _ _ (by decide +kernel)⟩, by decide +kernel, by decide +kernel,
   ⟨by decide +kernel, by decide +kernel⟩, by decide +kernel⟩
/-- R331: `phs` advances the phase and answers it; a step of 0 traps. -/
theorem test_phs : (seen (exec (.phs 1 5 0) demo) fun t => (t.here.phase, t.getX 1, t.cur.pc)) = some (5, 5, 4) ∧
    (seen (exec (.phs 1 0 0) demo) (·.cur.status)) = some .faulted := by decide +kernel
/-- R328: an arrival is counted, its completion owed. -/
theorem test_bar : (seen (exec (.bar 2 5 3 0) demo) fun t => ((t.ctx? 0).map fun c => ((c.barrier 0 3).arrivals.map (·.count), (c.barrier 0 3).outstanding),
    t.cur.pc)) = some (some ([1], true), 4) := by decide +kernel

/-- A card for tile 0. -/
def card0 : Card := { tenant := 0, prio := 0, bal := false, isBed := false, target := 0, vc := 0, entry := 0, win := 0, work := 0, trigger := 0,
                       ckind := 0, ctile := 0, cvc := 0, caddr := 0, cver := 0, reads := [], writes := [], conds := [] }
def job (num : Nat) (state : JobState) (card : Card := card0) : Job :=
  { num, card, addr := 0, state, edges := [], counter := false, readyAt := none, toDeliver := [], tasks := 0, dispatched := none, started := false, computed := 0 }
/-- The context has two jobs, and the tenant a quota. -/
def demoJobs (js : List Job) (f : Context → Context := id) : State :=
  { (demoMap).modCtx 0 (fun c => f { c with jobs := js, lastJob := js.length }) with quotas := [{ tenant := 0, slots := 4, counters := 4 }] }
theorem witness_JobWords :
    let s := (demoJobs [job 1 .running, job 2 .waiting]).setX 2 0x80
    let d := ((demoJobs [job 1 .running, job 2 .waiting]).setX 2 1).setX 1 2
    let b := { demoJobs [] (fun c => { c with submits := [(0, 0, 1, card0, 0x80)] }) with focus := { ctx := 0 } }
    let b := b.modCur fun k => { k with status := .blocked, wait := .scheduler }
    s.memFree 0 [1, 2] [4] ∧ ((s.submitCheck 0x80).toOption.map fun x => (x.1.num, x.2)) = some (0, card0) ∧
    (d.taskFree 0 [1, 2] [4] ∧ ((d.tileCtx 0).bind (·.job? 1)) = some (job 1 .running) ∧ ((d.tileCtx 0).bind (·.job? 2)) = some (job 2 .waiting) ∧
      (d.quotaUsed 0).2 < (d.quotaOf 0).2) ∧
    ((b.ctx? 0).map (·.submits) = some [(0, 0, 1, card0, 0x80)] ∧ (b.slot 0 0).status = .blocked ∧ (b.quotaUsed 0).1 < (b.quotaOf 0).1) ∧
    (s.readCard s.ctxNum 0 0x80).toOption = some card0 ∧
    (demoTile fun T => { T with slots := T.slots.set 0 { T.slot 0 with vc := 1 } }).here.boundTo 0 = none :=
  ⟨mem_of _ _ _ _ (by decide +kernel), by decide +kernel, ⟨free_of _ _ _ _ (by decide +kernel), by decide +kernel, by decide +kernel, by decide +kernel⟩, by decide +kernel, by decide +kernel, by decide +kernel⟩
/-- R325: an edge from a job that is not done is added, its predicate true. -/
theorem test_dep :
    (seen (exec (.dep 1 2 4 0) (((demoJobs [job 1 .running, job 2 .waiting]).setX 2 1).setX 1 2)) fun t =>
      (t.getP 4, ((t.ctx? 0).bind (·.job? 2)).map fun j => (j.edges, j.counter))) = some (true, some ([1], true)) := by decide +kernel
/-- R316: an accepted card gets the next number; its submitter goes on at the next word. -/
theorem test_admit :
    (seen (exec .jobAdmit ((demoJobs [] fun c => { c with submits := [(0, 0, 1, card0, 0x80)] }).modCur fun k =>
      { k with status := .blocked, wait := .scheduler })) fun t => (t.getX 1, t.cur.pc, (t.ctx? 0).map fun c => c.jobs.map (·.state))) =
      some (1, 4, some [.waiting]) := by decide +kernel
theorem witness_SchedulerWorks :
    let bal : Card := { card0 with bal := true, isBed := true, work := 9 }
    let r := demoJobs [{ job 1 .waiting with readyAt := some 0 }]
    let i := { demoJobs [{ job 1 .issuing with toDeliver := [0] }] with focus := { id := 1 } }
    let b := { demoJobs [job 1 .issuing bal] with focus := { id := 1 } }
    let e := { demoJobs [{ job 1 .issuing bal with dispatched := some 0 }] with focus := { id := 1 } }
    let o := { demoJobs [job 1 .running] with focus := { id := 1 } }
    let x := { demoJobs [job 1 .cancelled { card0 with ckind := 1 }] with focus := { id := 1 } }
    (((r.unpost .jobSelect r.focus).pickCard 0).map fun y => (y.1.num, y.2.num)) = some (0, 1) ∧
    ((i.ctx? 0).map fun c => (i.ctxRuns c, (c.job? 1).map i.submitted)) = some (true, some true) ∧ i.vcRoom 0 0 = true ∧
    leastBy (b.unpost .balanceDispatch b.focus).mpend (bedTiles 0) = some 0 ∧
    (e.tile 0).matQ = [] ∧ (e.tile 0).balance = none ∧ e.vcRoom 0 0 = true ∧
    ((o.ctx? 0).map fun c => (o.jobBusy c 1, (c.job? 1).map (·.replied))) = some (false, some false) ∧
    ((x.ctx? 0).map fun c => x.jobBusy c 1) = some false ∧ (x.tile 0).owner = some 0 ∧
    ((e.ctx? 0).map fun c => (c.jobs.filter Job.stealable).length) = some 1 := by decide +kernel
/-- R320, R321: the ready card is issued; its trigger for tile 0 is owed. -/
theorem test_select : (seen (exec .jobSelect (demoJobs [{ job 1 .waiting with readyAt := some 0 }])) fun t =>
    (t.ctx? 0).map fun c => c.jobs.map fun j => (j.state, j.toDeliver)) = some (some [(.issuing, [0])]) := by decide +kernel

/-! ### Contexts and faults -/

theorem witness_ContextWords :
    let d := (demoJobs [job 1 .running, job 2 .done]).setX 2
    let v := { demoSys with contexts := [{ placedContext with saving := some 9, launch := none }] }
    (d 3).taskFree 0 [1, 2] [] ∧ ((d 1).tileCtx 0).map (fun c => (c.lastJob, (c.job? 1).map (·.incomplete), (c.job? 2).map (·.incomplete))) =
      some (2, some true, some false) ∧ (d 1).cur.job ≠ 1 ∧
    (demoSys.sysMode = true ∧ demoSys.getP 0 = true ∧ demoSys.ctx? 0 = none) ∧
    ((v.ctx? 0).map fun c => (c.live, c.resident, c.saving, c.saveResult)) = some (true, true, some 9, none) ∧
    (Memory.get v.mem 8).toNat % 2 = 0 :=
  ⟨free_of _ _ _ _ (by decide +kernel), by decide +kernel, by decide +kernel, by decide +kernel, by decide +kernel, by decide +kernel⟩
/-- R352: `kil.j` cancels a running job and answers 1; `kil.c` in a task is a protection fault. -/
theorem test_kil : (seen (exec (.kilJ 1 2 0) ((demoJobs [job 1 .running]).setX 2 1)) fun t => (t.getX 1, (t.ctx? 0).map fun c => c.jobs.map (·.state))) =
      some (1, some [.cancelled]) ∧
    (seen (exec (.kilC 1 2 0) demo) fun t => t.cur.fault.map (·.code)) = some (some .protect) := by decide +kernel
theorem witness_FaultsAreReported :
    let r := demoCtx fun c => { c with records := [{ bits := 7 }], produced := 256, ring := 0x4000, consumed := 100 }
    let f : EngineFault := { id := 0, iss := demo.issue, code := .protect, addr := 8, aux := 0, toTask := true }
    let w := demoCtx fun c => { c with wdgc := 2 ^ 16, wdgl := 2 ^ 16 }
    let v := demoCtx fun c => { c with saving := some 0 }
    ((r.ctx? 0).map fun c => (c.records.length, r.eccError, decide (c.produced - r.ringConsumed c < 256), decide (c.produced - c.consumed < 256))) = some (1, false, true, true) ∧ Memory.wf r.mem = true ∧
    ({ demo with engineFaults := [f] }.engineFaults.find? fun g => g.id == 0) = some f ∧ { demo with engineFaults := [f] }.alive f.iss = true ∧
    ((w.ctx? 0).map fun c => (w.ctxRuns c, decide (c.wdgl ≤ c.wdgc), c.jobs)) = some (true, true, []) ∧
    ((v.ctx? 0).map fun c => (c.saving, v.clk)) = some (some 0, 0) := by decide +kernel
/-- R338: record 257 goes into entry 0 of the ring, its number into `produced`. -/
theorem test_record : (seen (exec .faultRecordWrite (demoCtx fun c => { c with records := [{ bits := 7 }], produced := 256, ring := 0x4000, consumed := 100 })) fun t =>
    (leNat (Memory.read t.mem 0x4000 8), leNat (Memory.read t.mem 0x4040 8), leNat (Memory.read t.mem 0x4078 8))) = some (257, 7, 257) := by decide +kernel
theorem witness_KillingAContext : demo.ctx? 0 = some placedContext ∧ (∀ r ∈ demo.reservations, r.ctx ≠ 0) := by decide +kernel

/-! ### Demand -/

/-- A graph of tile 0 alone, live in slot 0, with one channel from boundary 6 to its VC 5, an operator with a SOFT input at stage 0 and a
stateful one at stage 5. -/
def chan0 : Chan := { desc := (6 <<< 50) ||| (5 <<< 36), depth := 8 }
def graph0 : Graph := { image := 0x4000, bed := 0, statrec := 0, sections := [], chans := [chan0] }
def img0 : ChainImage := { elems := ((Vector.replicate 6 (0 : BitVec 64)).set 0 (BitVec.ofNat 64 (2 ^ 58 + 0x8000))).set 5 (BitVec.ofNat 64 (0x1F * 2 ^ 58)), lanes := 1,
                           dtab := [0x4000000000000000, 0x7000000000000000] }
def graphCtx : Context := { placedContext with gslots := placedContext.gslots.set 0 (some graph0), liveSlot := some 0 }
def demoGraph (f : Context → Context := id) : State :=
  { (demoMap fun T => { T with stream := some { use := .graph 0, img := img0 } }) with contexts := [f graphCtx] }
def operWord (n : Nat) : Word := BitVec.ofNat 64 (n * 2 ^ 62 + (if n = 1 then 5 * 1024 else 0))
/-- The port a word names, as a number: a channel, an operator or an input. -/
def portCase (s : State) (w : Word) (l : List Nat) : Option Nat :=
  match s.openPort graphCtx w l with | .ok (.chan ..) => some 0 | .ok (.oper ..) => some 1 | .ok (.input ..) => some 2 | .error _ => none
theorem witness_DemandWords :
    demoGraph.taskFree 0 [1, 2, 3] [] ∧ demoGraph.tileCtx 0 = some graphCtx ∧ portCase demoGraph (operWord 0) [0] = some 0 ∧
    isEdge chan0.desc = false ∧ portCase demoGraph (operWord 2) [0, 2] = some 2 ∧ (xferAt img0 img0.elems[0] 0).kind = 7 ∧
    demoGraph.openStateful graphCtx (operWord 1) = .ok (.oper 0 0 0 5) ∧ coalesce [] 0 maxTick = some [(0, maxTick)] ∧
    coalesce (List.replicate 8 (0, 0) |>.zipIdx |>.map fun (_, i) => (10 * i, 10 * i)) 100 101 = none ∧
    demoGraph.locate 0 0 0x10000 { write := true, engine := true, versioned := true } = .ok (.dev 0x10000 true 2) :=
  ⟨free_of _ _ _ _ (by decide), by decide, by decide, by decide, by decide, by decide, ok_of (by decide), by decide, by decide, ok_of (by decide)⟩
/-- R301: the interval is held at the sink, its reply noted; ticks beyond 2^48 - 1 trap. -/
theorem test_dmd : (seen (exec (.dmd 1 2 3 1 4 0) ((demoGraph.setX 2 5).setX 3 9)) fun t =>
      ((t.port 0 (.sink 0 0 0)).held, (t.ctx? 0).map fun c => c.dmds.map (·.need), t.cur.pc)) = some ([(5, 9)], some [[(5, 9)]], 4) ∧
    (seen (exec (.dmd 1 2 3 1 4 0) ((demoGraph.setX 2 5).setX 3 (2 ^ 48))) fun t => t.cur.fault.map (·.code)) = some (some .demandRange) := by decide +kernel
/-- R305, R306: a cutting of 1 to 2^32 - 1 ticks; a misaligned state address. -/
theorem test_dcut : (seen (exec (.dcut 1 2 0) ((demoGraph.setX 1 (operWord 1)).setX 2 7)) fun t => (t.port 0 (.oper 0 0 0 5)).cut) = some (some 7) ∧
    (seen (exec (.dcad 1 2 3 0) ((demoGraph.setX 1 (operWord 1)).setX 2 8)) fun t => t.cur.fault.map (·.code)) = some (some .misaligned) := by decide +kernel
/-- A state whose one demand port is given, in focus. -/
def demoPort (p : DPort) : State := { demoGraph (fun c => { c with ports := [p] }) with focus := { ctx := 0, port := p.port, id := 9 } }
theorem witness_DemandPlaneMoves :
    let src : DPort := { port := .source 0 0 0, held := [(3, 4)], reg := some (0, 5) }
    let post : DPort := { port := .source 0 0 0, reg := some (0, 5), posts := [7] }
    let snk : DPort := { port := .sink 0 0 0, landed := [{ kind := 1, data := 12 }] }
    let cut : DPort := { port := .oper 0 0 0 5, cuts := [{ tick := 6, lanes := [(0, 1)], written := 6 }], nowVa := some 0x10000 }
    let fl : DemandFlit := { id := 9, port := .source 0 0 0, feed := .sink 0 0 0, t0 := 1, t1 := 2, cancel := true }
    (∀ p ∈ [src, post, snk, cut], ((demoPort p).ctx? (portCtx p.port)).isSome = true ∧ (demoPort p).port (portCtx p.port) p.port = p) ∧
    ((demoPort src).ctx? 0).map (fun c => (c.liveSlot, c.stopping.isNone, (demoPort src).ctxRuns c, (c.graph? 0).isSome)) = some (some 0, true, true, true) ∧
    (demoPort post).vcRoom 0 5 = true ∧
    (demoPort cut).locate 0 0 (0x10000 + 8 * 6) { write := true, engine := true, versioned := true } = .ok (.dev 0x10030 true 2) ∧
    ((demoPort cut).vword 0x10030).newest.1 < 6 ∧ ((demoPort cut).vword 0x10030).versions.length < 4 ∧
    (({ demoPort src with demand := [fl] } : State).demand.find? fun f => f.id == 9 && f.cancel) = some fl ∧
    coalesce [(3, 4)] 5 6 = some [(3, 6)] :=
  ⟨by decide +kernel, by decide +kernel, by decide +kernel, ok_of (by decide +kernel), by decide +kernel, by decide +kernel, by decide +kernel, by decide⟩
/-- R293: serving the lowest interval posts its words. -/
theorem test_port_serve : (seen (exec .portServe (demoPort { port := .source 0 0 0, held := [(3, 4), (8, 9)], reg := some (0, 5) })) fun t =>
    ((t.port 0 (.source 0 0 0)).serving, (t.port 0 (.source 0 0 0)).held)) = some (some (3, 4), [(8, 9)]) := by decide +kernel

/-! ### Lanes -/

theorem demoV_command (tag : BitVec 5) (data : Wave) (i : Instr) (c : Cmd)
    (h : (demoV tag data).sysMode = false ∧ (demoV tag data).cur.cls.isOpen = false ∧ (demoV tag data).cur.pendX = [] ∧ (demoV tag data).cur.pendP = [] ∧
      (demoV tag data).cur.pc.toNat + cmdLen i ≤ 0xFFFC ∧ cmdGuard c (demoV tag data) = true ∧ busyStop i c (demoV tag data).focus.tile (demoV tag data) = none ∧
      (demoV tag data).here.held = []) : (demoV tag data).commandFree i c [] := command_of _ _ _ _ h
/-- An f32 block 1 × 1 from v8, v16, v24 into v0. -/
def lane0 : Cmd := { c0 with tag := 1, s2 := 8, s3 := 16, s4 := 24 }
theorem witness_LaneArithmetic :
    let s := demoV 1
    s.alive s.issue = true ∧ s.commandFree (.vfma lane0) lane0 [] ∧ chk3 lane0 s.issue s = .ok () ∧
    s.commandFree (.vexp2 { lane0 with s3 := 0, s4 := 0 }) { lane0 with s3 := 0, s4 := 0 } [] ∧
    chk1 { lane0 with s3 := 0, s4 := 0 } tagFloat s.issue s = .ok () :=
  ⟨by decide, demoV_command _ _ _ _ (by decide), ok_of (by decide), demoV_command _ _ _ _ (by decide), ok_of (by decide)⟩
theorem witness_LaneElementsAreRoundedOnce :
    (List.replicate 16 [Val.fallow]).length = tagCount 1 ∧ (List.replicate 16 0).length = tagCount 1 ∧ (15 : Nat) < tagCount 1 ∧
    (List.replicate 16 [Val.fallow])[15]? = some [.fallow] := by decide
/-- The element of a lane in a v register after a command. -/
def elemAfter (i : Instr) (s : State) (tag : BitVec 5) (j : Nat) : Option Nat := seen (exec i s) fun t => (elems tag (t.here.vreg 0)).getD j 0
/-- R124, R126: 1.5 + 1.5 in f32; the fallow code in a fallow element. -/
theorem test_vadd : elemAfter (.vadd { lane0 with s4 := 0 }) (demoV 1 0x3FC00000) 1 0 = some 0x40400000 ∧
    elemAfter (.vadd { lane0 with s4 := 0 }) (demoV 1 (BitVec.ofNat 512 (fallowCode 1))) 1 0 = some (fallowCode 1) := by decide +kernel
/-- R124: 2 times 2 plus 2, and the square root of 2.25. -/
theorem test_vfma : elemAfter (.vfma lane0) (demoV 1 0x40000000) 1 0 = some 0x40C00000 ∧
    elemAfter (.vsqrt { lane0 with s3 := 0, s4 := 0 }) (demoV 1 0x40100000) 1 0 = some 0x3FC00000 := by decide +kernel
theorem witness_LaneBitsAndCompare :
    let s := demoV 0x0E
    let c : Cmd := { lane0 with tag := 0x0E, s4 := 0 }
    s.alive s.issue = true ∧ s.commandFree (.vsra c) c [] ∧ chkShift c s.issue s = .ok () ∧ s.commandFree (.vcmp c) c [] ∧ chk2 c s.issue s = .ok () :=
  ⟨by decide, demoV_command _ _ _ _ (by decide), ok_of (by decide), demoV_command _ _ _ _ (by decide), ok_of (by decide)⟩
/-- R122: a shift of a 32-bit pattern by 33 is a shift by 1, and the sign is kept. -/
theorem test_vshift : elemAfter (.vshl { lane0 with tag := 0x0E, s4 := 0 }) (demoV 0x0E 33) 0x0E 0 = some 66 ∧
    elemAfter (.vsra { lane0 with tag := 0x0E, s3 := 0x8001, s4 := 0 }) (demoV 0x0E 0x80000002) 0x0E 0 = some 0xC0000001 := by decide +kernel
theorem witness_LaneMoves :
    let s := demoV 1
    let c : Cmd := { lane0 with s4 := 0, s3 := 0x800F }
    s.alive s.issue = true ∧ s.commandFree (.vbcast c) c [] ∧ chkVbcast c s.issue s = .ok () ∧ s.commandFree (.vshf c) c [] ∧
    chk1 c inGroupC s.issue s = .ok () ∧ isX c.s2 = false ∧ isX { c with s2 := 0x4001 }.s2 = true :=
  ⟨by decide, demoV_command _ _ _ _ (by decide), ok_of (by decide), demoV_command _ _ _ _ (by decide), ok_of (by decide), by decide, by decide⟩
/-- R129: a broadcast of element 0, and a shift of elements by one. -/
theorem test_moves : elemAfter (.vbcast { lane0 with s3 := 0x8000, s4 := 0 }) (demoV 1 7) 1 15 = some 7 ∧
    elemAfter (.vshf { lane0 with s3 := 0x8001, s4 := 0 }) (demoV 1 (7 <<< 32)) 1 0 = some 7 := by decide +kernel
theorem witness_LaneReductions :
    let s := demoV 1
    let r : Cmd := { lane0 with s1 := 0xD000, s3 := 0, s4 := 0 }
    let d : Cmd := { c0 with tag := 1, s2 := 0xD00F }
    s.alive s.issue = true ∧ s.commandFree (.vacc r) r [] ∧ chkReduce r s.issue s = .ok () ∧ s.commandFree (.vdrn d) d [] ∧ chkVdrn d s.issue s = .ok () ∧
    s.commandFree (.vscan { lane0 with s3 := 0, s4 := 0 }) { lane0 with s3 := 0, s4 := 0 } [] ∧
    chk1 { lane0 with s3 := 0, s4 := 0 } inScan s.issue s = .ok () ∧
    (demoTile fun T => { T with stages := Vector.replicate 6 (some 0) }).here.stages[5].isSome = true :=
  ⟨by decide, demoV_command _ _ _ _ (by decide), ok_of (by decide), demoV_command _ _ _ _ (by decide), ok_of (by decide),
   demoV_command _ _ _ _ (by decide), ok_of (by decide), by decide⟩
/-- R131, R133: the sum of sixteen ones, drained. -/
theorem test_vred : elemAfter (.vdrn { c0 with tag := 1, s2 := 0xD000 })
      (after (exec (.vred { lane0 with s1 := 0xD000, s3 := 0, s4 := 0 })
        (demoV 1 (BitVec.ofNat 512 (((List.range 16).map fun i => 0x3F800000 * 2 ^ (32 * i)).sum))))) 1 0 = some 0x41800000 := by decide +kernel

/-! ### Conversions, chain images, the stream array -/

theorem witness_Conversions :
    let s := demoV 1
    let c : Cmd := { c0 with tag := 2, s2 := 8, s3 := 0x8001 }
    let q : Cmd := { c0 with tag := 6, s2 := 8 }
    s.alive s.issue = true ∧ s.commandFree (.cvt c) c [] ∧ chkCvt c s.issue s = .ok () ∧
    (demoV 2).commandFree (.qblk { q with s3 := 0x8003 }) { q with s3 := 0x8003 } [] ∧ chkQblk { q with s3 := 0x8003 } (demoV 2).issue (demoV 2) = .ok () ∧
    (demoV 6).commandFree (.dqblk { c with s3 := 0x8003 }) { c with s3 := 0x8003 } [] ∧ chkDqblk { c with s3 := 0x8003 } (demoV 6).issue (demoV 6) = .ok () ∧
    chkTag q 7 (demoV 7).issue (demoV 7) = .ok () ∧ checkTags { c with tag := 0 } (s.block s.issue c c.s2) = .ok 1 ∧
    s.commandFree (.falTest { c with tag := 0 }) { c with tag := 0 } [] ∧ chkFalTest { c with tag := 0 } s.issue s = .ok () ∧
    s.commandFree (.tagSet { c0 with tag := 0x11 }) { c0 with tag := 0x11 } [] :=
  ⟨by decide, demoV_command _ _ _ _ (by decide), ok_of (by decide), demoV_command _ _ _ _ (by decide), ok_of (by decide),
   demoV_command _ _ _ _ (by decide), ok_of (by decide), ok_of (by decide), ok_of (by decide), demoV_command _ _ _ _ (by decide), ok_of (by decide),
   demoV_command _ _ _ _ (by decide)⟩
/-- R103: 1.5 of f32 is 0x3FC0 of BF16, in the upper half of the destination. -/
theorem test_cvt : elemAfter (.cvt { c0 with tag := 2, s2 := 8, s3 := 0x8001 }) (demoV 1 0x3FC00000) 2 16 = some 0x3FC0 := by decide +kernel
/-- R113: `fal.test` counts present elements. -/
theorem test_fal : (seen (exec (.falTest { c0 with s1 := 0x4001, s2 := 8, s3 := 0xE004 })
    (demoV 1 (BitVec.ofNat 512 (fallowCode 1)))) fun t => (t.getX 1, t.getP 4)) = some (15, true) := by decide +kernel
theorem witness_ChainImageCommands :
    let s := demoV 1
    let r : Cmd := { c0 with s1 := 0x8006, s2 := 0x8003, s3 := 0x8001 }
    let j : Cmd := { c0 with s1 := 0x8005, s2 := 0x8FFF, s3 := 0x803F }
    let g : Cmd := { c0 with s1 := 0x4002 }
    let v : Cmd := { c0 with s2 := 8 }
    s.commandFree (.vstr r) r [] ∧ immN r.s1 = 6 ∧ s.commandFree (.vjoin j) j [] ∧ immN j.s1 = 5 ∧ s.commandFree (.vcfg g) g [] ∧
    chkVcfg g s.issue s = .ok () ∧ ownOffset s.issue (vcfgAddr g s.issue) = some 0 ∧ s.commandFree (.vrun v) v [] :=
  ⟨demoV_command _ _ _ _ (by decide), by decide, demoV_command _ _ _ _ (by decide), by decide, demoV_command _ _ _ _ (by decide), ok_of (by decide),
   by decide, demoV_command _ _ _ _ (by decide)⟩
/-- R138: `vstr` puts a steer at boundary 6. -/
theorem test_vstr : (seen (exec (.vstr { c0 with s1 := 0x8006, s2 := 0x8003, s3 := 0x8001 }) demo) fun t => t.here.chain.routers[6]) =
    some (0x2C100000) := by decide +kernel

/-- The array of tile 0 runs a `vrun` over its lane 15: an addition at stage 0 whose inputs are port 1 and a constant; a steer at boundary 1, a merge at
boundary 2, a carry of VC 4 at boundary 3. -/
def imgRun : ChainImage := { elems := (Vector.replicate 6 (0 : BitVec 64)).set 0 (BitVec.ofNat 64 (2 * 2 ^ 58 + 2 ^ 55 + 2 ^ 52 + 0x0E * 2 ^ 44)), lanes := 0x8000,
                              routers := (((Vector.replicate 7 (0 : BitVec 32)).set 1 0x20000000).set 2 0x40000000).set 3 0x61000000 }
def run0 (l : Lane) : Stream := { use := .vrun demo.issue [] [1] none none none 1, img := imgRun, lanes := (Vector.replicate 16 {}).set 15 l }
def demoRun (l : Lane) (unit : Nat) : State := { (demoTile fun T => { T with stream := some (run0 l), vcs := T.vcs.set 4 { q := [{ kind := 0, data := 5 }] } }) with
  focus := { lane := 15, unit } }
theorem witness_StreamMoves :
    let k : Tok := { kind := 0, val := 3, bool := true }
    let e : Lane := { entry := some k }
    let d : Lane := { elems := (Vector.replicate 6 {}).set 0 { own := some k } }
    let m : Lane := { elems := (Vector.replicate 6 {}).set 1 { own := some k }, decisions := Vector.replicate 4 [some true] }
    (run0 e).on 15 = true ∧ (demoRun e 0).here.stream = some (run0 e) ∧
    (eOp ((demoRun e 0).here.eWord (run0 e) 15 0) = 2 ∧ ∀ i < 2, (demoRun e 0).inputHead 0 (run0 e) 15 0 i = .tok k) ∧
    (eOp ((demoRun m 2).here.eWord (run0 m) 15 2) = 0) ∧
    (rKind ((demoRun d 1).here.rWord (run0 d) 15 1) = 1 ∧ (run0 d).lanes[15].above 1 = some k) ∧
    (rKind ((demoRun m 2).here.rWord (run0 m) 15 2) = 2 ∧ rTarget ((demoRun m 2).here.rWord (run0 m) 15 2) < 4 ∧ (run0 m).lanes[15].above 2 = some k ∧
      rIn2Vc ((demoRun m 2).here.rWord (run0 m) 15 2) = false) ∧
    (rKind ((demoRun e 3).here.rWord (run0 e) 15 3) = 3 ∧ (demoRun e 3).isBuffer 0 4 = false ∧ ((demoRun e 3).vchan 0 4).q = [{ kind := 0, data := 5 }] ∧
      ∀ M ∈ (run0 e).lanesOf { kind := 0, data := 5 }, (run0 e).lanes[M].bnd[3] = none) ∧
    ((∀ M ∈ (run0 {}).active, (run0 {}).lanes[M].empty = true) ∧ imgRun.loops = [] ∧ (demoRun {} 0).alive demo.issue = true) := by decide +kernel
/-- R137: an addition of integers fires on 3 and 3. -/
theorem test_element_fires : (seen (exec .elementFire (demoRun { entry := some { kind := 0, val := 3 } } 0)) fun t =>
    t.here.stream.map fun x => (x.lanes[15].elems[0].last, x.lanes[15].elems[0].own.map (·.val), x.lanes[15].entry.isNone)) =
    some (some (some 6, some 6, true)) := by decide +kernel
/-- R139: a merge takes the input its decision names. -/
theorem test_merge : (seen (exec .mergeTake (demoRun { elems := (Vector.replicate 6 {}).set 1 { own := some { kind := 0, val := 9 } },
                                                                      decisions := Vector.replicate 4 [some true] } 2)) fun t =>
    t.here.stream.map fun x => (x.lanes[15].bnd[2].map (·.val), x.lanes[15].decisions[0])) = some (some (some 9, [])) := by decide +kernel

/-! ### The matrix array -/

/-- BF16 planes of ones in m0 and in the active plane; v registers of BF16 ones. -/
def ones (n : Nat) : Nat := ((List.range n).map fun i => 0x3F80 * 2 ^ (16 * i)).sum
def demoMat (f : Tile → Tile := id) : State := demoV 2 (BitVec.ofNat 512 (ones 32)) fun T => f { T with
  m := Vector.replicate 16 { data := 1, tag := 2 }, active := { data := BitVec.ofNat 16384 (ones 1024), tag := 2, loaded := true } }
theorem demoMat_command (i : Instr) (c : Cmd) (h : demoMat.sysMode = false ∧ demoMat.cur.cls.isOpen = false ∧ demoMat.cur.pendX = [] ∧
      demoMat.cur.pendP = [] ∧ demoMat.cur.pc.toNat + cmdLen i ≤ 0xFFFC ∧ cmdGuard c demoMat = true ∧ busyStop i c demoMat.focus.tile demoMat = none ∧
      demoMat.here.held = []) : demoMat.commandFree i c [] := command_of _ _ _ _ h
def mst0 : Cmd := { c0 with s1 := 0xC803, s2 := 8, s3 := 0x801E }
def matCmd (instr : Instr) : MatCmd := { instr, iss := demo.issue }
theorem witness_MatrixCommandsAreQueued :
    let l : Cmd := { c0 with s1 := 0xC000 }
    let d : Cmd := { c0 with tag := 2, s2 := 0xC803, s3 := 0x801F }
    let q : Tile → Tile := fun T => { T with matQ := List.replicate 3 (matCmd (.mswp c0)) }
    demoMat.commandFree (.mls l) l [] ∧ chkMls l demoMat.issue demoMat = .ok () ∧ demoMat.commandFree (.mst mst0) mst0 [] ∧
    chkMst mst0 demoMat.issue demoMat = .ok () ∧ demoMat.commandFree (.mdr d) d [] ∧ chkMdr d demoMat.issue demoMat = .ok () ∧
    demoMat.commandFree (.mswp c0) c0 [] ∧ demoMat.here.matQ = [] ∧ (demoMat q).here.matQ.length = 3 ∧
    (demoMat fun T => { T with matQ := List.replicate 4 (matCmd (.mswp c0)) }).here.matQ.length = 4 :=
  ⟨demoMat_command _ _ (by decide +kernel), ok_of (by decide +kernel), demoMat_command _ _ (by decide +kernel), ok_of (by decide +kernel),
   demoMat_command _ _ (by decide +kernel), ok_of (by decide +kernel), demoMat_command _ _ (by decide +kernel), by decide +kernel, by decide +kernel,
   by decide +kernel⟩
/-- R157: a swap exchanges the planes; the one that was active is not loaded. -/
theorem test_mswp : (seen (exec (.mswp c0) (demoTile fun T => { T with shadow := { data := 7, tag := 4, loaded := true } })) fun t =>
    (t.here.active.data.toNat, t.here.active.tag, t.here.shadow.loaded, t.here.matQ.length)) = some (7, 4, false, 0) := by decide +kernel
/-- R167: a clear zeroes the z registers of its mask alone. -/
theorem test_mclr : (seen (exec (.mclr { c0 with s1 := 0x8002 }) (demoTile fun T => { T with z := Vector.replicate 4 (Vector.replicate 32 (Vector.replicate 32
    { value := 1, count := 1 })) })) fun t => (((t.here.z[0])[31])[31].count, ((t.here.z[1])[31])[31].count)) = some (1, 0) := by decide +kernel
theorem witness_MatrixArrayWorks :
    let q : MatCmd := { matCmd (.mls c0) with mreg := { data := 1, tag := 2 } }
    let v : MatCmd := { matCmd (.mls c0) with vcs := [4], done := 30 }
    let r : MatCmd := { matCmd (.mst mst0) with regs := List.replicate 2 { data := BitVec.ofNat 512 (ones 32), tag := 2 } }
    let p : MatCmd := { matCmd (.mst { mst0 with s4 := 0x8008 }) with ready := true }
    q.instr = .mls c0 ∧ q.vcs = [] ∧ v.done < 31 ∧
    ((demoTile fun T => { T with vcs := T.vcs.set 4 { q := [{ kind := 0, data := 5 }] } }).vchan 0 4).q = [{ kind := 0, data := 5 }] ∧
    (r.iss.xOrImm mst0.s3 0 + r.done < 32 ∧ ((r.regs.flatMap (regRows r.actTag))[r.done]?).isSome = true ∧
      r.done + 1 < (r.regs.flatMap (regRows r.actTag)).length ∧ pairsWith r.actTag demoMat.here.active.tag = true ∧ r.iss.tile = 0) ∧
    (isHome 0 = true ∧ p.paired = true ∧ ({ demo with tiles := (demo.tiles.set 0 { demo.tile 0 with matQ := [p] }).set (partner 0) { owner := some 0, matQ := [p] } }.tile (partner 0)).matQ = [p]) ∧
    p.part.map (·.row) = p.part.map (·.row) := by decide +kernel
/-- R155, R159: a row of ones times a plane of ones is 32 in every cell, with 32 products. -/
theorem test_matrix_row : (seen (exec .zRowLand (demoMat fun T => { T with matQ := [{ matCmd (.mst mst0) with
      regs := [{ data := BitVec.ofNat 512 (ones 32), tag := 2 }] }] })) fun t =>
    (((t.here.z[3])[30])[31].value, ((t.here.z[3])[30])[31].count, t.here.matQ.length)) = some (0x42000000, 32, 0) := by decide +kernel

/-! ### Copies and address generators -/

def cpy0 : Cmd := { c0 with s1 := 0x4004, s2 := 0x4003, s3 := 0x8010, s4 := 0xDC3F, s5 := 0xD805 }
def demoX : State := (demoMap.setX 3 0x40).setX 4 0x80
theorem demoX_command (i : Instr) (c : Cmd) (xs : List XReg) (h : demoX.sysMode = false ∧ demoX.cur.cls.isOpen = false ∧ demoX.cur.pendX = [] ∧
      demoX.cur.pendP = [] ∧ demoX.cur.pc.toNat + cmdLen i ≤ 0xFFFC ∧ cmdGuard c demoX = true ∧ busyStop i c demoX.focus.tile demoX = none ∧
      demoX.here.held = []) : demoX.commandFree i c xs := command_of _ _ _ _ h
def copy0 (rows : List CopyRow) (dst : CopyDst) : Copy := { id := 7, iss := demo.issue, dst, rows, count := 0, reply := .vc 0 5 }
def demoCopy (k : Copy) (bind : Option (TileId × SlotId) := none) : State :=
  { demoX with dies := demoX.dies.set 0 { demoX.dies[0] with ch := demoX.dies[0].ch.set 63 { bind, q := [k] } }, focus := { id := 7 } }
theorem witness_CopiesAreIssued :
    let m : Cmd := { cpy0 with s1 := 0x4005 }
    demoX.commandFree (.cpy cpy0) cpy0 (replyRegs cpy0.s5) ∧ chkCpy cpy0 demoX.issue demoX = .ok () ∧
    demoX.commandFree (.mcst m) m (replyRegs m.s5) ∧ isX cpy0.s1 = true :=
  ⟨demoX_command _ _ _ (by decide +kernel), ok_of (by decide +kernel), demoX_command _ _ _ (by decide +kernel), by decide⟩
theorem witness_CopiesMove :
    let r : CopyRow := { src := 0x40, dst := 0x80, len := 16 }
    let a := copy0 [r] .mem
    let b := { copy0 [{ r with len := 64 }] .chan with started := true }
    let e := { copy0 [] .mem with started := true }
    let p := { e with ended := true }
    (∀ k ∈ [a, b, e, p], (demoCopy k).copy? 0 7 = some (63, k) ∧ (demoCopy k).copyTurn 0 63 7 = true) ∧
    (demoCopy a).locateRange 0 0 0x40 r.chunk { read := true, engine := true } = .ok [(.dev 0x40 false 0, r.chunk)] ∧
    (demoCopy a).locateRange 0 0 0x80 r.chunk { write := true, engine := true } = .ok [(.dev 0x80 false 0, r.chunk)] ∧
    ((demoCopy b (some (0, 5))).dies[0].ch[63].bind = some (0, 5) ∧ (demoCopy b (some (0, 5))).vcRoom 0 5 = true ∧
      (demoCopy b (some (0, 5))).savingCtx 0 = false) :=
  ⟨by decide +kernel, ok_of (by decide +kernel), ok_of (by decide +kernel), by decide +kernel⟩
/-- R229: sixteen bytes are moved, and the copy counts them. -/
theorem test_copy : (seen (exec .copyFlitDeliver { demoCopy { copy0 [{ src := 0x40, dst := 0x80, len := 16 }] .mem with started := true } with mem := [(0x41, 9)] }) fun t =>
    (t.mem, (t.copy? 0 7).map fun k => (k.2.count, k.2.rows))) = some ([(0x41, 9), (0x81, 9)], some (16, [])) := by decide +kernel
/-- R228: the reply of an ended copy goes to its VC, and the copy is gone. -/
theorem test_copy_reply : (seen (exec .copyReply (demoCopy { copy0 [] .mem with started := true, ended := true, count := 16 })) fun t =>
    ((t.copy? 0 7).isSome, (t.vchan 0 5).q.length)) = some (false, 1) := by decide +kernel
theorem witness_AddressGenerators :
    let g : Cmd := { c0 with tag := 1, s1 := 0xD805, s2 := 0x4003, s3 := 8, s4 := 0x8004 }
    let c : Cmd := { c0 with tag := 1, s1 := 0x4003, s2 := 8, s3 := 16 }
    let s := (demoV 0x10).setX 3 0x40
    let a : AgCmd := { instr := .gath g, iss := demo.issue, fmt := 1, crd := [3], out := some (0, 5), base := 0x40, bound := some 4 }
    let b : AgCmd := { instr := .scat c, iss := demo.issue, fmt := 1, crd := [3], vals := [9], base := 0x40, bound := some 4 }
    chkGath g s.issue s = .ok () ∧ ((gathOut g s.issue s).toOption.isSome = true) ∧
    (demoMap fun T => { T with ag := T.ag.set 3 { cmd := some a } }).here.ag[3].cmd = some a ∧ demoMap.vcRoom 0 5 = true ∧
    a.buf.length + 1 < tagCount a.fmt ∧ (demoMap.agRead a (a.base + 3 * elemBytes a.fmt)).toOption = some 0 ∧
    demoMap.locateRange 0 0 (b.base + 3 * elemBytes b.fmt) (elemBytes b.fmt) { write := true, engine := true } = .ok [(.dev 0x4C false 0, 4)] ∧
    (agDescOf 0).size 0 < 2 ^ 32 :=
  ⟨ok_of (by decide +kernel), by decide +kernel, by decide +kernel, by decide +kernel, by decide +kernel, by decide +kernel, ok_of (by decide +kernel), by decide +kernel⟩
/-- R240: coordinate 3 below its bound is stored at its place, and counted. -/
theorem test_scatter : (seen (exec .agValueReturn { (demoMap fun T => { T with ag := T.ag.set 3 { cmd := some { instr := .scat c0, iss := demo.issue, fmt := 1,
                                                                                                                                  crd := [3], vals := [9], base := 0x40, bound := some 4 } } }) with focus := { unit := 3 } }) fun t =>
    (t.mem, (t.here.ag[3]).cmd.map (·.count))) = some ([(0x4C, 9)], some 1) := by decide +kernel

/-! ### Walks -/

def walk0 (phase : WPhase) (cond : WCond := .lt) : Walk :=
  { id := 2, iss := demo.issue, policy := 0, fmt := 0, limit := 5, progVa := 0, prog := [], key := Vector.replicate 4 0,
    snap := none, w := Vector.replicate 8 0x40, cond, rule := 31, steps := 4, owner := some 0, walker := 0, phase, reply := .vc 0 5 }
def demoWalk (w : Walk) : State := { demoMap with walks := [w], focus := { walk := 2 } }
theorem witness_WalkRulesCompute : (demoWalk (walk0 .running)).walk? 2 = some (walk0 .running) ∧ (walk0 .running).phase = .running ∧
    (walk0 .running).rule ≤ 31 ∧ (walk0 .running).steps ≠ (walk0 .running).limit ∧
    ((walk0 .running).setReg 1 0x41).reg 0 < ((walk0 .running).setReg 1 0x41).reg 1 := by decide
/-- R253: a compare of 0x40 with 0x40; a jump under it; a constant below zero is added. -/
theorem test_rules : ((demoWalk (walk0 .running)).walk? 2).isSome = true ∧
    (seen (exec (.wkCmp 0 1) (demoWalk (walk0 .running))) fun t => (t.walk? 2).map fun w => (w.cond, w.steps, w.rule)) = some (some (.eq, 5, 32)) ∧
    (seen (exec (.wkJmp 3 1) (demoWalk (walk0 .running))) fun t => (t.walk? 2).map (·.rule)) = some (some 3) ∧
    (seen (exec (.wkAddImm 1 0 0x1FFFF) (demoWalk (walk0 .running))) fun t => (t.walk? 2).map fun w => w.reg 1) = some (some 0x3F) := by decide +kernel
/-- The same, with page 0 in the walker's TLB. -/
def demoTlb (w : Walk) : State := let s := demoWalk w
  { s with walkTlb := s.walkTlb.set 0 [{ ctx := 0, page := 0, level := 0, leaf := 0x1D }] }
theorem witness_WalkRulesReadOrEnd :
    (demoWalk (walk0 .running)).walkMiss (walk0 .running) 0x48 = true ∧
    (demoTlb (walk0 .running)).walkMiss (walk0 .running) 0x48 = false ∧ (demoTlb (walk0 .running)).walkPlace (walk0 .running) 0x48 = .ok (0x48, false) ∧
    readable 0x40 0x48 1 = true ∧ readable 0x48 0x48 8 = true ∧ readable 0x49 0x49 1 = false ∧ stackOf 0x48 = 0 ∧ (walk0 .running).policy = 0 ∧
    ((walk0 .running).reg 1).toNat ≤ ((walk0 .running).reg 0).toNat :=
  ⟨by decide +kernel, by decide +kernel, ok_of (by decide +kernel), by decide, by decide, by decide, by decide, by decide, by decide⟩
/-- R253, R256: a failed check ends the walk with its fault and rule. -/
theorem test_chk : (seen (exec (.wkChk 0 1) (demoWalk (walk0 .running))) fun t => (t.walk? 2).map (·.phase)) =
    some (some (.replying 3 [] FaultCode.walkPointer.val 31)) := by decide +kernel
theorem witness_WalksRun :
    let c : Cmd := { c0 with s1 := 0x4003, s2 := 0x4004, s3 := 0x4006, s4 := 0x8014, s5 := 0xD805 }
    let s := (demoMap.setX 3 0x80).setX 4 0x40
    let q := walk0 .queued
    let r := { walk0 (.reading 0x48 1 3 true false) with place := some (0x48, false) }
    let p := walk0 (.reading 0x48 1 3 true false)
    let u : State := { demoWalk p with focus := { walk := 2, unit := 1 } }
    let v : State := { u with dies := u.dies.set 0 { u.dies[0] with dtlb := [{ ctx := 0, page := 0, level := 0, leaf := 0x1D }] } }
    let e := walk0 (.replying 2 [] 0 31)
    s.commandFree (.walk c) c (walkRegs c) ∧ chkWalk c s.issue s = .ok () ∧ walkFallow c s.issue s = false ∧
    s.owned (s.walkerFor s.issue 0x40) < 32 ∧ translated 0x80 = true ∧ findTlb s.walkTlb[walkerIx (s.walkerFor s.issue 0x40)] 0 0 = none ∧
    (demoWalk q).walk? 2 = some q ∧ (demoWalk q).owned 0 < 32 ∧ (∀ x ∈ (demoWalk q).walks, x.phase = .queued → ¬ x.id < q.id) ∧
    (demoWalk r).walk? 2 = some r ∧ (demoWalk r).walkWord r 0x48 false = some 0 ∧ { demoWalk r with vwords := [(0x10000, { versions := [(5, 1)], floor := 5, never := [] })] }.walkWord { r with snap := some 3 } 0x10000 true = none ∧
    (u.walk? 2 = some p ∧ u.walkMissDie p 0x48 = true ∧ u.diePoolFull (walkerDie 0) = false ∧
      v.walkMissDie p 0x48 = false ∧ v.walkLeaf p 0x48 = some (0x1D, 0) ∧ v.walkPlace p 0x48 = .ok (0x48, false)) ∧
    (demoWalk e).walk? 2 = some e ∧ e.reply = .vc 0 5 ∧ (∃ x ∈ (demoWalk q).walks, x.phase = .queued ∧ x.id < 3) :=
  ⟨command_of _ _ _ _ (by decide +kernel), ok_of (by decide +kernel), by decide +kernel, by decide +kernel, by decide, by decide +kernel, by decide, by decide +kernel, by decide,
   by decide, by decide +kernel, by decide +kernel, ⟨by decide, by decide +kernel, by decide +kernel, by decide +kernel, by decide +kernel, ok_of (by decide +kernel)⟩, by decide,
   by decide, by decide⟩
/-- R254: `wk.nxt` of a null pointer ends the walk as a miss. -/
theorem test_nxt_null : (seen (exec .walkMemoryRead (demoWalk { walk0 (.reading 0x48 1 3 true false) with place := some (0x48, false) })) fun t => (t.walk? 2).map (·.phase)) =
    some (some (.replying 2 [] 0 31)) := by decide +kernel

/-! ### Graphs and the fabric -/

/-- The same, with the shadow words of its one region loaded. -/
def demoLoaded : State := demoGraph fun c => { c with regions := [{ bed := 0, shadow := .loaded }] }
theorem witness_GraphCommands :
    let s := demoGraph
    let d : Cmd := { c0 with s1 := 0x8000, s2 := 0x8040 }
    let idle : State := demoGraph fun c => { c with liveSlot := none }
    s.ctx? s.issue.ctx = some graphCtx ∧ s.commandFree (.gsh { c0 with s3 := 0xD805 }) { c0 with s3 := 0xD805 } [] ∧
    ((gshRegion { c0 with s3 := 0xD805 } s.issue s).toOption.map fun x => (x.1.num, x.2)) = some (0, 0) ∧
    ((grotRegion c0 demoLoaded.issue demoLoaded).toOption.map fun x =>
      (x.1.num, x.2, (demoLoaded.rotTiles x.1 x.2.bed).length)) =
      some (0, { bed := 0, shadow := .loaded }, 1) ∧
    ((gdepCheck d s.issue s).toOption.map fun x => (x.2.1, x.2.2.1, x.2.2.2.2)) = some (0, 0, 64) ∧ s.chanIdle chan0 = true ∧
    idle.commandFree (.gstr c0) c0 [] ∧ (graphCtx.gslots[0]).isSome = true ∧ s.commandFree (.gstp { c0 with s1 := 0xD805 }) { c0 with s1 := 0xD805 } [] :=
  ⟨by decide +kernel, command_of _ _ _ _ (by decide +kernel), by decide +kernel, by decide +kernel, by decide +kernel, by decide +kernel,
   command_of _ _ _ _ (by decide +kernel), by decide +kernel, command_of _ _ _ _ (by decide +kernel)⟩
/-- R283, R284: a start is begun; with no graph live a stop is answered at once. -/
theorem test_graph_commands :
    (seen (exec (.gstr c0) (demoGraph fun c => { c with liveSlot := none })) fun t => (t.ctx? 0).map fun c => (c.starting.map (·.slot), c.liveSlot)) =
      some (some (some 0, none)) ∧
    (seen (exec (.gstp { c0 with s1 := 0xD805 }) (demoGraph fun c => { c with liveSlot := none })) fun t => (t.vchan 0 5).q.length) = some 1 := by decide +kernel
theorem witness_FabricMoves :
    let st : State := demoGraph fun c => { c with stopping := some { next := none, reply := { tile := 0, vc := none } } }
    let sb : Chan := { desc := BitVec.ofNat 64 (6 * 2 ^ 50 + 5 * 2 ^ 36 + 2 ^ 34), depth := 8 }
    let b : State := { (demoGraph fun c => { c with gslots := c.gslots.set 0 (some { graph0 with chans := [sb] }) }).modTile 0 fun T =>
      { T with vcs := T.vcs.set 5 { q := [{ kind := 0, data := 3 }] } } with focus := { unit := 5 } }
    let g : State := demoGraph fun c => { c with gslots := c.gslots.set 0 (some { graph0 with chans := [{ chan0 with graftQ := [{ kind := 0, data := 3 }] }] }) }
    let w : State := { (demoTile fun T => { T with vcs := T.vcs.set 15 { waiting := [{ kind := 0, data := 3 }] } }) with focus := { unit := 15 } }
    ((st.ctx? 0).map fun c => (st.unpost .graphStopped st.focus).graphDrained c) = some true ∧
    ((b.vcChan 0 5).map fun x => chanLanding x.2.2.desc) = some 1 ∧ b.here.owner = some 0 ∧ Memory.wf b.here.sp = true ∧ b.here.present = [] ∧
    (g.vcRoom (chanDstt chan0.desc) (chanVc chan0.desc) = true ∧ g.here.accesses = []) ∧
    (w.vchan 0 15).q.length < w.vcDepth 0 15 := by decide +kernel
/-- R266: a data flit lands in the buffer with its sixteen presence bits. -/
theorem test_landing :
    (seen (exec .streamBufferLanding { (demoGraph fun c => { c with gslots := c.gslots.set 0 (some { graph0 with
      chans := [{ desc := BitVec.ofNat 64 (6 * 2 ^ 50 + 5 * 2 ^ 36 + 2 ^ 34), depth := 8 }] }) }).modTile 0 fun T =>
        { T with vcs := T.vcs.set 5 { q := [{ kind := 0, data := 3 }] } } with focus := { unit := 5 } }) fun t =>
      (t.here.sp, t.here.present.length, (t.vchan 0 5).q.length)) = some ([(0, 3)], 16, 0) := by decide +kernel

/-! ### The host's side -/

/-- A mailbox command of the owner PF0, or of another function, on a device in a life-cycle state. -/
def mail (life : LifeCycle) (a0 a1 a2 : Word := 0) (func : Func := .pf 0) : State :=
  { State.reset with life, owner := some 0, focus := { func, req := ⟨0, 0, a0, a1, a2, 0, 0, 0, 0⟩ } }
theorem served_of (s : State) (i : Instr) (w : Who) (h : s.mailQ = [] ∧ s.wiping = false ∧ allowedIn s.life i = true ∧ mailWho i = some w ∧
    s.mayIssue s.focus.func w = true ∧ s.focus.req.res0 = 0) : s.served i := by
  obtain ⟨h1, h2, h3, h4, h5, h6⟩ := h
  exact ⟨⟨by simp [h1], fun _ => h1⟩, h2, h3, h6, w, h4, h5⟩
theorem witness_MailboxRules :
    (mail .operational).mailFree .wipe ∧ ({ mail .operational with wiping := true }.wiping = true) ∧ (mail .operational 0 0 0 (.vf 511)).mayIssue (.vf 511) .owner = false ∧
    allowedIn .blank .keys = false ∧ (mail .blank).mayIssue (.pf 0) .owner = true ∧
    (∃ m ∈ { mail .operational with mailQ := [{ instr := .wipe, func := .pf 0, req := (mail .operational).focus.req }] }.mailQ, m.func = .pf 0) :=
  ⟨⟨by simp [mail, State.reset], fun _ => by simp [mail, State.reset]⟩, by decide, by decide, by decide, by decide, by decide⟩
/-- R370, R372: who may not, what the state does not allow, what does not exist. -/
theorem test_refusals :
    (seen (exec .wipe (mail .operational 0 0 0 (.vf 511))) fun t => t.responses.map (·.status)) = some [0x8001] ∧
    (seen (exec .keys (mail .blank)) fun t => t.responses.map (·.status)) = some [0x8002] ∧
    (seen (exec (.mailboxUnknownOpcode 0x17) (mail .blank)) fun t => t.responses.map (·.status)) = some [0x8007] := by decide +kernel
theorem witness_OwnershipAndWiping :
    ({ mail .blank with owner := none }).served .ownClaim ∧ (mail .blank 2).served .ownGive ∧ (mail .blank 1).served .lifecycle ∧
    lifeOf 1 = some .provisioned ∧ lifeStep false .blank .provisioned = true ∧ lifeStep false .blank .operational = false ∧ lifeOf 4 = none ∧
    (mail .operational).served .wipe ∧ (mail .operational 7 0 3).served .keys ∧ inHbm 0 (keyBytes 3) = true :=
  ⟨served_of _ _ .master (by decide), served_of _ _ .owner (by decide), served_of _ _ .owner (by decide), by decide, by decide, by decide, by decide,
   served_of _ _ .owner (by decide), served_of _ _ .owner (by decide), by decide⟩
/-- R372: the first claim wins; a query tells the owner. -/
theorem test_owner : (seen (exec .ownClaim { mail .blank with owner := none }) fun t => (t.owner, t.responses.map (·.status))) = some (some 0, [0]) ∧
    (seen (exec .ownClaim (mail .blank 0 0 0 (.pf 1))) fun t => (t.owner, t.responses.map (·.status))) = some (some 0, [0x8001]) := by decide +kernel
theorem error_of {ε α : Type} {x : Except ε α} (h : x.toOption.isNone = true) : ∃ e, x = .error e := by
  cases x with
  | error e => exact ⟨e, rfl⟩
  | ok a => simp [Except.toOption] at h
theorem mail_log : inHbm 0 (mail .operational).measurementLog.flatten.length = true := by
  have h : ∀ l, (fix64 l).length = 64 := fun l => by simp [fix64]
  have g : (List.map (fun _ => 64) (List.finRange 8)).sum = 512 := by decide
  simp [inHbm, State.measurementLog, g, List.length_flatten, h, Function.comp_def, mail, State.reset, Config.hbmBytes]
theorem witness_FirmwareServices :
    (mail .operational).served .measure ∧ inHbm 0 (mail .operational).measurementLog.flatten.length = true ∧ (mail .operational 0 255).served .telemetry ∧
    (mail .operational).served .imgVerify ∧ (mail .operational).verifyImage 0 = none ∧ (mail .operational 511 8192 16384).served .quotaSet ∧
    { mail .operational 0 0 63 with contexts := [placedContext] }.served .queueMap ∧
    ({ mail .operational 0 0 63 with contexts := [placedContext] }.mailCtx (.pf 0) 0).toOption = some placedContext ∧
    (∃ e, { mail .operational 0 0 63 with contexts := [placedContext] }.locateRange 0 0 0 32 { read := true, write := true } = .error e) :=
  ⟨served_of _ _ .master (by decide), mail_log, served_of _ _ .masterOwn (by decide), served_of _ _ .owner (by decide), none_of (by decide +kernel),
   served_of _ _ .owner (by decide), served_of _ _ .own (by decide), by decide +kernel, error_of (by decide +kernel)⟩
/-- R317: a quota within the package's sums, and one beyond. -/
theorem test_quota : (seen (exec .quotaSet (mail .operational 5 8192 16384)) fun t => (t.quotas.map (·.slots), t.responses.map (·.status))) = some ([8192], [0]) ∧
    (seen (exec .quotaSet (mail .operational 5 8193 16384)) fun t => t.responses.map (·.status)) = some [0x8004] := by decide +kernel
theorem witness_ContextCommands :
    (mail .operational 511 0x10000).served .ctxCreate ∧ (mail .operational).newNum.isSome = true ∧
    (mail .operational).served .ctxKill ∧ (mail .operational).served .ctxSave ∧ (mail .operational).served .ctxRestore ∧
    { demo with life := .operational, owner := some 0, focus := { func := .pf 0, req := ⟨0, 0, 0, 0, 2, 0, 0, 0, 0⟩ } }.served .ctxResume ∧
    demo.tileCtx 0 = some placedContext ∧
    { mail .operational 8 with contexts := [placedContext] }.served .ptWrite ∧ inHbm 8 8 = true ∧ (∀ e ∈ (mail .operational 8).verPages, e.1 ≠ 8) ∧
    { mail .operational with contexts := [placedContext] }.served .launch ∧ bedOk 0 = true ∧ placedContext.resident = true ∧
    { mail .operational with contexts := [placedContext] }.launchBusy placedContext = false ∧
    { mail .operational with contexts := [placedContext] }.served .jobSubmit ∧ { mail .operational with contexts := [placedContext] }.served .demand :=
  ⟨served_of _ _ .owner (by decide), by decide +kernel, served_of _ _ .owner (by decide), served_of _ _ .owner (by decide), served_of _ _ .owner (by decide),
   served_of _ _ .owner (by decide), by decide, served_of _ _ .owner (by decide), by decide, by decide, served_of _ _ .owner (by decide), by decide, by decide,
   by decide +kernel, served_of _ _ .own (by decide), served_of _ _ .own (by decide)⟩
/-- R371: `LAUNCH` of one tile gives it to the context; `PT_WRITE` writes one entry. -/
theorem test_launch : (seen (exec .launch { mail .operational with contexts := [placedContext] }) fun t =>
      ((t.tile 0).owner, t.responses.map fun r => (r.status, r.r))) = some (some 0, [(0, [0])]) ∧
    (seen (exec .ptWrite { mail .operational 8 0x1F with contexts := [placedContext] }) fun t => t.mem) = some [(8, 0x1F)] := by decide +kernel
theorem witness_PowerAndLinks :
    (mail .operational 0x80 1 1).served .dieMode ∧ powerOf 1 = some .p1 ∧ powerOf 5 = none ∧ powerDown .p0 = some .p1 ∧
    (0 < (1 : Nat) ∧ powerUp .p1 = some .p0) ∧ (mail .operational).served .peerCfg ∧ (mail .operational).isMS = false ∧
    inHbm (Config.hbmBytes - 1) 1 = true :=
  ⟨served_of _ _ .owner (by decide), by decide, by decide, by decide, by decide, served_of _ _ .owner (by decide), by decide, by decide⟩
/-- R382: at 110 °C the package loses all state but its life cycle and keys. -/
theorem test_shutdown : (seen (exec .thermalShutdown { mail .operational with mem := [(4, 1)] }) fun t => (t.powered, t.mem, t.owner, t.life)) =
    some (false, [], none, .operational) := by decide +kernel

/-! ### A step; encodings; invariants -/

/-- The first step after a word is placed runs it: `nop` moves past itself. -/
theorem test_step : (seen (step (State.reset.withFetchWord 32 0x88000000)) (·.cur.pc)) = some 4 := by decide +kernel
theorem witness_StepRunsTheDecodedInstruction :
    let s := State.reset.withFetchWord 32 0x88000000
    (s.agenda = [] ∧ s.powered = true ∧ s.owedFirst = false ∧ s.tick.canIssue s.turn = true ∧ (s.tile s.turn).running = some 0 ∧ (s.slot s.turn 0).late = []) ∧
    isHappening .taskStart = true ∧ (demoWalk { walk0 .running with rule := 0, prog := [0x70000000] }).walk? 2 =
      some { walk0 .running with rule := 0, prog := [0x70000000] } ∧ decodeRule 0x70000000 ≠ .illegalEncoding .illegalField := by decide +kernel
theorem witness_EncodingsRoundTrip : (Instr.addi 31 0 0x1FFF 7).wellFormed = true ∧ encode (.addi 31 0 0x1FFF 7) ≠ [] ∧ encodeWord (.addi 31 0 0x1FFF 7) ≠ none ∧
    (Instr.mswp c0).wellFormed = true ∧ encode (.mswp c0) ≠ [] ∧ (0xFFF0#16).toNat % 16 = 0 ∧ (Instr.wkMiss).wellFormed = true ∧ (encodeRule .wkMiss).isSome := by decide
theorem witness_EveryStepKeepsMemoriesCanonical : State.reset.canonical :=
  ⟨by decide, fun _ => by simp [State.reset, State.tile, Tile.canonical, Memory.wf, Memory.wfFrom], by simp [State.reset]⟩
theorem witness_DecommissionedIsFinal : { mail .decommissioned with keys := Vector.replicate 8 [] }.final := ⟨by decide, by decide, by decide⟩

/-! ### L1 lines and uncorrectable errors -/

/-- The same state in a step that meets an uncorrectable error. -/
def struck (s : State) : State := { s with eccError := true }
/-- A line of L1 whose first byte is 0xAB. -/
def line0 : L1Line := { line := 0, data := 0xAB :: List.replicate 63 0 }
/-- A halfword load of plain memory's first two bytes, which hold 1, with what L1 holds. -/
def demoL1 (l : List L1Line) : State :=
  { (demoMap fun T => { T with l1 := l, nextAcc := 1, accesses := [acc (.load 1 false) [{ va := 0, len := 2 }] [(.dev 0 false 0, 2)]] }) with mem := [(0, 1)] }
theorem witness_LoadCompletes_error : (struck (demoL1 [])).eccError = true ∧ (struck (demoL1 [])).alive demo.issue = true ∧
    (struck (demoL1 [])).here.access? (struck (demoL1 [])).focus.id = some (acc (.load 1 false) [{ va := 0, len := 2 }] [(.dev 0 false 0, 2)]) ∧
    loadReady (struck (demoL1 [])).here (acc (.load 1 false) [{ va := 0, len := 2 }] [(.dev 0 false 0, 2)]) = true := by decide
theorem witness_LoadCompletes_line : (demoL1 [line0]).eccError = false ∧
    (demoL1 []).linesOfAccess (acc (.load 1 false) [{ va := 0, len := 2 }] [(.dev 0 false 0, 2)]) = [0] ∧ (demoL1 [line0]).here.l1Byte 0 = some 0xAB := by decide
/-- R175: a line that L1 holds answers a load, stale or not; without one memory answers, and its line enters L1. R176: where
it meets an uncorrectable error it is a late fault and writes nothing. -/
theorem test_l1_line : (seen (exec .loadComplete (demoL1 [line0])) fun t => (t.getX 1, t.here.l1.length)) = some (0xAB, 1) ∧
    (seen (exec .loadComplete (demoL1 [])) fun t => (t.getX 1, t.here.l1Byte 0)) = some (1, some 1) ∧
    (seen (exec .loadComplete (struck ((demoL1 []).setX 1 7))) fun t => (t.getX 1, t.cur.late.map (·.code), t.here.accesses.length)) = some (7, [.ecc], 0) := by decide
theorem witness_StoresPerform_error :
    let a := { acc .store [{ va := 4, len := 2, bytes := [0x34, 0x12] }] [(.dev 4 false 0, 2)] with tileDone := true }
    let w := { acc .store [{ va := 8, len := 8, bytes := leBytes 8 1 }] [(.dev 8 false 0, 8)] with tileDone := true }
    (struck (demoAcc [a])).eccError = true ∧ a.partial_ = true ∧ w.partial_ = false ∧ commitReady (struck (demoAcc [a])).here a = true ∧
    (struck (demoAcc [a])).alive a.iss = true ∧ (demoAcc [a]).eccError = false := by decide
/-- R175: a store that performs puts its bytes into the line that L1 holds. R178: `cinv` takes its line out. -/
theorem test_store_line :
    (seen (exec .accessPerform { (demoMap fun T => { T with l1 := [line0], accesses := [{ acc .store [{ va := 0, len := 1, bytes := [9] }] [(.dev 0 false 0, 1)] with tileDone := true }] }) with
      mem := [(0, 1)] }) fun t => (t.mem, t.here.l1Byte 0)) = some ([(0, 9)], some 9) ∧
    (seen (exec .accessPerform (demoMap fun T => { T with l1 := [line0, { line0 with line := 1 }], accesses :=
      [{ acc (.cacheOp true) [{ va := 0, len := 64 }] [(.dev 0 false 0, 64)] with tileDone := true }] })) fun t => t.here.l1.map (·.line)) = some [1] := by decide
theorem witness_PageWalkEnds_error :
    let a := { acc (.load 1 true) [{ va := 0, len := 2 }] [] with parked := true }
    (struck (demoAcc [a])).here.access? 0 = some a ∧ (struck (demoAcc [a])).eccError = true ∧ (struck (demoAcc [a])).alive a.iss = true ∧
    (demoAcc [a]).eccError = false := by decide
/-- R204, R202: an acquire at cluster scope empties the tile's L1; one at tile scope does not. -/
theorem test_acquire : (seen (exec (.fncAcq 3 0) (demoTile fun T => { T with l1 := [line0] })) (·.here.l1)) = some [] ∧
    (seen (exec (.fncAcq 2 0) (demoTile fun T => { T with l1 := [line0] })) (·.here.l1)) = some [line0] := by decide
theorem witness_VersionedLoads_error :
    let s := struck ((demoVer.setX 2 0x10000).setX 3 5)
    let b := fun v => struck (demoVer.modCur fun k => { k with status := .blocked, wait := .version 0x10000 0x10000 v false 1 })
    s.eccError = true ∧ demoVer.eccError = false ∧ s.memFree 0 [1, 2, 3] [] ∧ s.here.freeLog.isSome ∧
    s.locate s.ctxNum 0 0x10000 { read := true, versioned := true } = .ok (.dev 0x10000 true 2) ∧ ldvFree s.here s.issue 0x10000 = true ∧
    (b 5).eccError = true ∧ (b 5).cur.status = .blocked ∧ (b 5).cur.wait = .version 0x10000 0x10000 5 false 1 :=
  ⟨rfl, by decide, mem_of _ _ _ _ (by decide), by decide, ok_of (by decide), by decide, rfl, rfl, rfl⟩
/-- R176: an `ldv` that meets an uncorrectable error traps, and its register keeps its value. -/
theorem test_ldv_error : seen (exec (.ldvEq 1 2 3 0) (struck (ldvCase 5))) runSee = some (.faulted, 0, some .ecc) := by decide
theorem witness_Atomics_error :
    let a := acc (.amo 4 1 0 1 0x80 0) [{ va := 4, len := 1 }] [(.dev 4 false 0, 1)]
    let v := acc (.vamo 0 0x0E [(1, 4, 2)] 0 (.vc 0 15)) [{ va := 0, len := 4 }] []
    (demoAcc [a]).eccError = false ∧ (struck (demoAcc [a])).eccError = true ∧ (struck (demoAcc [a])).here.access? 0 = some a ∧
    amoReady (struck (demoAcc [a])).here a 0 = true ∧ (struck (demoAcc [a])).alive a.iss = true ∧
    (struck (demoAcc [v])).tryLocate v.iss v.kind [{ va := 4, len := 4 }] true = .ok (some [(.dev 4 false 0, 4)]) :=
  ⟨by decide, by decide, by decide, by decide, by decide, ok_of (by decide)⟩
theorem witness_EngineReads_noError : (demoV 1).eccError = false ∧ (demoCopy (copy0 [] .mem)).eccError = false ∧
    (demoWalk (walk0 (.reading 0x48 1 3 true false))).eccError = false ∧ (struck (demoWalk (walk0 (.reading 0x48 1 3 true false)))).eccError = true ∧
    (struck (demoWalk (walk0 (.reading 0x48 1 3 true false)))).walkWord (walk0 (.reading 0x48 1 3 true false)) 0x48 false = some 0 ∧
    (mail .operational 7 0 3).eccError = false ∧ (struck (mail .operational 7 0 3)).served .keys ∧ (struck (mail .operational)).served .imgVerify :=
  ⟨by decide, by decide +kernel, by decide, by decide, by decide +kernel, by decide, served_of _ _ .owner (by decide), served_of _ _ .owner (by decide)⟩
/-- R176, R378: a key that cannot be read is answered with 0x0008. -/
theorem test_keys_error : (seen (exec .keys (struck (mail .operational 7 0 3))) fun t => t.responses.map (·.status)) = some [8] := by decide +kernel
theorem witness_StepRunsTheDecodedInstruction_moves :
    let s := demoL1 [line0]
    ({ s with agenda := [.evict 0 0] }).agenda = .evict 0 0 :: [] ∧
    ({ s with agenda := [.happenErr .loadComplete {}] }).agenda = .happenErr .loadComplete {} :: [] ∧ s.powered = true ∧
    isHappening .loadComplete = true := by decide
/-- A line may leave L1 in a step; a happening may meet an uncorrectable error. -/
theorem test_moves_of_L1 : (seen (step { demoL1 [line0] with agenda := [.evict 0 0] }) fun t => t.here.l1) = some [] ∧
    (seen (step { demoL1 [line0] with agenda := [.happenErr .loadComplete {}] }) fun t => t.cur.late.map (·.code)) = some [.ecc] := by decide +kernel

/-! ### Witnesses of single clauses -/

theorem witness_CacheWords_line : (demoMap.wordFree 0 [2] [] ∧ demoMap.here.freeLog.isSome) ∧
    demoMap.locate 0 0 0 { read := true } = .ok (.dev 0 false 0) ∧ (∀ x ∈ demoMap.here.l1, x.line ≠ 0) ∧
    demoMap.leafOf 0 0 0 = some (0x1D, 0) ∧ (0x1D#64).getLsbD 11 = false ∧
    (∃ c, demo.locate 0 0 0 { read := true } = .error c) :=
  ⟨⟨(mem_of _ _ _ _ (by decide)).1.2, by decide⟩, ok_of (by decide), by decide, by decide, by decide, .xlate, err_of (by decide)⟩
theorem witness_VersionedWords_entries :
    let s := (demoVer.setX 2 0x10000).setX 3 5
    s.mayWalk 0x10000 8 ∧
    (let a := acc (.stvRsv 6) [{ va := 0x10000, len := 8 }] [(.dev 0x10000 true 2, 8)]
     barKept (demoAcc [a]).here a.iss a.bar = true ∧ a.deadline = none ∧ a.pieces.head?.map (·.va) = some 0x10000) ∧
    (let a := { acc (.stv 6 0) [{ va := 0x10000, len := 8 }] [(.dev 0x10000 true 2, 8)] with deadline := some 0 }
     a.deadline = some 0 ∧ 0 ≤ (demoAcc [a]).clk) :=
  ⟨⟨by decide, by decide⟩, by decide, by decide⟩
theorem witness_VersionedStores_full :
    { demo with reservations := List.replicate 1024 { ctx := 0, va := 0, pa := 0, v := 0 } }.rsvFull 0 = true := by decide +kernel
theorem queueFree_of {s : State} {va : Nat} {write : Bool} {q : Hq} (h : s.here.freeLog.isSome = true ∧ s.needsWalk s.issue [{ va, len := 32 }] = false ∧
    (s.walked va 32).hqMayRead q.locs = true ∧ (s.walked va 32).hqReady q write = true ∧ (s.walked va 32).notifyFull q = false)
    (h2 : s.findHq s.ctxNum s.focus.tile va = .ok q.locs) (h3 : (s.walked va 32).openHq s.ctxNum s.focus.tile va write = .ok q) :
    s.queueFree va write q := by
  obtain ⟨a, b, c, d, e⟩ := h
  exact ⟨⟨a, by simp [b]⟩, h2, c, h3, d, fun _ => e⟩
/-- What the descriptor of `demoHq` opens as; the same in device memory at 0x40. -/
def hq0 (tail : Nat) (locs : List (Loc × Nat)) (entry : Nat) : Hq :=
  { locs, desc := { base := 0, head := 0, tail, ctl := 0x200001, rest := 0 }, entry := [(.dev entry false 0, 8)] }
def demoHqDev (tail : Byte) : State := { demoMap.setX 2 0x40 with mem := (if tail = 0 then [] else [(0x4C, tail)]) ++ [(0x50, 1), (0x52, 0x20)] }
theorem witness_QueueWords_free :
    (demoHq 1).queueFree Config.ownSpBase true (hq0 1 [(.sp 0 0, 32)] 8) ∧ (demoHq 2).queueFree Config.ownSpBase true (hq0 2 [(.sp 0 0, 32)] 0) ∧
    (demoHq 1).queueFree Config.ownSpBase false (hq0 1 [(.sp 0 0, 32)] 0) ∧ (demoHq 0).queueFree Config.ownSpBase false (hq0 0 [(.sp 0 0, 32)] 0) ∧
    (demoHqDev 1).memFree 0 [1, 2] [4] ∧ (demoHqDev 1).queueFree 0x40 true (hq0 1 [(.dev 0x40 false 0, 32)] 8) ∧
    (demoHqDev 1).queueFree 0x40 false (hq0 1 [(.dev 0x40 false 0, 32)] 0) ∧ Memory.wf (demoHqDev 1).mem = true :=
  ⟨queueFree_of (by decide) (ok_of (by decide)) (ok_of (by decide)), queueFree_of (by decide) (ok_of (by decide)) (ok_of (by decide)),
   queueFree_of (by decide) (ok_of (by decide)) (ok_of (by decide)), queueFree_of (by decide) (ok_of (by decide)) (ok_of (by decide)),
   mem_of _ _ _ _ (by decide), queueFree_of (by decide) (ok_of (by decide)) (ok_of (by decide)),
   queueFree_of (by decide) (ok_of (by decide)) (ok_of (by decide)), by decide⟩
theorem witness_QueueNotify_plain : demo.vcChan 0 4 = none ∧ (demo.vchan 0 4).eat = none := by decide
/-- The notify word goes to its VC. -/
theorem test_notify : (seen (exec .hqNotify { demo with focus := { unit := 3 }, notifies := [{ node := 3, tile := 0, vc := 4, word := 8 }] }) fun t =>
    (t.notifies.length, (t.vchan 0 4).q.map (·.data))) = some (0, [8]) := by decide +kernel
theorem witness_BlockMemory_presence :
    let c : Cmd := { c0 with tag := 1, s1 := 8, s2 := 0x4002 }
    let all := List.range 16
    let a : Access := { id := 0, iss := demo.issue, olog := none, kind := .vload [] 1, pieces := [], locs := [(.sp 0 0, 64)], parked := false }
    (let s := demoV 1 0 fun T => { T with present := all }
     ((blockAddrs c s.issue (regBytes c.tag)).filterMap (ownOffset s.issue)) = [0] ∧ (∀ w ∈ presenceWords 0 64, w ∈ s.here.present) ∧
     s.here.freeLog.isSome = true ∧ loadReady s.here a = true ∧
     sbSplit s.issue s.here.presentAhead (storePieces c s.issue s 1) = ([], (storePieces c s.issue s 1).head?)) ∧
    (demoV 1).here.present = [] := by decide +kernel
theorem witness_TasksStartAndEnd_more : demo.tileCtx 0 = some placedContext ∧ demo.cur.unbind = false ∧
    ((demoJobs [{ job 1 .running with tasks := 1 }]).modCur fun k => { k with job := 1 }).unfinished = false := by decide +kernel
/-- The tile's slot 0 waits for its port, with `mswp` at its word. -/
def demoPortWait (bytes : List Byte) : State := (demoTile fun T => { T with istore := Memory.write [] 0 bytes }).modCur fun k =>
  { k with status := .blocked, wait := .fullPort }
theorem witness_BlockedSlotsGoOn_port :
    (let s := demoPortWait (encodeBytes (.mswp c0))
     s.cur.status = .blocked ∧ s.cur.wait = .fullPort ∧ (s.commandAt 0 0).map (·.1) = some (.mswp c0) ∧ s.portRoom (.mswp c0) = true) ∧
    (let s := demoPortWait (encodeBytes (.add 1 2 3 0))
     (s.commandAt 0 0).isNone = true ∧ s.memWaits = false) ∧
    (∀ g j d, (Wait.fullPort ≠ .drain g j d)) := ⟨by decide +kernel, by decide +kernel, nofun⟩
/-- R68, R70: a slot whose port has room is READY, and issues once it is selected. -/
theorem test_port_accept : (seen (exec .portAccept (demoPortWait (encodeBytes (.mswp c0)))) fun t => (t.cur.status, t.cur.wait, t.cur.pc, t.here.matQ.length)) =
    some (.ready, .none, 0, 0) := by decide +kernel
theorem witness_BlockedSlotsGoOn_clause :
    (let s := demoClause 16 2
     (bodyOf (.mswp c0)).isSome = true ∧ s.sysMode = false ∧ s.cur.cls.isOpen = true ∧ clauseWaveOk (.mswp c0) c0 true = true ∧
     cmdGuard c0 s = true ∧ s.here.staged (portOf (.mswp c0)) < 15) ∧
    (let h : Held := { instr := .mswp c0, iss := demo.issue, released := true }
     let u := demoTile fun T => { T with held := [h] }
     busyStop h.instr c0 u.focus.tile (u.unpost .clauseCommandEnqueue u.focus) = none) := by decide +kernel

theorem witness_BarriersAndPhases_more :
    let o := { demoCtx (fun c => { c with barriers := [bar0] }) with focus := { id := 3 } }
    demo.barriersAt 0 < 256 ∧ (bar0.gen < 1) ∧
    (∀ x ∈ bedTiles 0, ∃ y ∈ bar0.arrivals, y.tile = x ∧ bar0.gen < y.count ∧
      releasedAt ((o.unpost .barrierComplete o.focus).tile x) { (o.unpost .barrierComplete o.focus).issueOf x y.slot with epoch := y.epoch } y.upto
        (decide (2 < bedScope 0)) = true) ∧
    (demo.phaseOk 0 0 = true ∧ (demo.getX 2).toNat = 0 ∧ demo.here.phase.toNat + 0 < 2 ^ 48) := by decide +kernel
/-- Two tiles of one context, one of them behind in its phase. -/
theorem witness_Phases_block : let s := { demoCtx (fun c => { c with launch := some (1, false) }) with tiles := (demo.tiles.set 1 { owner := some 0 }) }
    s.phaseOk 0 1023 = false := by decide +kernel
theorem witness_JobWords_more :
    let s := (demoJobs []).setX 2 0x81
    let w := (demoJobs [job 1 .done, job 2 .waiting]).setX 2 1 |>.setX 1 2
    let full : State := demoTile fun T => { T with slots := T.slots.map fun k => { k with status := .ready, vc := 0 } }
    s.submitCheck 0x81 = .error (.trap .misaligned 0x81 0) ∧
    ((w.tileCtx 0).bind (·.job? 1)).map (·.state) = some .done ∧ ((w.tileCtx 0).bind (·.job? 2)).map (·.state) = some .waiting ∧
    (demo.here.boundTo 5 = none ∧ demo.here.freeSlot = some 1 ∧ demo.focus.slot = 0) ∧ (full.here.boundTo 5 = none ∧ full.here.freeSlot = none) ∧
    (full.here.boundTo 0).isSome = true ∧ demo.here.boundTo 0 = some 0 ∧ (demo.slot 0 0).status ≠ .idle ∧
    (demoSlot fun k => { k with status := .idle }).here.boundTo 0 = some 0 ∧
    (demo.quotaOf 0).1 ≤ (demo.quotaUsed 0).1 :=
  ⟨err_of (by decide +kernel), by decide +kernel, by decide +kernel, by decide +kernel, by decide +kernel, by decide +kernel, by decide +kernel,
   by decide +kernel, by decide +kernel, by decide +kernel⟩
theorem witness_SchedulerWorks_more :
    let bal : Card := { card0 with bal := true, isBed := true, work := 9 }
    let e := { demoJobs [{ job 1 .issuing bal with dispatched := some 1 }] with focus := { id := 1 } }
    let w : Card := { card0 with conds := [{ va := 0x10000, ver := 2, ge := false }], reads := [{ base := Config.ownSpBase, len := 4 }] }
    let d := { demoJobs [job 1 .waiting w] with vwords := demoVer.vwords }
    ((e.ctx? 0).map fun c => (e.ctxRuns c, (c.job? 1).map e.submitted)) = some (true, some true) ∧
    (e.ctx? 0).map (fun c => (leastBy (fun k : Job => 2 ^ 49 - (match k.dispatched with | some u => (e.unpost .balanceSteal e.focus).mpend u | none => 0))
        ((c.jobs.filter Job.stealable).filter fun k => inBed k.card.bed 0)).map (·.num)) = some (some 1) ∧ (e.tile 0).matQ = [] ∧
    ((d.ctx? 0).map fun c => ((d.unpost .conditionReeval d.focus).cardsMove c, (d.unpost .presenceReport d.focus).cardsMove c)) = some (true, true) := by decide +kernel
theorem witness_DemandWords_more :
    portCase demoGraph (operWord 1) [0, 1, 2] = some 1 ∧
    ¬ ((9 : Nat) ≤ 5 ∧ 5 ≤ maxTick) ∧ (31 : Nat) < 32 ∧ maxTick < maxTick + 1 ∧ (64 : Nat) % 64 = 0 ∧ (2 : Nat) < 3 := by decide
theorem witness_DemandPlane_more :
    let cut : DPort := { port := .oper 0 0 0 5, cuts := [{ tick := 6, lanes := [(0, 1)], written := 6 }], nowVa := some 0x10000 }
    let src : DPort := { port := .source 0 0 0, held := [(3, 4)], reg := some (0, 5) }
    let fl : DemandFlit := { id := 9, port := .source 0 0 0, feed := .sink 0 0 0, t0 := 1, t1 := 2, cancel := false }
    let up : DemandFlit := { fl with cancel := true }
    ((demoPort cut).tile 0).stream.map (fun x => (x.active.all fun L => [(0, (1 : BitVec 32))].any fun l => l.1 == L.val)) = some true ∧
    (({ demoPort src with demand := [fl] } : State).demand.find? fun f => f.id == 9 && !f.cancel) = some fl ∧
    ({ demoPort src with demand := [fl] } : State).demandBehind fl = false ∧ ({ demoPort src with demand := [up] } : State).demandBehind up = false ∧
    (∀ f ∈ src.feeds, f.dest = up.feed ∧ f.part = up.part) ∧ src.faulted = false ∧ src.serving = none ∧ coalesce src.held fl.t0 fl.t1 = some [(1, 4)] := by decide +kernel
theorem witness_ContextWords_more :
    let m := { demo with sysMode := true }
    let busy := { demoAcc [acc .store [] [(.dev 0 false 0, 4)]] with sysMode := true }
    (m.sysMode = true ∧ m.getP 0 = true ∧ (m.ctx? 0).map (·.live) = some true) ∧ (m.trySave 5).1 = some 2 ∧ (busy.trySave 0).1 = none ∧
    ((m.ctx? 0).map fun c => (Memory.get m.mem (c.saveArea + 8)).toNat % 2) = some 0 ∧ (m.tryRestore 0).1 = 4 ∧ (encodeWord (.ctxs 1 2 0)).isSome = true ∧
    (let v : State := { m with contexts := [{ placedContext with saving := some 9, launch := none }] }
     (v.ctx? 0).map v.saveReady = some true) ∧
    demo.saved = [] ∧ demo.reservations = [] ∧ placedContext.liveSlot = none ∧
    ((demoJobs [job 1 .running]).ctx? 0).map (fun c => (c.jobs.map (·.incomplete))) = some [true] := by decide +kernel
/-- R353, R354: a context with nothing to finish is saved at once. -/
theorem test_ctxs : (seen (exec (.ctxs 1 2 0) { State.reset with sysMode := true, contexts := [{ placedContext with launch := none, saveArea := 4096, saveLimit := 2 ^ 16 }] }) fun t =>
    (t.getX 1, (t.ctx? 0).map (·.resident), t.saved.length)) = some (0, some false, 1) := by decide +kernel
theorem witness_FaultsAreReported_more :
    let f : EngineFault := { id := 0, iss := demo.issue, code := .protect, addr := 8, aux := 0, toTask := false }
    ({ demo with engineFaults := [f] }.engineFaults.find? fun g => g.id == 0) = some f ∧ ¬ (f.toTask = true ∧ demo.alive f.iss = true) ∧
    (let w := (demoCtx fun c => { c with wdgc := 2 ^ 16, wdgl := 2 ^ 16 }).modCur fun k => { k with status := .blocked, wait := .fullPort }
     (w.ctx? 0).map (fun c => (longestWait (w.blockedSlots c)).map fun x => (x.1, x.2.1, decide (x.2.2.job < 2 ^ 48)))) = some (some (0, 0, true)) := by decide +kernel

theorem witness_LaneBlocks_more :
    (let v : Cmd := { c0 with s2 := 8 }
     chkVrun v (demoV 1).issue (demoV 1) = .ok ()) ∧
    (let k : Tok := { kind := 0, val := 3, bool := true }
     let m : Stream := { run0 { elems := (Vector.replicate 6 {}).set 1 { own := some k } } with img := { imgRun with routers := Vector.replicate 7 0 } }
     let s := demoRun {} 2
     let e : Lane := { entry := some k }
     s.here.port1 m 15 (bndAbove 2) = some k ∧ eOp (s.here.eWord m 15 2) = 0 ∧
     ((State.fireData { (demoRun e 0).unpost .elementFire (demoRun e 0).focus with draws := 1 } 0 0 ((demoRun e 0).here.eWord (run0 e) 15 0) 0 [3, 0]).toOption.map
       fun x => x.1.val) = some 3 ∧
     (demoRun e 3).sourcePauses 0 (run0 e) 15 = false ∧ rSep ((demoRun e 3).here.rWord (run0 e) 15 3) = false ∧
     ((run0 e).img.paired 0) = true ∧ ({ run0 {} with sourceDone := true }.sourceDone = true)) :=
  ⟨ok_of (by decide +kernel), by decide +kernel⟩
/-- m0's queue names VCs 4 and 5 as its tile's two copy channels. -/
theorem witness_MatrixCommands_more :
    let i : Cmd := { c0 with s2 := 8, s3 := 16, s4 := 0x801F }
    let n : Tile → Tile := fun T => { T with v := (T.v.set 16 { data := 0, side := 0, tag := 12 }) }
    let full : State := demoMat fun T => { T with matQ := List.replicate 4 (matCmd (.mswp c0)) }
    chkSparse c0 demoMat.issue demoMat = .ok () ∧ chkScan { c0 with s1 := 0x8000 } demoMat.issue demoMat = .ok () ∧ chkMsc { c0 with tag := 2 } demoMat.issue demoMat = .ok () ∧
    4 ≤ full.here.matQ.length ∧ ((mnmRows 2 3 [{ data := BitVec.ofNat 512 (ones 32), tag := 2, side := 0 }] [{ data := 0, tag := 12, side := 0 }]).isSome = true) ∧
    (chkMnm { i with s5 := 0x8003, s4 := 0x8000 } (demoMat n).issue (demoMat n)) = .ok () :=
  ⟨ok_of (by decide +kernel), ok_of (by decide +kernel), ok_of (by decide +kernel), by decide +kernel, by decide +kernel, ok_of (by decide +kernel)⟩
/-- Tiles 0 and 1 of one context, each with one finished half of a pair. -/
def demoPair (p u : MatCmd) : State :=
  let home := { demo.tile 0 with matQ := [p], pairDeadline := some 0 }
  { demo with tiles := (demo.tiles.set 0 home).set (partner 0) { owner := some 0, matQ := [u] } }
theorem witness_MatrixArray_pairs :
    let p : MatCmd := { matCmd (.mst { mst0 with s4 := 0x8008 }) with ready := true }
    let u : MatCmd := { p with part := [{ row := 3, cells := [] }] }
    isHome 0 = true ∧ p.paired = true ∧
    ((demoPair p p).here.pairLost = 0 ∧ ((demoPair p p).tile (partner 0)).pairLost = 0 ∧ (demoPair p p).here.owner = ((demoPair p p).tile (partner 0)).owner ∧
      slotZ p.cmd.s1 = slotZ p.cmd.s1) ∧ p.part.map (·.row) ≠ u.part.map (·.row) ∧
    ((demoPair p p).here.pairDeadline = some 0 ∧ (demoPair p p).clk = 0 ∧ (demoPair p p).savesFor p.iss = false) := by decide +kernel
def cpym0 : Cmd := { c0 with s1 := 0xDC3F, s2 := 0x4003, s3 := 0x8040, s5 := 0xD805 }
/-- `mst z0, cc63, 0`, as a `cpym` holds it. -/
def follow0 : Cmd128 := ((encodeCmd (.mst { c0 with tag := 2, s1 := 0xC800, s2 := 0xDC3F, s3 := 0x8000, s4 := 0x8000 })).getD 0)
def demoBound (k : List Copy) : State := { demoX with dies := demoX.dies.set 0 { demoX.dies[0] with ch := demoX.dies[0].ch.set 63 { bind := some (0, 4), q := k } } }
theorem witness_CopiesAreIssued_more :
    let s := demoBound []
    let m : Cmd := { cpy0 with s1 := 0x4005, s3 := 0x8040 }
    let b := (demoX.setX 5 0x8005).setX 3 0x40
    chkCpym cpym0 follow0 s.issue s = .ok () ∧ s.commandFree (.cpym cpym0 follow0) cpym0 (replyRegs cpym0.s5 ++ followRegs follow0) ∧
    chkMcst m b.issue b = .ok () :=
  ⟨ok_of (by decide +kernel), command_of _ _ _ _ (by decide +kernel), ok_of (by decide +kernel)⟩
theorem witness_CopiesMove_more :
    let r : CopyRow := { src := 0x40, dst := 0x80, len := 64 }
    let b := { copy0 [r] .chan with started := true }
    let w := { copy0 [] .chan with started := true, follow := some follow0 }
    let m := { copy0 [r] .mcst with started := true }
    let t : State := { demoCopy { copy0 [] .mem with templ := some 0 } with
      tiles := (demoAcc [{ acc (.aperture 7) [] [(.sp 0 0, 8)] with tileDone := true }]).tiles }
    let f : State := { (demoBound [w]).modTile 0 fun T => { T with active := { data := 0, tag := 2, loaded := true } } with focus := { id := 7 } }
    let i := decodeCommand follow0 0
    (((demoCopy b (some (0, 5))).unpost .copyFlitDeliver (demoCopy b (some (0, 5))).focus).copyRead 0 0 0x40 64).toOption.isSome = true ∧ (demoCopy { copy0 [] .mem with ended := true }).replyTurn 0 63 7 = true ∧
    (f.copy? 0 7 = some (63, w) ∧ f.flitsLanded 0 63 = true ∧ (f.tile 0).matQ.length < 4 ∧ w.replied = false ∧
      (followCheck i { w.iss with follow := true } (f.unpost .cpymFollowOn f.focus)).toOption.isSome = true ∧
      (effMat i (cmdFields follow0) { w.iss with follow := true } (f.unpost .cpymFollowOn f.focus)).toOption.isSome = true) ∧
    ((t.here.access? 7).isNone = true ∧ t.copy? 0 7 = some (63, { copy0 [] .mem with templ := some 0 })) ∧
    (let s := (demoCopy m).modTile 0 fun T => { T with mcst := some { copy := 7, branches := [(0, 0, 5)] } }
     (s.here.mcst = some { copy := 7, branches := [(0, 0, 5)] }) ∧ s.copy? 0 7 = some (63, m) ∧ s.savingCtx 0 = false ∧ s.vcFree 0 5 = true ∧
     ((s.unpost .mcstFlitAccept s.focus).copyRead 0 0 0x40 64).toOption.isSome = true) := by decide +kernel
/-- A template of one row of 16 bytes from 0x40 to 0x80 at address 0x100, and the aperture store that names it. -/
def demoTempl : State :=
  let k : Copy := { copy0 [] .mem with templ := some 0 }
  let a : Access := { acc (.aperture 7) [] [] with id := 7 }
  { (demoCopy k).modCtx 0 fun c => { c with cptab := 0x100, cpcnt := 1 } with
    tiles := (demoAcc [a]).tiles, mem := [(0x100, 0x80), (0x108, 0x40), (0x110, 16), (0x114, 1)] }
theorem witness_TemplateCopy :
    (∃ a, demoTempl.here.access? 7 = some a ∧ storeReady demoTempl.here a = true ∧ commitReady demoTempl.here a = true ∧ a.kind = .aperture 7) ∧
    (((demoTempl.unpost .templateCopy demoTempl.focus).modTile 0 fun T => T.dropAccess 7).readTemplate demo.issue 63 0).toOption.map (·.1.rows) =
      some [{ src := 0x40, dst := 0x80, len := 16 }] :=
  ⟨⟨_, rfl, by decide +kernel, by decide +kernel, rfl⟩, by decide +kernel⟩
/-- R231, R232: the template's row becomes the copy's. -/
theorem test_template : (seen (exec .templateCopy demoTempl) fun t => (t.copy? 0 7).map fun k => (k.2.rows, k.2.templ)) =
    some (some ([{ src := 0x40, dst := 0x80, len := 16 }], none)) := by decide +kernel
/-- A descriptor of one element, at offset 0 of the scratchpad. -/
def demoAgc (f : Tile → Tile := id) : State := (demoMap fun T => f { T with
  sp := [(8, 0x10), (11, 0x14), (12, 1), (16, 1), (18, 1), (20, 1), (22, 1)] }).setX 2 own
def agDesc0 : Wave := BitVec.ofNat 512 (leNat (Memory.read demoAgc.here.sp 0 64))
theorem witness_AddressGenerators_more :
    let sc : Cmd := { c0 with tag := 1, s1 := 0x4003, s2 := 8, s3 := 16 }
    let v := (demoV 0x10 0 fun T => { T with v := T.v.set 16 { data := 0, side := 0, tag := 1 } }).setX 3 0x40
    let g : Cmd := { c0 with s1 := 0x8000, s2 := 0x4002 }
    let q : Cmd := { c0 with s1 := 0x8000, s2 := 0, s3 := 0x8001 }
    let n := demoAgc fun T => { T with ag := T.ag.set 0 { desc := some agDesc0 } }
    let a : AgCmd := { instr := .seg q, iss := demo.issue, fmt := 1, out := some (0, 5), segsLeft := 1 }
    let e := demoAgc fun T => { T with ag := T.ag.set 0 { desc := some agDesc0, cmd := some a } }
    chkScat sc v.issue v = .ok () ∧ chkAgc g demoAgc.issue demoAgc = .ok () ∧ readAgDesc Config.ownSpBase demoAgc.issue demoAgc = .ok agDesc0 ∧
    (segCheck q n.issue n).toOption.isSome = true ∧
    (e.here.ag[0].cmd = some a ∧ e.vcRoom 0 5 = true ∧ e.savingCtx 0 = false ∧ e.sourceHeld 0 5 = false ∧ (agDescOf agDesc0).size 0 < 2 ^ 32) :=
  ⟨ok_of (by decide +kernel), ok_of (by decide +kernel), ok_of (by decide +kernel), by decide +kernel, by decide +kernel⟩
theorem witness_FallowKey :
    let c : Cmd := { c0 with s1 := 0x4003, s2 := 0x4004, s3 := 8, s4 := 0x8014, s5 := 0xD805, tag := 0x0E }
    let s := ((demoV 0x0E (BitVec.ofNat 512 (fallowCode 0x0E))).setX 3 0x80).setX 4 0x40
    walkFallow c s.issue s = true := by decide +kernel

/-- A graph image with a channel table of length 0, its digest in place, at address 0x400. -/
def image0 : List Byte :=
  leBytes 16 0x000000000000000000010001_1A494750 ++
  leBytes 64 0xA9DD5400037E537981A8E22567F3EC870C9499FB8BE7A83D4ED3A151CD164EE6E9EBF6636C5ED3294E8DB53211AA4459704C46BC11A1A82518ABD20104202F83 ++
  List.replicate 16 0 ++ leBytes 16 0x00000000000000700000000000000002
def demoImage : State := { (demoGraph fun c => { c with liveSlot := none }).setX 2 0x400 with mem := Memory.write [] 0x400 image0 }
theorem witness_GraphLoad :
    let c : Cmd := { c0 with s1 := 0x8001, s2 := 0x4002 }
    demoImage.commandFree (.gld c) c [] ∧ ((gldLoad c demoImage.issue demoImage).toOption.map fun l => (l.graph.image, l.code.length, l.data.length)) = some (0x400, 0, 0) ∧
    (demoImage.ctx? 0).isSome = true :=
  ⟨command_of _ _ _ _ (by decide +kernel), by decide +kernel, by decide +kernel⟩
/-- R278, R279: an image whose digest agrees stands in its slot. -/
theorem test_gld : (seen (exec (.gld { c0 with s1 := 0x8001, s2 := 0x4002 }) demoImage) fun t => (t.cur.pc, (t.ctx? 0).map fun c => c.gslots[1].map (·.image))) =
    some (16, some (some 0x400)) := by decide +kernel
theorem witness_GraphCommands_more :
    let away := demoLoaded.modTile 0 fun T => { T with stream := none }
    let busy := demoGraph fun c => { c with gslots := c.gslots.set 0 (some { graph0 with chans := [{ chan0 with graftQ := [{ kind := 0, data := 3 }] }] }) }
    let idle : State := demoGraph fun c => { c with liveSlot := none }
    (demoGraph.ctx? 0).map (fun k => (k.regions.any fun e => bedsMeet e.bed 0 && (e.shadow == .loading || e.rotating))) = some false ∧
    (away.ctx? 0).map (fun k => (away.rotTiles k 0).length) = some 0 ∧
    busy.chanIdle { chan0 with graftQ := [{ kind := 0, data := 3 }] } = false ∧
    (gdepCheck { c0 with s1 := 0x8000, s2 := 0x8040 } busy.issue busy).toOption.isSome = true ∧
    (demoGraph.ctx? 0).map (fun k => (k.starting.isNone, k.stopping.isNone, k.liveSlot)) = some (true, true, some 0) ∧
    idle.commandFree (.gsw { c0 with s2 := 0xD805 }) { c0 with s2 := 0xD805 } [] ∧ (idle.ctx? 0).map (fun k => (k.liveSlot, k.gslots[gslotOf 0].isSome)) = some (none, true) :=
  ⟨by decide +kernel, by decide +kernel, by decide +kernel, by decide +kernel, by decide +kernel, command_of _ _ _ _ (by decide +kernel), by decide +kernel⟩
/-- The graph of tile 0 with a chain section of zeros, or one that cannot be read. -/
def graphAt (image : Nat) : Graph := { graph0 with image, sections := [(1, 0, 0, 0, 80)] }
def demoLoading (image : Nat) : State := demoGraph fun c => { c with
  regions := [{ bed := 0, shadow := .loading, issuer := some demo.issue }], gslots := c.gslots.set 0 (some (graphAt image)) }
def demoStarting (image : Nat) : State := { demoLoading image with contexts := (demoLoading image).contexts.map fun (c : Context) =>
  { c with liveSlot := none, starting := some { slot := 0, iss := demo.issue, reply := none } } }.modTile 0 fun T => { T with stream := none }
theorem witness_FabricMoves_fetches :
    let a := demoLoading 0x4000
    let z := demoLoading 0x40000
    let b := demoStarting 0x4000
    let y := demoStarting 0x40000
    ((a.ctx? 0).map fun c => (c.region 0).shadow) = some .loading ∧ ((a.ctx? 0).bind (·.graph? 0)) = some (graphAt 0x4000) ∧
    ((State.fetchTiles (a.unpost .shadowLoaded a.focus) 0 0 (graphAt 0x4000) (bedTiles 0)).toOption.map List.length) = some 1 ∧
    (State.fetchTiles (z.unpost .shadowLoaded z.focus) 0 0 (graphAt 0x40000) (bedTiles 0)).toOption.isNone = true ∧
    (b.ctx? 0).map (fun c => (c.starting.map (·.slot), c.gslots[0])) = some (some 0, some (graphAt 0x4000)) ∧
    ((graphAt 0x4000).tiles.all fun x => (b.tile x).stream.isNone && !(b.tile x).stages.toList.any Option.isSome) = true ∧
    (∀ ch ∈ (graphAt 0x4000).chans, chanGroup ch.desc = 0) ∧
    ((State.fetchTiles (b.unpost .activeWordsFetched b.focus) 0 0 (graphAt 0x4000) (graphAt 0x4000).tiles).toOption.map List.length) = some 1 ∧
    (State.fetchTiles (y.unpost .activeWordsFetched y.focus) 0 0 (graphAt 0x40000) (graphAt 0x40000).tiles).toOption.isNone = true := by decide +kernel
/-- R280: the shadow words of a region arrive. -/
theorem test_shadow : (seen (exec .shadowLoaded (demoLoading 0x4000)) fun t => ((t.ctx? 0).map fun c => (c.region 0).shadow, t.here.shadowChain.isSome)) =
    some (some .loaded, true) := by decide +kernel
theorem witness_FabricMoves_more :
    let sb : Chan := { desc := BitVec.ofNat 64 (6 * 2 ^ 50 + 5 * 2 ^ 36 + 2 ^ 34), depth := 8 }
    let full := (demoGraph fun c => { c with gslots := c.gslots.set 0 (some { graph0 with chans := [sb] }) }).modTile 0 fun T => { T with present := [15] }
    let d := (demoGraph fun c => { c with gslots := c.gslots.set 0 (some { graph0 with chans := [{ chan0 with newDepth := some 4 }] }) }).modCur fun k =>
      { k with status := .blocked, wait := .drain 0 0 4 }
    let rot : Tok := { kind := 4, val := 0 }
    let x : Stream := { use := .graph 0, img := { img0 with elems := (Vector.replicate 6 (0 : BitVec 64)).set 0 (BitVec.ofNat 64 (2 * 2 ^ 58 + 2 ^ 55 + 2 ^ 52 + 0x0E * 2 ^ 44)) },
                        lanes := (Vector.replicate 16 {}).set 0 { entry := some rot } }
    let w : State := (demoGraph fun c => { c with regions := [{ bed := 0, shadow := .loaded, rotNum := 1, rotating := true }] }).modTile 0 fun T =>
      { T with stream := some x, shadowChain := some img0 }
    (∃ k ∈ (List.range 16).map (0 + ·), k ∈ full.here.present) ∧ 0 + 64 ≤ Config.spShare full.here.split ∧ sb.frozen = false ∧
    (d.cur.status = .blocked ∧ d.cur.wait = .drain 0 0 4 ∧ d.cleared (.drain 0 0 4) = true) ∧
    (w.here.stream = some x ∧ w.frozenAt 0 x = false ∧ ((w.unpost .rotSwap w.focus).swapElem 0 x 0 0).isSome = true) := by decide +kernel
theorem witness_MailboxRules_more :
    let r : State := { mail .operational with focus := { func := .pf 0, req := ⟨0, 1, 0, 0, 0, 0, 0, 0, 0⟩ } }
    r.mailFree .wipe ∧ r.mayIssue (.pf 0) .owner = true ∧ allowedIn r.life .wipe = true ∧ r.focus.req.res0 ≠ 0 ∧
    (let b := { mail .operational with mailQ := [{ instr := .keys, func := .pf 0, req := (mail .operational).focus.req }] }
     (∃ m ∈ b.mailQ, m.func = b.focus.func) ∧ ∀ m ∈ b.mailQ, ¬ (m.instr = .wipe ∧ m.func = b.focus.func ∧ m.req = b.focus.req)) :=
  ⟨⟨by simp [mail, State.reset], fun _ => by simp [mail, State.reset]⟩, by decide, by decide, by decide, by decide⟩
/-- R368: a reserved bit that is set. -/
theorem test_res0 : (seen (exec .wipe { mail .operational with focus := { func := .pf 0, req := ⟨0, 1, 0, 0, 0, 0, 0, 0, 0⟩ } }) fun t => t.responses.map (·.status)) =
    some [0x8003] := by decide +kernel
theorem mail_free (i : Instr) : (mail .operational).mailFree i := ⟨by simp [mail, State.reset], fun _ => by simp [mail, State.reset]⟩
/-- The kill of a context has begun, and nothing of it is left. -/
def demoKilled : State :=
  let c : Context := { placedContext with live := false, resident := false, launch := none }
  { mail .operational with mailQ := [{ (mail .operational).mail .ctxKill with begun := true }], contexts := [c] }
theorem witness_Begun : demoKilled.mailQ = [{ demoKilled.mail .ctxKill with begun := true }] ∧
    (demoKilled.ctx? 0).map (fun c => (c.live, demoKilled.killDone c)) = some (false, true) ∧
    (mail .operational).mailFree .ownQuery ∧ (mail .operational).mayIssue (.pf 0) .master = true :=
  ⟨by decide +kernel, by decide +kernel, mail_free _, by decide⟩
theorem witness_Begun_wipe : ∀ i ∈ ([.lifecycle, .wipe] : List Instr),
    let s : State := { mail .operational with mailQ := [{ (mail .operational).mail i with begun := true }] }
    s.mailQ = [{ s.mail i with begun := true }] ∧ s.wiping = false := fun _ _ => ⟨rfl, rfl⟩
/-- R358, R368: the kill is answered once its effects have performed. -/
theorem test_kill_answer : (seen (exec .ctxKill demoKilled) fun t => (t.mailQ.length, t.responses.map fun r => (r.status, r.r))) = some (0, [(0, [0])]) := by
  decide +kernel
theorem witness_FirmwareServices_more :
    let b : State := { demoHqDev 1 with doorbells := [{ func := .pf 0, idx := 3, ctx := 0, desc := 0x40 }], focus := { func := .pf 0 } }
    let f : State := { demoHqDev 2 with doorbells := b.doorbells, focus := { func := .pf 0 } }
    let m : State := { demoMap with life := .operational, owner := some 0, focus := { func := .pf 0, req := ⟨0, 0, 0, 0x40, 63, 1, 0, 0, 0⟩ } }
    let h := fun (s : State) => (s.openHq 0 0 0x40 true).toOption.map fun q => (q.desc.held, q.desc.cap, s.notifyFull q)
    (b.doorbells.find? fun d => d.func == b.focus.func && d.idx == 3) = some { func := .pf 0, idx := 3, ctx := 0, desc := 0x40 } ∧
    h (b.unpost (.queueDoorbellWrite 3 0) b.focus) = some (1, 2, false) ∧ h (f.unpost (.queueDoorbellWrite 3 0) f.focus) = some (2, 2, false) ∧
    ((m.ctx? 0).map fun c => c.tiles.head?) = some (some 0) ∧
    m.locateRange 0 0 0x40 32 { read := true, write := true } = .ok [(.dev 0x40 false 0, 32)] :=
  ⟨by decide +kernel, by decide +kernel, by decide +kernel, by decide +kernel, ok_of (by decide +kernel)⟩
theorem witness_ContextCommands_more :
    let m := mail .operational
    let two : State := { m with contexts := [placedContext, { placedContext with num := 1, launch := none }] }
    let job : State := { demoMap with life := .operational, owner := some 0, focus := { func := .pf 0, req := ⟨0, 0, 0x80, 0, 0, 0, 0, 0, 0⟩ } }
    let dmd : State := { demoGraph with life := .operational, owner := some 0, focus := { func := .pf 0, req := ⟨0, 0, operWord 0, 5, 9, 0, 0, 0, 0⟩ } }
    (m.trySave 0).1 = some 2 ∧ (m.tryRestore 0).1 = 5 ∧ (∀ c, m.ctx? 0 = some c → c.live = false) ∧
    (∃ k ∈ two.contexts, k.num ≠ 1 ∧ k.live = true ∧ k.resident = true ∧ ∃ x, k.launch = some x ∧ bedsMeet 0 x.1 = true) ∧
    (job.readCard 0 0 0x80).toOption = some card0 ∧ (checkOwner placedContext card0 0x80).toOption.isSome = true ∧ job.served .jobSubmit ∧
    dmd.served .demand ∧ (((dmd.taken .demand).checkDemand graphCtx (operWord 0) 5 9).toOption.map fun x => (x.1.val, x.2)) = some (0, 0) ∧
    ((dmd.taken .demand).insertDemand 0 0 0 5 9).isSome = true :=
  ⟨by decide +kernel, by decide +kernel, by simp [mail, State.reset, State.ctx?], ⟨placedContext, by decide +kernel, by decide, by decide, by decide, (0, false), by decide, by decide +kernel⟩,
   by decide +kernel, by decide +kernel, served_of _ _ .own (by decide +kernel), served_of _ _ .own (by decide +kernel), by decide +kernel, by decide +kernel⟩
theorem witness_Power_more :
    { mail .operational 3 0xFFF with isMS := true }.served .peerCfg ∧ (3 : Nat) < 16 ∧ (0xFFF : Nat) < 4096 ∧
    (let c : State := { mail .operational with mailQ := [{ (mail .operational).mail .peerCfg with begun := true }] }
     c.mailQ = [{ c.mail .peerCfg with begun := true }] ∧ ∀ e ∈ c.engineFaults, e.toTask = true ∨ e.code ≠ .xlate) ∧
    ((mail .operational).isVersioned 0 = false) :=
  ⟨served_of _ _ .owner (by decide), by decide, by decide, ⟨by decide, by simp [mail, State.reset]⟩, by decide +kernel⟩
theorem witness_Step_more :
    let s := demoL1 [line0]
    let w := { walk0 .running with rule := 0, prog := [0x70000000] }
    let r : State := { demoWalk w with agenda := [.rule 0] }
    (({ s with agenda := [.corrected] } : State).agenda = .corrected :: []) ∧ (s.tile s.turn).lastWord = false ∧
    (({ s with agenda := [.sys 0 0x88000000] } : State).agenda = .sys 0 0x88000000 :: [] ∧ s.cores[(0 : DieId)].words ++ [0x88000000] = 0x88000000 :: []) ∧
    (let c : State := { s with agenda := [.core 0], cores := s.cores.set 0 { s.cores[0] with words := [0x88000000] } }
     c.cores[(0 : DieId)].words = 0x88000000 :: []) ∧
    (r.turnAt 0 = some w ∧ w.prog[w.rule]? = some 0x70000000) ∧ r.powered = true := by decide +kernel
/-- R246: a step runs the rule of the walk whose turn it is; R19: a corrected error is counted. -/
theorem test_rule_step : (seen (step { demoWalk { walk0 .running with rule := 0, prog := [0x70000000] } with agenda := [.rule 0] }) fun t =>
    (t.walk? 2).map (·.phase)) = some (some (.replying 2 [] 0 0)) ∧
    (seen (step { demo with agenda := [.corrected] }) (·.telemetry.corrected)) = some 1 := by decide +kernel

/-! ### Witnesses of clauses over several states -/

theorem witness_ClauseBars :
    let s := demoClause 16 2
    s.sysMode = false ∧ s.cur.cls.isOpen = true ∧ s.cur.pc ≠ s.cur.cls.hdr ∧ fetchLength s.cur.pc (s.here.fetch s.cur.pc 32) = 4 ∧
    (encodeWord .tend).isSome = true ∧ demo.cur.cls.isOpen = false := by decide +kernel
/-- R55: a scalar word in an open clause traps F_ILLEGAL_OP, one with reserved bits set too; a false guard saves none. -/
theorem test_clause_bars :
    (seen (exec (.add 1 2 3 7) (demoClause 16 2)) fun t => t.cur.fault.map (·.code)) = some (some .illegalOp) ∧
    (seen (exec (.illegalEncoding .illegalField) (demoClause 16 2)) fun t => t.cur.fault.map (·.code)) = some (some .illegalOp) := by decide +kernel
theorem witness_PageWalkEnds_kinds :
    let v := { acc (.vamo 0 0x0E [(1, 4, 2)] 0 .none) [{ va := 4, len := 4 }] [] with parked := true }
    let f := { acc (.vamo 0 0x0E [(1, 0x20000, 2)] 0 .none) [{ va := 0x20000, len := 4 }] [] with parked := true }
    let p := { acc (.pref false) [{ va := 4, len := 1 }] [] with parked := true }
    (∀ a ∈ [v, f, p], (demoAcc [a]).here.access? 0 = some a ∧ a.iss.tile = 0 ∧ (demoAcc [a]).eccError = false ∧ (demoAcc [a]).alive a.iss = true) ∧
    (demoAcc [v]).tryLocate v.iss v.kind v.pieces true = .ok (some [(.dev 4 false 0, 4)]) ∧
    (demoAcc [f]).tryLocate f.iss f.kind f.pieces true = .error (.xlate, 0x20000) ∧
    (demoAcc [p]).tryLocate p.iss p.kind p.pieces true = .ok (some [(.dev 4 false 0, 1)]) :=
  ⟨by decide +kernel, ok_of (by decide +kernel), err_of (by decide +kernel), ok_of (by decide +kernel)⟩
/-- R180, R223: a `vamo` goes on to its node from a page walk; R197: a prefetch ends there. -/
theorem test_walk_kinds :
    let v := { acc (.vamo 0 0x0E [(1, 4, 2)] 0 .none) [{ va := 4, len := 4 }] [] with parked := true }
    let p := { acc (.pref false) [{ va := 0x20000, len := 1 }] [] with parked := true }
    (seen (exec .pageWalkDone (demoAcc [v])) fun t => (t.here.accesses.map (·.parked), t.pending)) =
      some ([false], [.happen .atomicAtNode (demoAcc [v]).focus]) ∧
    (seen (exec .pageWalkDone (demoAcc [p])) fun t => (t.here.accesses.length, t.cur.late.length)) = some (0, 0) := by decide +kernel
theorem witness_CacheWords_kinds :
    demoMap.tryLocate demoMap.issue (.pref false) [{ va := 0, len := 1 }] false = .ok (some [(.dev 0 false 0, 1)]) ∧
    demo.tryLocate demo.issue (.pref true) [{ va := 0, len := 1 }] false = .ok none ∧ demo.poolFull 0 = false ∧
    demo.tryLocate demo.issue (.pref false) [{ va := Config.ownSpBase - 8, len := 1 }] false = .error (.xlate, Config.ownSpBase - 8) ∧
    demo.here.freeLog.isSome = true ∧ demo.sysMode = false :=
  ⟨ok_of (by decide +kernel), ok_of (by decide +kernel), by decide +kernel, err_of (by decide +kernel), by decide +kernel, by decide +kernel⟩
theorem witness_VectorAtomics_more :
    let m := acc (.vamo 0 0x0E [(1, 0x20000, 2)] 0 .none) [{ va := 4, len := 4 }] []
    let e := acc (.vamo 0 0x0E [] 1 (.vc 0 15)) [{ va := 0, len := 4 }] []
    let s := demoAcc [e]
    ((demoAcc [m]).here.access? 0 = some m ∧ m.parked = false) ∧ (demoAcc [m]).tryLocate m.iss m.kind [{ va := 0x20000, len := 4 }] false = .ok none ∧
    (demoAcc [m]).poolFull 0 = false ∧
    (s.here.access? 0 = some e ∧ s.vcGroup 0 15 = [] ∧ s.vcChan 0 15 = none ∧ (s.vchan 0 15).eat = none ∧ s.vcFree 0 15 = true) :=
  ⟨by decide +kernel, ok_of (by decide +kernel), by decide +kernel, by decide +kernel⟩
/-- R222: the reply of a `vamo` that has performed is its count. -/
theorem test_vamo_reply : (seen (exec .atomicAtNode (demoAcc [acc (.vamo 0 0x0E [] 3 (.vc 0 15)) [{ va := 0, len := 4 }] []])) fun t =>
    (t.here.accesses.length, (t.vchan 0 15).q.map fun f => (f.kind, f.data.toNat))) = some (0, [(0, 3)]) := by decide +kernel
theorem witness_JobWords_waits :
    let b : State := { demoJobs [] (fun c => { c with submits := [(0, 0, 1, card0, 0x80)] }) with focus := { ctx := 0 } }
    let w := b.modCur fun k => { k with status := .blocked, wait := .scheduler }
    let g := b.modCur fun k => { k with status := .running }
    (w.slot 0 0).wait = .scheduler ∧ (w.slot 0 0).status = .blocked ∧ (g.slot 0 0).status ≠ .blocked ∧
    ((g.ctx? 0).map fun c => c.submits.length) = some 1 := by decide +kernel
/-- R316: a submitter that no longer waits gets no number. -/
theorem test_admit_gone :
    let b : State := { demoJobs [] (fun c => { c with submits := [(0, 0, 1, card0, 0x80)] }) with focus := { ctx := 0 } }
    (seen (exec .jobAdmit (b.modCur fun k => { k with status := .running })) fun t => (t.getX 1, (t.ctx? 0).map fun c => (c.jobs.length, c.submits.length))) =
      some (0, some (0, 0)) := by decide +kernel
/-- The live graph's one channel comes from a copy channel, with a source port. -/
def demoSource (P : DPort) : State := demoGraph fun c => { c with
  gslots := c.gslots.set 0 (some { graph0 with chans := [{ desc := (8 <<< 50) ||| (5 <<< 36), depth := 8 }] }), ports := [P] }
theorem witness_DemandPlane_segment :
    let q : Feed := { dest := .sink 0 0 0, part := false, want := [(3, 4)], upto := some 3 }
    let P : DPort := { port := .source 0 0 0, segAt := some 3, feeds := [q] }
    let s := demoSource P
    let u := demoSource { P with segAt := some 5 }
    ((s.tileCtx 0).map fun c => (c.num, c.liveSlot)) = some (0, some 0) ∧ ((s.vcChan 0 5).map fun x => (x.1, x.2.1, chanGroup x.2.2.desc, chanPort x.2.2.desc)) =
      some (0, 0, 0, 8) ∧ ((s.tileCtx 0).map fun c => (c.port (.source 0 0 0)).feeds) = some [q] ∧ P.tokTick 1 = (some 3, true) ∧ hasTick q.want 3 = true ∧
    ((u.tileCtx 0).map fun c => (c.port (.source 0 0 0)).tokTick 1) = some (some 5, true) ∧ hasTick q.want 5 = false := by decide +kernel
/-- R297, R304: of a segment from tick 2 the consumer that demanded ticks 3 and 4 receives those two, between an SOT and an EOT of its own. -/
theorem test_segment :
    let q : Feed := { dest := .sink 0 0 0, part := false, want := [(3, 4)] }
    let t := [({ kind := 1, data := 2 } : Flit), { kind := 0, data := 7 }, { kind := 0, data := 8 }, { kind := 0, data := 9 }, eotFlit 4 3].foldl
      (fun s f => s.sendSeg 0 5 f) (demoSource { port := .source 0 0 0, feeds := [q] })
    ((t.vchan 0 5).q.map fun f => (f.kind, f.data.toNat % 2 ^ 48)) = [(1, 3), (0, 8), (0, 9), (2, 4)] := by decide +kernel
theorem witness_ContextWords_again :
    let k := (demoJobs [job 1 .running, job 2 .done]).setX 2 1
    let v := { demoSys with contexts := [{ placedContext with saving := some 9, launch := none }] }
    (k.taskFree 0 [1, 2] [] ∧ k.cur.status = .running ∧ k.cur.job ≠ 1 ∧ (k.modCur fun q => { q with job := 1 }).cur.job = 1) ∧
    ((v.ctx? 0).map fun c => (c.saving, decide (v.clk < 9), v.saveReady c)) = some (some 9, true, true) :=
  ⟨⟨free_of _ _ _ _ (by decide +kernel), by decide +kernel, by decide +kernel, by decide +kernel⟩, by decide +kernel⟩
/-- R352: a job that ends itself by `kil.j` has its 1 in rd and goes no further. -/
theorem test_kilj_self : (seen (exec (.kilJ 1 2 0) (((demoJobs [job 1 .running]).setX 2 1).modCur fun q => { q with job := 1 })) fun t =>
    (t.cur.status == .running, (t.ctx? 0).map fun c => c.jobs.map (·.state))) = some (false, some [.cancelled]) := by decide +kernel
theorem witness_FaultsAreReported_ecc : let r := struck (demoCtx fun c => { c with records := [{ bits := 7 }], produced := 256, ring := 0x4000, consumed := 100 })
    r.eccError = true ∧ ((r.ctx? 0).map fun c => (c.records.length, decide (c.produced - c.consumed < 256))) = some (1, true) := by decide +kernel
theorem witness_StreamMoves_merge :
    let k : Tok := { kind := 2, val := 12 }
    let m : Lane := { elems := (Vector.replicate 6 {}).set 1 { own := some k }, decisions := Vector.replicate 4 [none],
                      bypass := (Vector.replicate 7 none).set 1 (some k), bypassTo := (Vector.replicate 7 0).set 1 2, merged := (Vector.replicate 7 0).set 2 3 }
    let s := demoRun m 2
    (s.here.stream = some (run0 m) ∧ rKind (s.here.rWord (run0 m) 15 2) = 2 ∧ m.bnd[2] = none ∧ m.dead[2] = false ∧ (run0 m).lanes[15].above 2 = some k ∧
      k.val.toNat % 2 ^ 48 = 12) ∧ ((s.in2 0 (run0 m) 15 2).map fun q => q.1.kind) = some 2 ∧
    ((run0 m).carTook[3] = none ∧ (run0 m).steered[rVc (s.here.rWord (run0 m) 15 3)] < 1) := by decide +kernel
/-- R139, R268: the merged EOT carries the number of tokens merged. -/
theorem test_merge_count :
    let k : Tok := { kind := 2, val := 12 }
    let m : Lane := { elems := (Vector.replicate 6 {}).set 1 { own := some k }, decisions := Vector.replicate 4 [none],
                      bypass := (Vector.replicate 7 none).set 1 (some k), bypassTo := (Vector.replicate 7 0).set 1 2, merged := (Vector.replicate 7 0).set 2 3 }
    (seen (exec .mergeTake (demoRun m 2)) fun t => t.here.stream.map fun x => (x.lanes[15].bnd[2].map fun k => (k.kind, k.val.toNat), x.lanes[15].merged[2])) =
      some (some (some (2, 12 + 3 * 2 ^ 64), 0)) := by decide +kernel
theorem witness_WalksRun_program :
    let c : Cmd := { c0 with s1 := 0x4003, s2 := 0x4004, s3 := 0x4006, s4 := 0x8014, s5 := 0xD805 }
    let e : Tlb := { ctx := 0, page := 0, level := 0, leaf := 0x1D }
    let s : State := (demoMap.setX 3 0x80).setX 4 0x40
    let s : State := { s with walkTlb := s.walkTlb.set (walkerIx (s.walkerFor s.issue 0x40)) [e] (walkerIx (s.walkerFor s.issue 0x40)).isLt }
    let w := walk0 .fetching
    let u : State := { demoWalk w with focus := { walk := 2, unit := 1 } }
    let v : State := { u with dies := u.dies.set 0 { u.dies[0] with dtlb := [e] } }
    s.commandFree (.walk c) c (walkRegs c) ∧ chkWalk c s.issue s = .ok () ∧
    (walkFallow c s.issue s = false ∧ s.owned (s.walkerFor s.issue 0x40) < 32 ∧ findTlb s.walkTlb[walkerIx (s.walkerFor s.issue 0x40)] 0 0 = some e ∧
      leafPerm e.leaf { read := true, engine := true } = true ∧ s.eccError = false ∧ s.walks = []) ∧
    s.leafLoc e.leaf e.level 0x80 = .ok (.dev 0x80 false 0) ∧
    (u.walk? 2 = some w ∧ u.walkMissDie w w.progVa = true ∧ w.parked = false ∧ u.diePoolFull (walkerDie 0) = false ∧
      v.walkMissDie w w.progVa = false ∧ v.walkLeaf w w.progVa = some (0x1D, 0)) ∧ v.leafLoc 0x1D 0 w.progVa = .ok (.dev 0 false 0) :=
  ⟨command_of _ _ _ _ (by decide +kernel), ok_of (by decide +kernel), by decide +kernel, ok_of (by decide +kernel), by decide +kernel, ok_of (by decide +kernel)⟩
/-- R249, R252: a walker that has translated its program's page runs its first rule. -/
theorem test_program_page :
    let u : State := { demoWalk (walk0 .fetching) with focus := { walk := 2, unit := 1 } }
    let v : State := { u with dies := u.dies.set 0 { u.dies[0] with dtlb := [{ ctx := 0, page := 0, level := 0, leaf := 0x1D }] } }
    (seen (exec .pageWalkDone v) fun t => ((t.walk? 2).map fun w => (w.phase, w.prog.length), t.pending)) =
      some (some (.running, 32), [.rule 0]) := by decide +kernel
theorem witness_GraphCommands_rot :
    let none' := (demoLoaded.modTile 0 fun T => { T with stream := none }).modCtx 0 fun c => { c with gslots := c.gslots.set 0 (some { graph0 with chans := [] }) }
    ((none'.ctx? 0).map fun k => ((none'.rotTiles k 0).length, k.liveChans.length)) = some (0, 0) := by decide +kernel
theorem witness_MailboxRules_behind :
    let m : Mail := { instr := .ctxSave, func := .pf 1, req := ⟨0, 0, 5, 0, 0, 0, 0, 0, 0⟩, begun := true }
    let s : State := { mail .operational 5 with mailQ := [m] }
    m.func ≠ s.focus.func ∧ s.wiping = false ∧ s.mailBehind (s.mail .jobSubmit) m = true := by decide +kernel
/-- R372: a command on a context behind an earlier one on it is accepted and waits. -/
theorem test_behind :
    let m : Mail := { instr := .ctxSave, func := .pf 1, req := ⟨0, 0, 5, 0, 0, 0, 0, 0, 0⟩, begun := true }
    (seen (exec .jobSubmit { mail .operational 5 with mailQ := [m] }) fun t => (t.mailQ.map (·.instr), t.responses.length)) =
      some ([.ctxSave, .jobSubmit], 0) := by decide +kernel
theorem witness_ContextCommands_launch :
    let c : Context := placedContext
    let a := acc .store [{ va := 0, len := 1, bytes := [9] }] [(.dev 0 false 0, 1)]
    let s : State := { mail .operational with contexts := [c], tiles := (demoAcc [a]).tiles }
    let u : State := { mail .operational with contexts := [c] }
    (inHbm 0x10000 4096 = true ∧ inHbm 64 16448 = true) ∧ ((c.tiles.head?.map fun x => ((s.tile x).accesses.map (·.tileDone))) = some [false]) ∧
    (∀ x ∈ c.tiles, ∀ a ∈ (u.tile x).accesses, a.tileDone = true) := by decide +kernel
theorem witness_Power_settled :
    let c : State := { mail .operational with mailQ := [{ (mail .operational).mail .peerCfg with begun := true, owes := [(3, 1)] }] }
    c.mailQ = [{ c.mail .peerCfg with begun := true, owes := [(3, 1)] }] ∧ (c.unpost .peerCfg c.focus).peersSettled [(3, 1)] = true ∧
    ({ mail .operational with engineFaults := [{ id := 0, iss := { demo.issue with ctx := 3, job := 1 }, code := .xlate, addr := 0, aux := 0, toTask := false }] }.peersSettled
      [(3, 1)] = false) := by decide +kernel
theorem witness_Step_clock :
    let s := demoL1 [line0]
    let h : State := { s with dies := s.dies.set 0 { s.dies[0] with power := .s1 } }
    s.clockHeld .elementFire {} = false ∧ h.clockHeld .elementFire {} = true ∧ s.dies[walkerDie (walkerIx 0)].power ≠ .s1 := by decide +kernel
/-- R380: in S1 the arithmetic clock is held, so nothing fires. -/
theorem test_s1 :
    let e : Lane := { entry := some { kind := 0, val := 3 } }
    let s := demoRun e 0
    let h : State := { s with dies := s.dies.set 0 { s.dies[0] with power := .s1 }, agenda := [.happen .elementFire s.focus] }
    (seen (step h) fun t => (t.agenda.length, t.here.stream == s.here.stream)) = some (0, true) := by decide +kernel

end Sys2Proof.Tests
end

section
/-! What one step runs. A step lets time pass (`State.tick`), chooses a move and executes what the move runs; each clause of the
statement O54 is one move, read off `State.runMove`, or the sequencer whose turn it is, read off `State.issueAt`. -/
namespace Sys2Proof.Machine
open Sys2Proof

/-! ## What the passing of time leaves -/

@[simp] theorem State.tick_agenda (s : State) : s.tick.agenda = s.agenda := rfl
@[simp] theorem State.tick_powered (s : State) : s.tick.powered = s.powered := rfl
@[simp] theorem State.tick_owedFirst (s : State) : s.tick.owedFirst = s.owedFirst := rfl
@[simp] theorem State.tick_pending (s : State) : s.tick.pending = s.pending := rfl

/-! ## A move of the agenda -/

@[simp] theorem State.evicted_powered (s : State) (m : Move) : (s.evicted m).powered = s.powered := by cases m <;> rfl

/-- The clock a happening waits on is not a matter of the agenda. -/
theorem State.clockHeld_agenda (s : State) (l : List Move) (i : Instr) (f : Focus) :
    ({ s with agenda := l } : State).clockHeld i f = s.clockHeld i f := rfl

/-- With power, the choice is what the agenda's first move runs. -/
theorem State.choose_of_runMove_some {s t : State} {m : Move} {rest : List Move} {i : Instr} (ha : s.agenda = m :: rest)
    (hp : s.powered = true) (hm : (State.evicted { s with agenda := rest } m).runMove m = some (i, t)) : s.choose = .run i t := by
  have hon : (!(State.evicted { s with agenda := rest } m).powered && !isReset m) = false := by simp [hp]
  simp only [State.choose, ha, hon, hm, Bool.false_eq_true, if_false]

/-- Where the agenda's first move runs nothing, the device idles, power or none; memory has done what the move says it does by itself. -/
theorem State.choose_of_runMove_none {s : State} {m : Move} {rest : List Move} (ha : s.agenda = m :: rest)
    (hm : (State.evicted { s with agenda := rest } m).runMove m = none) :
    s.choose = .idle (State.evicted { s with agenda := rest } m) := by
  simp only [State.choose, ha, hm, ite_self]

theorem step_of_choose_run {s t : State} {i : Instr} (h : s.tick.choose = .run i t) : step s = exec i t := by simp [step, h]
theorem step_of_choose_idle {s t : State} (h : s.tick.choose = .idle t) : step s = .next t := by simp [step, h]

/-- With power, a step executes what the agenda's first move runs once time has passed. -/
theorem step_of_runMove_some {s t : State} {m : Move} {rest : List Move} {i : Instr} (ha : s.agenda = m :: rest) (hp : s.powered = true)
    (hm : (State.evicted { s.tick with agenda := rest } m).runMove m = some (i, t)) : step s = exec i t :=
  step_of_choose_run (State.choose_of_runMove_some (s := s.tick) ha hp hm)

theorem step_of_runMove_none {s : State} {m : Move} {rest : List Move} (ha : s.agenda = m :: rest)
    (hm : (State.evicted { s.tick with agenda := rest } m).runMove m = none) :
    step s = .next (State.evicted { s.tick with agenda := rest } m) :=
  step_of_choose_idle (State.choose_of_runMove_none (s := s.tick) ha hm)

/-! ### A happening -/

theorem State.runMove_happen (s : State) {i : Instr} (f : Focus) (hi : isHappening i = true) (hc : s.clockHeld i f = false) :
    s.runMove (.happen i f) = some (i, { s with sysMode := false, eccError := false, focus := f }) := by
  simp [State.runMove, hi, hc]
theorem State.runMove_happenErr (s : State) {i : Instr} (f : Focus) (hi : isHappening i = true) (hc : s.clockHeld i f = false) :
    s.runMove (.happenErr i f) = some (i, { s with sysMode := false, eccError := true, focus := f }) := by
  simp [State.runMove, hi, hc]
/-- In S1 the arithmetic clock is held, and what waits on it does not take place (R380). -/
theorem State.runMove_happen_held (s : State) {i : Instr} {f : Focus} (hc : s.clockHeld i f = true) : s.runMove (.happen i f) = none := by
  simp [State.runMove, hc]

theorem step_happen {s : State} {i : Instr} {f : Focus} {rest : List Move} (ha : s.agenda = .happen i f :: rest) (hp : s.powered = true)
    (hi : isHappening i = true) :
    (s.tick.clockHeld i f = false → step s = exec i { s.tick with agenda := rest, sysMode := false, eccError := false, focus := f }) ∧
    (s.tick.clockHeld i f = true → step s = .next { s.tick with agenda := rest }) :=
  ⟨fun hc => step_of_runMove_some ha hp (State.runMove_happen _ f hi ((s.tick.clockHeld_agenda rest i f).trans hc)),
   fun hc => step_of_runMove_none ha (State.runMove_happen_held _ ((s.tick.clockHeld_agenda rest i f).trans hc))⟩

theorem step_happenErr {s : State} {i : Instr} {f : Focus} {rest : List Move} (ha : s.agenda = .happenErr i f :: rest)
    (hp : s.powered = true) (hi : isHappening i = true) (hc : s.tick.clockHeld i f = false) :
    step s = exec i { s.tick with agenda := rest, sysMode := false, eccError := true, focus := f } :=
  step_of_runMove_some ha hp (State.runMove_happenErr _ f hi ((s.tick.clockHeld_agenda rest i f).trans hc))

/-! ### What memory does by itself -/

theorem step_evict {s : State} {u : TileId} {n : Nat} {rest : List Move} (ha : s.agenda = .evict u n :: rest) :
    step s = .next (({ s.tick with agenda := rest } : State).modTile u fun T => { T with l1 := T.l1.filter (·.line != n) }) :=
  step_of_runMove_none ha rfl

theorem step_corrected {s : State} {rest : List Move} (ha : s.agenda = .corrected :: rest) :
    step s = .next { s.tick with agenda := rest, telemetry := { s.telemetry with corrected := s.telemetry.corrected + 1 } } :=
  step_of_runMove_none ha rfl

/-! ### A word of a management core -/

/-- A management core runs its first word in system mode, keeps the others, and owes itself a move for them (R337, R353). -/
theorem State.coreWord_cons (s : State) (d : DieId) (x : Word32) (xs : List Word32) :
    ∃ t, s.coreWord d (x :: xs) = some (decodeScalar x, t) ∧ t.sysMode = true ∧ t.eccError = false ∧ t.focus = { die := d } ∧
      t.cores = s.cores.set d { s.cores[d] with words := xs } ∧ t.tiles = s.tiles ∧ t.mem = s.mem ∧ (xs ≠ [] → .core d ∈ t.pending) := by
  refine ⟨_, rfl, rfl, rfl, rfl, rfl, rfl, rfl, fun hxs => ?_⟩
  by_cases hd : .core d ∈ s.pending
  · simp [hd]
  · simp [hd, hxs]

theorem step_coreWord {s : State} {d : DieId} {m : Move} {x : Word32} {xs : List Word32} {rest : List Move} (ha : s.agenda = m :: rest)
    (hp : s.powered = true)
    (hm : (∃ w, m = .sys d w ∧ s.cores[d].words ++ [w] = x :: xs) ∨ m = .core d ∧ s.cores[d].words = x :: xs) :
    ∃ t, step s = exec (decodeScalar x) t ∧ t.sysMode = true ∧ t.eccError = false ∧ t.focus = { die := d } ∧
      t.cores = s.cores.set d { s.cores[d] with words := xs } ∧ t.tiles = s.tiles ∧ t.mem = s.mem ∧ (xs ≠ [] → .core d ∈ t.pending) := by
  have hrun : (State.evicted { s.tick with agenda := rest } m).runMove m = State.coreWord { s.tick with agenda := rest } d (x :: xs) := by
    obtain ⟨w, rfl, hw⟩ | ⟨rfl, hw⟩ := hm <;> rw [← hw] <;> rfl
  obtain ⟨t, ht, hframe⟩ := State.coreWord_cons { s.tick with agenda := rest } d x xs
  exact ⟨t, step_of_runMove_some ha hp (hrun.trans ht), hframe⟩

/-! ### A rule of a walk -/

/-- A program word that some row of R253 assigns is the walk's rule. -/
theorem ruleAt_of_getElem? {w : Walk} {x : Word32} (hx : w.prog[w.rule]? = some x) (hok : ∀ c, decodeRule x ≠ .illegalEncoding c) :
    ruleAt w = decodeRule x := by
  have hget : w.prog.getD w.rule (BitVec.allOnes 32) = x := by simp [List.getD, hx]
  rw [ruleAt, hget]
  split
  · next c hc => exact absurd hc (hok c)
  · rfl

theorem State.runMove_rule (s : State) {j : Nat} {w : Walk} (hw : s.turnAt j = some w) (hs1 : s.dies[walkerDie (walkerIx j)].power ≠ .s1) :
    s.runMove (.rule j) = some (ruleAt w, { s with
      sysMode := false, eccError := false, focus := { walk := w.id }, walkLast := s.walkLast.set (walkerIx j) w.id (walkerIx j).isLt }) := by
  have hclk : (s.dies[walkerDie (walkerIx j)].power == .s1) = false := beq_false_of_ne hs1
  simp only [State.runMove, hclk, hw, Option.map_some, Bool.false_eq_true, if_false]

theorem step_rule {s : State} {j : Nat} {w : Walk} {x : Word32} {rest : List Move} (ha : s.agenda = .rule j :: rest) (hp : s.powered = true)
    (hw : s.turnAt j = some w) (hx : w.prog[w.rule]? = some x) (hok : ∀ c, decodeRule x ≠ .illegalEncoding c)
    (hs1 : s.dies[walkerDie (walkerIx j)].power ≠ .s1) :
    step s = exec (decodeRule x) { s.tick with
      agenda := rest, sysMode := false, eccError := false, focus := { walk := w.id }
      walkLast := s.walkLast.set (walkerIx j) w.id (walkerIx j).isLt } := by
  rw [← ruleAt_of_getElem? hx hok]
  exact step_of_runMove_some ha hp (State.runMove_rule { s.tick with agenda := rest } hw hs1)

/-- The walk whose turn it is (R246) is present at the walker with a rule to run. It is the next by number after the one that ran last:
only where no walk there has a higher number does the turn go round the end. -/
theorem State.turnAt_spec {s : State} {j : Nat} {w : Walk} (hw : s.turnAt j = some w) :
    w ∈ s.walks ∧ w.owner.isSome = true ∧ w.walker = j ∧ w.phase = .running ∧
      (w.id ≤ s.walkLast[walkerIx j] →
        ∀ v ∈ s.walks, v.owner.isSome = true → v.walker = j → v.phase = .running → v.id ≤ s.walkLast[walkerIx j]) := by
  obtain hnext | ⟨hround, hhead⟩ := Option.or_eq_some_iff.mp hw
  · have hlater : s.walkLast[walkerIx j] < w.id := by simpa using List.find?_some hnext
    have hready := List.mem_of_find?_eq_some hnext
    simp only [List.mem_filter, Bool.and_eq_true, beq_iff_eq] at hready
    obtain ⟨hmem, ⟨howner, hwalker⟩, hphase⟩ := hready
    exact ⟨hmem, howner, hwalker, hphase, fun hle => absurd hlater (Nat.not_lt.mpr hle)⟩
  · have hready := List.mem_of_head? hhead
    simp only [List.mem_filter, Bool.and_eq_true, beq_iff_eq] at hready
    obtain ⟨hmem, ⟨howner, hwalker⟩, hphase⟩ := hready
    refine ⟨hmem, howner, hwalker, hphase, fun _ v hv hvo hvw hvp => ?_⟩
    have hv' := List.find?_eq_none.mp hround v (by simp [hv, hvo, hvw, hvp])
    simpa using hv'

/-! ## The word of a sequencer -/

/-- A tile that no save is to stop behind its word only has the word in focus (R73). -/
theorem State.atSlot_of_not_lastWord (s : State) {t : TileId} (k : SlotId) (h : (s.tile t).lastWord = false) :
    s.atSlot t k = { s with sysMode := false, eccError := false, focus := { tile := t, slot := k } } := by
  simp [State.atSlot, h]

/-- A RUNNING slot without a late fault issues the word its bytes decode to (R30, R31). -/
theorem State.issueAt_running (s : State) {t : TileId} {k : SlotId} (hc : s.canIssue t = true) (hk : (s.tile t).running = some k)
    (hl : (s.slot t k).late = []) :
    s.issueAt t = some (decode (s.slot t k).pc (Memory.read (s.tile t).istore (s.slot t k).pc.toNat 32), s.atSlot t k) := by
  have hl' : ((s.tile t).slot k).late = [] := hl
  simp [State.issueAt, hc, hk, hl', State.slot, Tile.fetch]

theorem tilesFrom_head? (t : TileId) : (tilesFrom t).head? = some t := by
  rw [tilesFrom, List.finRange_succ]
  simp [Nat.mod_eq_of_lt t.isLt]

/-- The tile whose turn it is comes first, where it has a word; the turn then passes to the next tile. -/
theorem State.runTiles_of_issueAt {s r : State} {i : Instr} (hi : s.issueAt s.turn = some (i, r)) :
    s.runTiles = some (i, { r with owedFirst := true, turn := ⟨(r.focus.tile.val + 1) % 1024, Nat.mod_lt _ (Nat.zero_lt_succ _)⟩ }) := by
  obtain ⟨ts, hts⟩ := List.head?_eq_some_iff.mp (tilesFrom_head? s.turn)
  simp [State.runTiles, hts, hi]

/-- With nothing on the agenda and no owed move first, a step executes the sequencers' next word. -/
theorem step_of_runTiles {s t : State} {i : Instr} (ha : s.agenda = []) (hp : s.powered = true) (ho : s.owedFirst = false ∨ s.pending = [])
    (hi : s.tick.runTiles = some (i, t)) : step s = exec i t := by
  have ho' : (s.owedFirst && !s.pending.isEmpty) = false := by obtain h | h := ho <;> simp [h]
  exact step_of_choose_run (by simp [State.choose, ha, hp, ho', hi])

theorem step_running {s : State} {k : SlotId} (ha : s.agenda = []) (hp : s.powered = true) (ho : s.owedFirst = false ∨ s.pending = [])
    (hc : s.tick.canIssue s.turn = true) (hk : (s.tile s.turn).running = some k) (hl : (s.slot s.turn k).late = []) :
    step s = exec (decode (s.slot s.turn k).pc (Memory.read (s.tile s.turn).istore (s.slot s.turn k).pc.toNat 32))
      { s.tick.atSlot s.turn k with owedFirst := true, turn := ⟨(s.turn.val + 1) % 1024, Nat.mod_lt _ (Nat.zero_lt_succ _)⟩ } :=
  step_of_runTiles ha hp ho (State.runTiles_of_issueAt (State.issueAt_running s.tick hc hk hl))

/-- Settles O54: clause by clause, the move on the agenda or the sequencer whose turn it is. -/
theorem stepRunsTheDecodedInstruction : Obligations.StepRunsTheDecodedInstruction := fun s =>
  ⟨fun _ ha hp ho hc hk hl => step_running ha hp ho hc hk hl,
   fun k h => State.atSlot_of_not_lastWord s.tick k h,
   fun _ _ _ ha hp hi => step_happen ha hp hi,
   fun _ _ _ ha hp hi hc => step_happenErr ha hp hi hc,
   fun _ _ _ ha => step_evict ha,
   fun _ ha => step_corrected ha,
   fun _ _ _ _ _ ha hp hm => step_coreWord ha hp hm,
   fun _ _ _ _ ha hp hw hx hok hs1 => step_rule ha hp hw hx hok hs1,
   fun _ _ hw => State.turnAt_spec hw⟩

end Sys2Proof.Machine
end

section
/-! The matrix array at work (R155, R156, R158, R159). A row that lands changes z and counters alone (`State.landed`); the end of a queue's
only command is one change of its tile (`State.endMat_last`). Each clause of the statement O41 is one happening, said once with its effect,
followed by the frames of the operations that make up the effect. -/
namespace Sys2Proof.Machine
open Sys2Proof

/-! ## Owing a happening once -/

@[simp] theorem State.tile_postOnce (s : State) (i : Instr) (f : Focus) (u : TileId) : (s.postOnce i f).tile u = s.tile u := by
  unfold State.postOnce; split <;> rfl
@[simp] theorem State.postOnce_focus (s : State) (i : Instr) (f : Focus) : (s.postOnce i f).focus = s.focus := by
  unfold State.postOnce; split <;> rfl
@[simp] theorem State.postOnce_engineFaults (s : State) (i : Instr) (f : Focus) : (s.postOnce i f).engineFaults = s.engineFaults := by
  unfold State.postOnce; split <;> rfl
theorem State.mem_pending_postOnce (s : State) (i : Instr) (f : Focus) : .happen i f ∈ (s.postOnce i f).pending := by
  unfold State.postOnce; split
  · next h => simpa using h
  · simp

/-! ## What the array never touches -/

/-- The focus, every byte and every register file are as before: the frame of everything the array does. -/
def State.sameStores (s t : State) : Prop := t.focus = s.focus ∧ s.sameBytes t ∧ s.sameFiles t [] []

theorem State.sameStores_refl (s : State) : s.sameStores s := ⟨rfl, s.sameBytes_refl, s.sameFiles_refl _ _⟩
theorem State.sameStores_trans {s t u : State} (h : s.sameStores t) (k : t.sameStores u) : s.sameStores u := by
  obtain ⟨hf, hb, hx⟩ := h
  obtain ⟨kf, kb, kx⟩ := k
  exact ⟨kf.trans hf, State.sameBytes_trans hb kb, State.sameFiles_trans hf hx kx⟩
theorem State.sameStores_modTile (s : State) (t : TileId) (f : Tile → Tile) (h : (f (s.tile t)).sp = (s.tile t).sp ∧
    (f (s.tile t)).istore = (s.tile t).istore ∧ (f (s.tile t)).l1 = (s.tile t).l1 ∧ (f (s.tile t)).slots = (s.tile t).slots) :
    s.sameStores (s.modTile t f) := by
  obtain ⟨hsp, histore, hl1, hslots⟩ := h
  exact ⟨rfl, s.sameBytes_modTile t f hsp histore hl1, s.sameFiles_modTile t f _ _ fun k => by simp [Tile.slot, State.slot, hslots]⟩
theorem State.sameStores_postOnce (s : State) (i : Instr) (f : Focus) : s.sameStores (s.postOnce i f) :=
  ⟨s.postOnce_focus i f, s.sameBytes_postOnce i f, s.sameFiles_postOnce i f _ _⟩
theorem State.sameStores_modCtx (s : State) (n : Nat) (f : Context → Context) : s.sameStores (s.modCtx n f) := s.sameStores_refl

/-! ## The queue of a tile -/

theorem State.modTile_congr (s : State) (t : TileId) {f g : Tile → Tile} (h : f (s.tile t) = g (s.tile t)) : s.modTile t f = s.modTile t g := by
  rw [State.modTile, h, State.modTile]

section
variable {s : State} {t : TileId} {q : MatCmd} (h : (s.tile t).matQ = [q])
include h

/-- The end of a queue's only command: the queue is empty, no half waits, and the counts of a `cpym` follow-on have gone (R155). -/
theorem State.endMat_last : ∃ counts sum,
    s.endMat t = s.modTile t fun T => { T with matQ := [], pairDeadline := none, matCounts := counts, statSum := sum } := by
  have hrest : ((s.popMat t).tile t).matQ = [] := by
    simp only [State.popMat, State.tile_modTile, h]
    split <;> rfl
  have hend : s.endMat t = s.popMat t := by simp [State.endMat, State.kickMat, hrest]
  rw [hend]
  by_cases hf : q.iss.follow = true
  · exact ⟨_, _, s.modTile_congr t (by simp only [h, hf, if_true]; rfl)⟩
  · exact ⟨_, _, s.modTile_congr t (by simp only [h, hf]; rfl)⟩

theorem State.endMat_sameStores : s.sameStores (s.endMat t) := by
  obtain ⟨counts, sum, he⟩ := State.endMat_last h
  exact he ▸ s.sameStores_modTile t _ ⟨rfl, rfl, rfl, rfl⟩
theorem State.endMat_sameArrays : s.sameArrays (s.endMat t) := by
  obtain ⟨counts, sum, he⟩ := State.endMat_last h
  exact he ▸ s.sameArrays_modTile t _ ⟨rfl, rfl, rfl, rfl, rfl, rfl, rfl, rfl⟩
theorem State.endMat_focus : (s.endMat t).focus = s.focus := by
  obtain ⟨counts, sum, he⟩ := State.endMat_last h
  rw [he, State.modTile_focus]
theorem State.endMat_engineFaults : (s.endMat t).engineFaults = s.engineFaults := by
  obtain ⟨counts, sum, he⟩ := State.endMat_last h
  rw [he, State.modTile_engineFaults]
theorem State.endMat_pending : (s.endMat t).pending = s.pending := by
  obtain ⟨counts, sum, he⟩ := State.endMat_last h
  rw [he, State.modTile_pending]
/-- Of the tile, the queue is empty and everything but the half's deadline and the array's counters is as before. -/
theorem State.tile_endMat : ∃ counts sum,
    (s.endMat t).tile t = { s.tile t with matQ := [], pairDeadline := none, matCounts := counts, statSum := sum } := by
  obtain ⟨counts, sum, he⟩ := State.endMat_last h
  exact ⟨counts, sum, by rw [he, State.tile_modTile]⟩
theorem State.tile_endMat_ne {u : TileId} (hu : u ≠ t) : (s.endMat t).tile u = s.tile u := by
  obtain ⟨counts, sum, he⟩ := State.endMat_last h
  rw [he, State.tile_modTile_ne _ _ hu]
theorem State.endMat_matQ : ((s.endMat t).tile t).matQ = [] := by
  obtain ⟨counts, sum, he⟩ := State.tile_endMat h
  rw [he]
end

theorem State.tile_modMat {s : State} {t : TileId} {q : MatCmd} {l : List MatCmd} (f : MatCmd → MatCmd) (h : (s.tile t).matQ = q :: l) :
    (s.modMat t f).tile t = { s.tile t with matQ := f q :: l } := by
  simp [State.modMat, h]
theorem State.modMat_sameStores (s : State) (t : TileId) (f : MatCmd → MatCmd) : s.sameStores (s.modMat t f) :=
  s.sameStores_modTile t _ ⟨rfl, rfl, rfl, rfl⟩
theorem State.modMat_sameArrays (s : State) (t : TileId) (f : MatCmd → MatCmd) : s.sameArrays (s.modMat t f) :=
  s.sameArrays_modTile t _ ⟨rfl, rfl, rfl, rfl, rfl, rfl, rfl, rfl⟩
theorem State.modVc_sameStores (s : State) (t : TileId) (vc : SlotId) (f : VChan → VChan) : s.sameStores (s.modVc t vc f) :=
  s.sameStores_modTile t _ ⟨rfl, rfl, rfl, rfl⟩
theorem State.modVc_sameArrays (s : State) (t : TileId) (vc : SlotId) (f : VChan → VChan) : s.sameArrays (s.modVc t vc f) :=
  s.sameArrays_modTile t _ ⟨rfl, rfl, rfl, rfl, rfl, rfl, rfl, rfl⟩
theorem State.vchan_unpost (s : State) (i : Instr) (f : Focus) (t : TileId) (vc : SlotId) : (s.unpost i f).vchan t vc = s.vchan t vc := rfl
@[simp] theorem State.modVc_matQ (s : State) (t : TileId) (vc : SlotId) (f : VChan → VChan) : ((s.modVc t vc f).tile t).matQ = (s.tile t).matQ := by
  simp [State.modVc]
theorem State.vchan_modVc (s : State) (t : TileId) (vc : SlotId) (f : VChan → VChan) : (s.modVc t vc f).vchan t vc = f (s.vchan t vc) := by
  simp [State.modVc, State.vchan]

/-- A dense command at the head whose formats pair owes its next row (R154, R158). -/
theorem State.kickMat_mst {s : State} {t : TileId} {q : MatCmd} {l : List MatCmd} {c : Cmd} (n : Nat) (h : (s.tile t).matQ = q :: l)
    (hi : q.instr = .mst c) (hp : pairsWith q.actTag (s.tile t).active.tag = true) :
    s.kickMat t (n + 1) = s.postOnce .zRowLand { tile := t } := by
  simp [State.kickMat, h, hi, hp]

/-! ## Faults of a command -/

@[simp] theorem State.tile_matFails (s : State) (q : MatCmd) (code : FaultCode) (u : TileId) : (s.matFails q code).tile u = s.tile u := rfl
theorem State.matFails_sameStores (s : State) (q : MatCmd) (code : FaultCode) : s.sameStores (s.matFails q code) := s.sameStores_refl
theorem State.matFails_sameArrays (s : State) (q : MatCmd) (code : FaultCode) : s.sameArrays (s.matFails q code) := s.sameArrays_refl
theorem State.matFails_engineFaults (s : State) (q : MatCmd) (code : FaultCode) :
    ∃ e, (s.matFails q code).engineFaults = s.engineFaults ++ [e] ∧ e.code = code ∧ e.iss = q.iss := ⟨_, rfl, rfl, rfl⟩

theorem partner_ne (t : TileId) : partner t ≠ t := by
  intro h
  have hv : (if t.val % 2 = 0 then t.val + 1 else t.val - 1) = t.val := congrArg Fin.val h
  split at hv <;> omega

/-- Discarding what is staged at one tile leaves a tile as it was, but for its staging. -/
theorem State.tile_clearStaging (s : State) (x u : TileId) :
    ∃ p, (s.modTile x fun T => { T with pairIn := none }).tile u = { s.tile u with pairIn := p } := by
  rw [State.tile_modTile_if]; split
  · next e => exact ⟨none, by rw [e]⟩
  · exact ⟨_, rfl⟩

/-- Without a loss told before, a half of a pair that ends without its rows tells the other half, and nothing stays staged (R159). -/
theorem State.losePair_first {s : State} {t : TileId} {q : MatCmd} (hq : q.paired = true) (hl : (s.tile t).pairLost = 0) :
    s.losePair t q = ((s.modTile (if isHome t then t else partner t) fun T => { T with pairIn := none }).modTile (partner t) fun T =>
      { T with pairLost := T.pairLost + 1 }).postOnce .pairTimeout { tile := partner t } := by
  have hl' : ((s.modTile (if isHome t then t else partner t) fun T => { T with pairIn := none }).tile t).pairLost = 0 := by
    obtain ⟨_, e⟩ := s.tile_clearStaging (if isHome t then t else partner t) t
    rw [e]; exact hl
  simp [State.losePair, hq, hl']

section
variable {s : State} {t : TileId} {q : MatCmd} (hq : q.paired = true) (hl : (s.tile t).pairLost = 0)
include hq hl

theorem State.losePair_sameStores : s.sameStores (s.losePair t q) := by
  rw [State.losePair_first hq hl]
  exact State.sameStores_trans (s.sameStores_modTile _ _ ⟨rfl, rfl, rfl, rfl⟩)
    (State.sameStores_trans (State.sameStores_modTile _ _ _ ⟨rfl, rfl, rfl, rfl⟩) (State.sameStores_postOnce _ _ _))
theorem State.losePair_sameArrays : s.sameArrays (s.losePair t q) := by
  rw [State.losePair_first hq hl]
  exact State.sameArrays_trans (s.sameArrays_modTile _ _ ⟨rfl, rfl, rfl, rfl, rfl, rfl, rfl, rfl⟩)
    (State.sameArrays_trans (State.sameArrays_modTile _ _ _ ⟨rfl, rfl, rfl, rfl, rfl, rfl, rfl, rfl⟩) (State.sameArrays_postOnce _ _ _))
theorem State.losePair_engineFaults : (s.losePair t q).engineFaults = s.engineFaults := by
  simp [State.losePair_first hq hl]
theorem State.losePair_matQ : ((s.losePair t q).tile t).matQ = (s.tile t).matQ := by
  rw [State.losePair_first hq hl, State.tile_postOnce, State.tile_modTile_ne _ _ (partner_ne t).symm]
  obtain ⟨_, e⟩ := s.tile_clearStaging (if isHome t then t else partner t) t
  rw [e]
theorem State.losePair_pairLost : ((s.losePair t q).tile (partner t)).pairLost = (s.tile (partner t)).pairLost + 1 := by
  rw [State.losePair_first hq hl, State.tile_postOnce, State.tile_modTile]
  obtain ⟨_, e⟩ := s.tile_clearStaging (if isHome t then t else partner t) (partner t)
  rw [e]
theorem State.losePair_pending : .happen .pairTimeout { tile := partner t } ∈ (s.losePair t q).pending :=
  State.losePair_first hq hl ▸ State.mem_pending_postOnce _ _ _
end

/-! ## Rows that land -/

/-- What the landing of rows may change of a tile: its z registers and the counters of its tasks and of its array. -/
structure State.landed (s t : State) : Prop where
  stores : s.sameStores t
  faults : t.engineFaults = s.engineFaults
  tile : ∀ u, ∃ z slots counts, t.tile u = { s.tile u with z, slots, matCounts := counts }

theorem State.landed_refl (s : State) : s.landed s := ⟨s.sameStores_refl, rfl, fun _ => ⟨_, _, _, rfl⟩⟩
theorem State.landed_trans {s t u : State} (h : s.landed t) (k : t.landed u) : s.landed u :=
  ⟨State.sameStores_trans h.stores k.stores, k.faults.trans h.faults, fun v => by
    obtain ⟨_, _, _, ht⟩ := h.tile v
    obtain ⟨z, slots, counts, hu⟩ := k.tile v
    exact ⟨z, slots, counts, by rw [hu, ht]⟩⟩

section
variable {s t : State} (h : s.landed t) (u : TileId)
include h
theorem State.landed.matQ : (t.tile u).matQ = (s.tile u).matQ := by obtain ⟨_, _, _, e⟩ := h.tile u; rw [e]
theorem State.landed.pairIn : (t.tile u).pairIn = (s.tile u).pairIn := by obtain ⟨_, _, _, e⟩ := h.tile u; rw [e]
theorem State.landed.active : (t.tile u).active = (s.tile u).active := by obtain ⟨_, _, _, e⟩ := h.tile u; rw [e]
theorem State.landed.v : (t.tile u).v = (s.tile u).v := by obtain ⟨_, _, _, e⟩ := h.tile u; rw [e]
end

/-- A change of a tile's z registers and counters alone. -/
theorem State.landed_modTile (s : State) (t : TileId) (f : Tile → Tile) (hs : s.sameStores (s.modTile t f))
    (h : ∃ z slots counts, f (s.tile t) = { s.tile t with z, slots, matCounts := counts }) : s.landed (s.modTile t f) := by
  refine ⟨hs, rfl, fun u => ?_⟩
  rw [State.tile_modTile_if]
  split
  · next e => exact e ▸ h
  · exact ⟨_, _, _, rfl⟩

@[simp] theorem Slot.bump_x (k : Slot) (i : Fin 16) (n : Nat) : (k.bump i n).x = k.x := by unfold Slot.bump; split <;> rfl
@[simp] theorem Slot.bump_p (k : Slot) (i : Fin 16) (n : Nat) : (k.bump i n).p = k.p := by unfold Slot.bump; split <;> rfl

theorem State.bump_landed (s : State) (iss : Issue) (i : Fin 16) (n : Nat) : s.landed (s.bump iss i n) := by
  unfold State.bump
  split
  · exact s.landed_refl
  · split
    · exact s.landed_modTile _ _ (s.sameStores_modTile _ _ ⟨rfl, rfl, rfl, rfl⟩) ⟨_, _, _, rfl⟩
    · split
      · exact s.landed_modTile _ _ ⟨rfl, s.sameBytes_modSlot _ _ _, s.sameFiles_modSlot _ _ _ _ _ (by simp) (by simp)⟩ ⟨_, _, _, rfl⟩
      · exact s.landed_refl
theorem State.bump_z (s : State) (iss : Issue) (i : Fin 16) (n : Nat) (u : TileId) : ((s.bump iss i n).tile u).z = (s.tile u).z := by
  unfold State.bump
  split
  · rfl
  · split
    · rw [State.tile_modTile_if]; split
      · next e => rw [e]
      · rfl
    · split
      · rw [State.modSlot, State.tile_modTile_if]; split
        · next e => rw [e, Tile.modSlot_z]
        · rfl
      · rfl

theorem State.tile_countProducts (s : State) (iss : Issue) (n : Nat) (u : TileId) : (s.countProducts iss n).tile u = s.tile u := by
  unfold State.countProducts; split <;> rfl
theorem State.countProducts_landed (s : State) (iss : Issue) (n : Nat) : s.landed (s.countProducts iss n) := by
  unfold State.countProducts; split
  · exact ⟨s.sameStores_modCtx _ _, rfl, fun _ => ⟨_, _, _, rfl⟩⟩
  · exact s.landed_refl

theorem State.accumRow_landed (s : State) (t : TileId) (iss : Issue) (z : Fin 4) (r : Fin 32) (row : List (Val × Nat)) :
    s.landed (s.accumRow t iss z r row) :=
  State.landed_trans (s.landed_modTile t _ (s.sameStores_modTile t _ ⟨rfl, rfl, rfl, rfl⟩) ⟨_, _, _, rfl⟩)
    (State.landed_trans (State.bump_landed _ _ _ _) (State.bump_landed _ _ _ _))

/-- A row of (T, m) goes into its row of z, cell by cell (R155). -/
theorem State.accumRow_z (s : State) (t : TileId) (iss : Issue) (z : Fin 4) (r : Fin 32) (row : List (Val × Nat)) :
    ((s.accumRow t iss z r row).tile t).z = (s.tile t).z.set z ((s.tile t).z[z].set r (Vector.ofFn fun j : Fin 32 =>
      (accum (s.tile t).z[z][r][j] (row.getD j.val (.nan, 0)).1 (row.getD j.val (.nan, 0)).2).1)) := by
  simp [State.accumRow, State.bump_z, Tile.setZRow, List.getD]

theorem State.accumRow_cell (s : State) (t : TileId) (iss : Issue) (z : Fin 4) (r j : Fin 32) (row : List (Val × Nat)) :
    ((s.accumRow t iss z r row).tile t).z[z][r][j] =
      (accum (s.tile t).z[z][r][j] (row.getD j.val (.nan, 0)).1 (row.getD j.val (.nan, 0)).2).1 := by
  simp [State.accumRow_z]
theorem State.accumRow_row_ne (s : State) (t : TileId) (iss : Issue) {z y : Fin 4} {r k : Fin 32} (row : List (Val × Nat))
    (h : ¬ (y = z ∧ k = r)) : ((s.accumRow t iss z r row).tile t).z[y][k] = (s.tile t).z[y][k] := by
  rw [State.accumRow_z]
  by_cases hy : y = z
  · have hk : r.val ≠ k.val := fun e => h ⟨hy, Fin.ext e.symm⟩
    subst hy
    simp [Vector.getElem_set_ne, hk]
  · have hy' : z.val ≠ y.val := fun e => hy (Fin.ext e.symm)
    simp [Vector.getElem_set_ne, hy']

theorem State.foldl_landed {α : Type} {f : State → α → State} (hf : ∀ (s : State) (a : α), s.landed (f s a)) (l : List α) (s : State) :
    s.landed (l.foldl f s) := by
  induction l generalizing s with
  | nil => exact s.landed_refl
  | cons a l ih => exact State.landed_trans (hf s a) (ih (f s a))
theorem State.joinPair_landed (s : State) (t : TileId) (q : MatCmd) (z : Fin 4) (sup : List Staged) : s.landed (s.joinPair t q z sup) :=
  State.foldl_landed (fun _ _ => State.landed_trans (State.bump_landed _ _ _ _) (State.accumRow_landed _ _ _ _ _ _)) _ s

/-- The cell of column `j` as a row meets the active plane: the tree of its products, and how many are present (R155). -/
theorem rowCells_getD (p : Plane) (a : List Val) (j : Fin 32) (d : Val × Nat) :
    let prods := products ((List.range 32).map fun k => (a.getD k .fallow, p.weight k j.val))
    ((rowCells p a).map fun c => (c.1, c.2.1)).getD j.val d = ((treeOf prods).1.1, (prods.filter (· != .fallow)).length) := by
  simp [rowCells, treeOf, List.getD]

/-- A row of a command without the pair bit: z takes it, the command has done one row more (R155). -/
theorem State.landRow_unpaired (s : State) (t : TileId) {q : MatCmd} (z : Fin 4) (r : Fin 32) (a : List Val) (hq : q.paired = false) :
    ∃ u, s.landRow t q z r.val a = u.modMat t (fun q => { q with done := q.done + 1 }) ∧ s.landed u ∧
      (∀ j : Fin 32,
        let prods := products ((List.range 32).map fun k => (a.getD k .fallow, (s.tile t).active.weight k j.val))
        (u.tile t).z[z][r][j] = (accum (s.tile t).z[z][r][j] (treeOf prods).1.1 (prods.filter (· != .fallow)).length).1) ∧
      ∀ (y : Fin 4) (k : Fin 32), ¬ (y = z ∧ k = r) → (u.tile t).z[y][k] = (s.tile t).z[y][k] := by
  let cells := rowCells (s.tile t).active a
  let w := ((s.bump q.iss cMatSkip (cells.map fun c => 32 - c.2.1).sum).bump q.iss cInexact (cells.map (·.2.2)).sum).countProducts q.iss 1024
  have hw : s.landed w :=
    State.landed_trans (State.landed_trans (State.bump_landed _ _ _ _) (State.bump_landed _ _ _ _)) (State.countProducts_landed _ _ _)
  have hz : (w.tile t).z = (s.tile t).z := by rw [State.tile_countProducts, State.bump_z, State.bump_z]
  have hr : (⟨r.val % 32, Nat.mod_lt _ (by omega)⟩ : Fin 32) = r := Fin.ext (Nat.mod_eq_of_lt r.isLt)
  refine ⟨w.accumRow t q.iss z r (cells.map fun c => (c.1, c.2.1)), ?_, State.landed_trans hw (State.accumRow_landed _ _ _ _ _ _), fun j => ?_,
    fun y k hne => ?_⟩
  · simp only [State.landRow, hq, hr, Bool.false_eq_true, if_false]; rfl
  · rw [State.accumRow_cell, hz, rowCells_getD]
  · rw [State.accumRow_row_ne _ _ _ _ hne, hz]

/-! ## MLS_LOADED: the shadow plane loads (R156) -/

theorem exec_mlsLoaded (s : State) : exec .mlsLoaded s = execMlsLoaded s := rfl

/-- The head of a queue that loads from an m register loads the shadow plane at once (R156). -/
theorem exec_mlsLoaded_register {s : State} {q : MatCmd} {l : List MatCmd} {c : Cmd} (h : s.here.matQ = q :: l) (hi : q.instr = .mls c)
    (hv : q.vcs = []) : exec .mlsLoaded s = .next ((s.unpost .mlsLoaded s.focus).loadShadow s.focus.tile q.mreg.data (mlsTag c q.mreg)) := by
  have h' : (s.unpost .mlsLoaded s.focus).here.matQ = q :: l := h
  rw [exec_mlsLoaded, execMlsLoaded]
  exact happening_some _ _ _ _ (by simp [h', hi, hv])

/-- R156: the shadow plane takes the register's weights and the tag; the command ends. -/
theorem mlsLoaded_register_loadsShadow {s : State} {q : MatCmd} {c : Cmd} (h : s.here.matQ = [q]) (hi : q.instr = .mls c) (hv : q.vcs = []) :
    ∃ t, exec .mlsLoaded s = .next t ∧ t.here.shadow = { data := q.mreg.data, tag := mlsTag c q.mreg, loaded := true } ∧ t.here.matQ = [] ∧
      t.here.active = s.here.active ∧ t.here.z = s.here.z ∧ t.here.v = s.here.v ∧ t.here.m = s.here.m ∧ s.sameBytes t ∧ s.sameFiles t [] [] := by
  refine ⟨_, exec_mlsLoaded_register h hi hv, ?_⟩
  let w := (s.unpost .mlsLoaded s.focus).modTile s.focus.tile fun T =>
    { T with shadow := { data := q.mreg.data, tag := mlsTag c q.mreg, loaded := true } }
  have hw : (w.tile s.focus.tile).matQ = [q] := by simpa [w, State.here] using h
  have hstores : s.sameStores w := (s.unpost .mlsLoaded s.focus).sameStores_modTile _ _ ⟨rfl, rfl, rfl, rfl⟩
  obtain ⟨hfocus, hbytes, hfiles⟩ := State.sameStores_trans hstores (State.endMat_sameStores hw)
  obtain ⟨counts, sum, he⟩ := State.endMat_last hw
  have htile : (w.endMat s.focus.tile).here = { s.here with
      shadow := { data := q.mreg.data, tag := mlsTag c q.mreg, loaded := true }, matQ := [], pairDeadline := none, matCounts := counts, statSum := sum } := by
    rw [State.here, hfocus, he]; simp [w, State.here]
  simp only [State.loadShadow]
  refine ⟨?_, ?_, ?_, ?_, ?_, ?_, hbytes, hfiles⟩ <;> rw [htile]

/-- One that loads from a channel takes the next data flit for its next row, before the last (R156). -/
theorem exec_mlsLoaded_flit {s : State} {q : MatCmd} {l : List MatCmd} {c : Cmd} {vc : SlotId} {vcs : List SlotId} {f : Flit} {fs : List Flit}
    (h : s.here.matQ = q :: l) (hi : q.instr = .mls c) (hv : q.vcs = vc :: vcs) (hf : (s.vchan s.focus.tile vc).q = f :: fs)
    (hk : f.kind = 0) (hd : q.done < 31) : exec .mlsLoaded s = .next
      ((((s.unpost .mlsLoaded s.focus).modVc s.focus.tile vc VChan.dropFlit).modMat s.focus.tile fun p => { p with
        mreg := { data := q.mreg.data ||| (f.data.setWidth 16384 <<< (512 * q.done)), tag := c.tag }, done := p.done + 1 }).postOnce
        .mlsLoaded { tile := s.focus.tile }) := by
  have h' : (s.unpost .mlsLoaded s.focus).here.matQ = q :: l := h
  have hf' : ((s.unpost .mlsLoaded s.focus).vchan s.focus.tile vc).q = f :: fs := hf
  have hd' : q.done ≠ 31 := by omega
  rw [exec_mlsLoaded, execMlsLoaded]
  exact happening_some _ _ _ _ (by simp [h', hi, hv, hf', hk, hd'])

/-- R156: a flit is the next row of the weights, until the last. -/
theorem mlsLoaded_flit_collects {s : State} {q : MatCmd} {c : Cmd} {vc : SlotId} {vcs : List SlotId} {f : Flit} {fs : List Flit}
    (h : s.here.matQ = [q]) (hi : q.instr = .mls c) (hv : q.vcs = vc :: vcs) (hf : (s.vchan s.focus.tile vc).q = f :: fs)
    (hk : f.kind = 0) (hd : q.done < 31) :
    ∃ t q', exec .mlsLoaded s = .next t ∧ t.here.matQ = [q'] ∧ q'.done = q.done + 1 ∧ (t.vchan s.focus.tile vc).q = fs ∧
      q'.mreg.data = q.mreg.data ||| (f.data.setWidth 16384 <<< (512 * q.done)) ∧ s.sameBytes t ∧ s.sameFiles t [] [] ∧ s.sameArrays t := by
  let t := s.focus.tile
  let q' := { q with mreg := { data := q.mreg.data ||| (f.data.setWidth 16384 <<< (512 * q.done)), tag := c.tag }, done := q.done + 1 }
  let w := (s.unpost .mlsLoaded s.focus).modVc t vc VChan.dropFlit
  let u := w.modMat t fun p => { p with mreg := q'.mreg, done := p.done + 1 }
  have hw : (w.tile t).matQ = [q] := by rw [State.modVc_matQ]; exact h
  have hu : u.tile t = { w.tile t with matQ := [q'] } := State.tile_modMat _ hw
  have hvc : (w.vchan t vc).q = fs := by simp [w, State.vchan_modVc, VChan.dropFlit, State.vchan_unpost, hf, t]
  have hstores : s.sameStores w := (s.unpost .mlsLoaded s.focus).modVc_sameStores _ _ _
  have harrays : s.sameArrays w := (s.unpost .mlsLoaded s.focus).modVc_sameArrays _ _ _
  obtain ⟨hfocus, hbytes, hfiles⟩ := State.sameStores_trans hstores
    (State.sameStores_trans (w.modMat_sameStores t _) (u.sameStores_postOnce .mlsLoaded { tile := t }))
  refine ⟨_, q', exec_mlsLoaded_flit h hi hv hf hk hd, ?_, rfl, ?_, rfl, hbytes, hfiles,
    State.sameArrays_trans harrays (State.sameArrays_trans (w.modMat_sameArrays t _) (u.sameArrays_postOnce .mlsLoaded { tile := t }))⟩
  · rw [State.here, hfocus, State.tile_postOnce]
    exact congrArg Tile.matQ hu
  · rw [State.vchan, State.tile_postOnce]
    exact (congrArg (fun T : Tile => T.vcs[vc].q) hu).trans hvc

/-! ## Z_ROW_LAND: a row lands (R155, R158) -/

theorem exec_zRowLand (s : State) : exec .zRowLand s = execZRowLand s := rfl

/-- A dense command fed from registers lands its next row and, with more rows to come, stays at the head (R158). -/
theorem exec_zRowLand_mst {s : State} {q : MatCmd} {l : List MatCmd} {c : Cmd} {a : List Val} (h : s.here.matQ = q :: l)
    (hi : q.instr = .mst c) (hv : q.vcs = []) (hr : q.ready = false) (ha : (q.regs.flatMap (regRows q.actTag))[q.done]? = some a)
    (hm : q.done + 1 < (q.regs.flatMap (regRows q.actTag)).length) {w : State}
    (hw : (s.unpost .zRowLand s.focus).landRow s.focus.tile q (slotZ c.s1) (q.iss.xOrImm c.s3 0 + q.done) a = w)
    (hne : (w.tile s.focus.tile).matQ ≠ []) : exec .zRowLand s = .next (w.kickMat s.focus.tile 4) := by
  have h' : (s.unpost .zRowLand s.focus).here.matQ = q :: l := h
  have hstep : mstStep s.focus.tile q c (s.unpost .zRowLand s.focus) = some w := by
    simp only [mstStep, hv, hm, if_true, List.getD_eq_getElem?_getD, ha, Option.getD_some, hw]
  have hb : q.between = false := by simp [MatCmd.between, hv]
  rw [exec_zRowLand, execZRowLand]
  exact happening_some _ _ _ _ (by simp [h', hi, hr, hb, hstep, hne])

/-- R155, R158: a row of activations meets the active plane and is accumulated into its row of z. -/
theorem zRowLand_row_accumulates {s : State} {q : MatCmd} {l : List MatCmd} {c : Cmd} {a : List Val} (hrow : q.iss.xOrImm c.s3 0 + q.done < 32)
    (h : s.here.matQ = q :: l) (hi : q.instr = .mst c) (hv : q.vcs = []) (hr : q.ready = false) (hp : q.paired = false)
    (ha : (q.regs.flatMap (regRows q.actTag))[q.done]? = some a) (hm : q.done + 1 < (q.regs.flatMap (regRows q.actTag)).length)
    (ht : pairsWith q.actTag s.here.active.tag = true) :
    let z := slotZ c.s1
    let r : Fin 32 := ⟨q.iss.xOrImm c.s3 0 + q.done, hrow⟩
    ∃ t q', exec .zRowLand s = .next t ∧ t.here.matQ = q' :: l ∧ q'.instr = q.instr ∧ q'.done = q.done + 1 ∧
      (∀ j : Fin 32,
        let prods := products ((List.range 32).map fun k => (a.getD k .fallow, s.here.active.weight k j.val))
        t.here.z[z][r][j] = (accum (s.here.z[z][r][j]) (treeOf prods).1.1 (prods.filter (· != .fallow)).length).1) ∧
      (∀ (y : Fin 4) (k : Fin 32), ¬ (y = z ∧ k = r) → t.here.z[y][k] = s.here.z[y][k]) ∧ t.here.v = s.here.v ∧
      t.here.active = s.here.active ∧ .happen .zRowLand { tile := s.focus.tile } ∈ t.pending ∧ s.sameBytes t ∧ s.sameFiles t [] [] := by
  intro z r
  obtain ⟨u, hland, hu, hcell, hother⟩ := (s.unpost .zRowLand s.focus).landRow_unpaired s.focus.tile z r a hp
  have huq : (u.tile s.focus.tile).matQ = q :: l := (hu.matQ _).trans h
  have hua : (u.tile s.focus.tile).active = s.here.active := hu.active _
  let q' := { q with done := q.done + 1 }
  let w := u.modMat s.focus.tile fun q => { q with done := q.done + 1 }
  have hwt : w.tile s.focus.tile = { u.tile s.focus.tile with matQ := q' :: l } := State.tile_modMat _ huq
  have hkick : w.kickMat s.focus.tile 4 = w.postOnce .zRowLand { tile := s.focus.tile } :=
    State.kickMat_mst (q := q') 3 (by rw [hwt]) hi (by rw [hwt]; exact hua ▸ ht)
  obtain ⟨hfocus, hbytes, hfiles⟩ : s.sameStores (w.postOnce .zRowLand { tile := s.focus.tile }) :=
    State.sameStores_trans hu.stores (State.sameStores_trans (State.modMat_sameStores _ _ _) (State.sameStores_postOnce _ _ _))
  have hhere : (w.postOnce .zRowLand { tile := s.focus.tile }).here = { u.tile s.focus.tile with matQ := q' :: l } := by
    rw [State.here, hfocus, State.tile_postOnce, hwt]
  refine ⟨_, q', hkick ▸ exec_zRowLand_mst h hi hv hr ha hm hland (by rw [hwt]; simp), ?_, rfl, rfl, ?_, ?_, ?_, ?_,
    State.mem_pending_postOnce _ _ _, hbytes, hfiles⟩
  all_goals rw [hhere]
  · exact hcell
  · exact hother
  · exact hu.v _
  · exact hua

/-! ## PAIR_STAGE_ARRIVE and PAIR_TIMEOUT: the halves of a pair (R159) -/

theorem exec_pairStageArrive (s : State) : exec .pairStageArrive s = execPairStageArrive s := rfl
theorem exec_pairTimeout (s : State) : exec .pairTimeout s = execPairTimeout s := rfl

theorem State.readyPair_of {s : State} {t : TileId} {q : MatCmd} (h : (s.tile t).matQ = [q]) (hp : q.paired = true) (hr : q.ready = true) :
    s.readyPair t = some q := by
  simp [State.readyPair, h, hp, hr]

/-- The state in which the halves of a pair meet: the meeting is owed no longer, and nothing stays staged. -/
def State.meeting (s : State) : State := (s.unpost .pairStageArrive s.focus).modTile s.focus.tile fun T => { T with pairIn := none }

theorem State.tile_meeting_home (s : State) : s.meeting.tile s.focus.tile = { s.here with pairIn := none } := State.tile_modTile _ _ _
theorem State.tile_meeting_partner (s : State) : s.meeting.tile (partner s.focus.tile) = s.tile (partner s.focus.tile) :=
  State.tile_modTile_ne _ _ (partner_ne _)
theorem State.meeting_sameStores (s : State) : s.sameStores s.meeting :=
  (s.unpost .pairStageArrive s.focus).sameStores_modTile _ _ ⟨rfl, rfl, rfl, rfl⟩
theorem State.meeting_sameArrays (s : State) : s.sameArrays s.meeting :=
  (s.unpost .pairStageArrive s.focus).sameArrays_modTile _ _ ⟨rfl, rfl, rfl, rfl, rfl, rfl, rfl, rfl⟩

section
variable {s : State} {q u : MatCmd} (hh : isHome s.focus.tile = true) (hl : s.here.pairLost = 0) (hl' : (s.tile (partner s.focus.tile)).pairLost = 0)
  (ho : s.here.owner = (s.tile (partner s.focus.tile)).owner) (hq : s.here.matQ = [q]) (hu : (s.tile (partner s.focus.tile)).matQ = [u])
  (hqp : q.paired = true) (hqr : q.ready = true) (hup : u.paired = true) (hur : u.ready = true)
include hh hl hl' ho hq hu hqp hqr hup hur

/-- Two halves that wait with all their rows meet: they are joined where they match, and abandoned where they do not (R159). -/
theorem exec_pairStageArrive_ready : exec .pairStageArrive s = .next (
    if slotZ q.cmd.s1 = slotZ u.cmd.s1 ∧ q.part.map (·.row) = u.part.map (·.row) then
      ((s.meeting.joinPair s.focus.tile q (slotZ u.cmd.s1) u.part).endMat s.focus.tile).endMat (partner s.focus.tile)
    else (((s.meeting.matFails q .pairAbandoned).endMat s.focus.tile).matFails u .pairAbandoned).endMat (partner s.focus.tile)) := by
  have hqs : (s.unpost .pairStageArrive s.focus).readyPair s.focus.tile = some q := State.readyPair_of hq hqp hqr
  have hus : (s.unpost .pairStageArrive s.focus).readyPair (partner s.focus.tile) = some u := State.readyPair_of hu hup hur
  have ho' : (s.tile s.focus.tile).owner = (s.tile (partner s.focus.tile)).owner := ho
  have hlt : (s.tile s.focus.tile).pairLost = 0 := hl
  rw [exec_pairStageArrive, execPairStageArrive]
  apply happening_some
  simp only [State.unpost_focus, State.tile_unpost, hh, ho', hlt, hl', hqs, hus, Bool.not_true, bne_self_eq_false, Bool.or_false, Nat.lt_irrefl,
    decide_false, Bool.false_eq_true, if_false]
  exact (apply_ite some _ _ _).symm

/-- R159: halves that match are joined in the home half's z, and both commands end. -/
theorem pairStageArrive_joins (hz : slotZ q.cmd.s1 = slotZ u.cmd.s1) (hrows : q.part.map (·.row) = u.part.map (·.row)) :
    ∃ t, exec .pairStageArrive s = .next t ∧ t.here.matQ = [] ∧ (t.tile (partner s.focus.tile)).matQ = [] ∧ t.here.pairIn = none ∧
      t.here.z = ((s.meeting.joinPair s.focus.tile q (slotZ u.cmd.s1) u.part).tile s.focus.tile).z ∧
      t.engineFaults = s.engineFaults ∧ s.sameBytes t ∧ s.sameFiles t [] [] := by
  have hexec := exec_pairStageArrive_ready hh hl hl' ho hq hu hqp hqr hup hur
  rw [if_pos ⟨hz, hrows⟩] at hexec
  have hj := s.meeting.joinPair_landed s.focus.tile q (slotZ u.cmd.s1) u.part
  generalize s.meeting.joinPair s.focus.tile q (slotZ u.cmd.s1) u.part = j at hexec hj ⊢
  have hjq : (j.tile s.focus.tile).matQ = [q] := by rw [hj.matQ, s.tile_meeting_home]; exact hq
  have hju : (j.tile (partner s.focus.tile)).matQ = [u] := by rw [hj.matQ, s.tile_meeting_partner]; exact hu
  have hju' : ((j.endMat s.focus.tile).tile (partner s.focus.tile)).matQ = [u] := by rw [State.tile_endMat_ne hjq (partner_ne _)]; exact hju
  have hfaults : ((j.endMat s.focus.tile).endMat (partner s.focus.tile)).engineFaults = s.engineFaults := by
    rw [State.endMat_engineFaults hju', State.endMat_engineFaults hjq, hj.faults]; rfl
  obtain ⟨hfocus, hbytes, hfiles⟩ := State.sameStores_trans s.meeting_sameStores (State.sameStores_trans hj.stores
    (State.sameStores_trans (State.endMat_sameStores hjq) (State.endMat_sameStores hju')))
  obtain ⟨counts, sum, htile⟩ := State.tile_endMat hjq
  have hhere : ((j.endMat s.focus.tile).endMat (partner s.focus.tile)).here =
      { j.tile s.focus.tile with matQ := [], pairDeadline := none, matCounts := counts, statSum := sum } := by
    rw [State.here, hfocus, State.tile_endMat_ne hju' (partner_ne _).symm, htile]
  refine ⟨_, hexec, ?_, State.endMat_matQ hju', ?_, ?_, hfaults, hbytes, hfiles⟩
  all_goals rw [hhere]
  rw [hj.pairIn, s.tile_meeting_home]

/-- R159: halves that do not match are both abandoned, and no array changes. -/
theorem pairStageArrive_abandons (hrows : q.part.map (·.row) ≠ u.part.map (·.row)) :
    ∃ t e f, exec .pairStageArrive s = .next t ∧ t.here.matQ = [] ∧ (t.tile (partner s.focus.tile)).matQ = [] ∧ s.sameArrays t ∧
      t.engineFaults = s.engineFaults ++ [e, f] ∧ e.code = .pairAbandoned ∧ f.code = .pairAbandoned ∧ e.iss = q.iss ∧ f.iss = u.iss := by
  have hexec := exec_pairStageArrive_ready hh hl hl' ho hq hu hqp hqr hup hur
  rw [if_neg fun hmatch => hrows hmatch.2] at hexec
  let w := s.meeting.matFails q .pairAbandoned
  let v := (w.endMat s.focus.tile).matFails u .pairAbandoned
  have hwq : (w.tile s.focus.tile).matQ = [q] := by rw [State.tile_matFails, s.tile_meeting_home]; exact hq
  have hvu : (v.tile (partner s.focus.tile)).matQ = [u] := by
    rw [State.tile_matFails, State.tile_endMat_ne hwq (partner_ne _), State.tile_matFails, s.tile_meeting_partner]; exact hu
  have hvq : (v.tile s.focus.tile).matQ = [] := State.endMat_matQ hwq
  have hfocus : (v.endMat (partner s.focus.tile)).focus = s.focus := (State.endMat_focus hvu).trans (State.endMat_focus hwq)
  obtain ⟨e, he, hecode, heiss⟩ := s.meeting.matFails_engineFaults q .pairAbandoned
  obtain ⟨f, hf, hfcode, hfiss⟩ := (w.endMat s.focus.tile).matFails_engineFaults u .pairAbandoned
  have hfaults : (v.endMat (partner s.focus.tile)).engineFaults = s.engineFaults ++ [e, f] := by
    rw [State.endMat_engineFaults hvu, hf, State.endMat_engineFaults hwq, he, List.append_assoc]; rfl
  have harrays : s.sameArrays (v.endMat (partner s.focus.tile)) :=
    State.sameArrays_trans s.meeting_sameArrays (State.sameArrays_trans (s.meeting.matFails_sameArrays _ _)
      (State.sameArrays_trans (State.endMat_sameArrays hwq)
        (State.sameArrays_trans ((w.endMat s.focus.tile).matFails_sameArrays _ _) (State.endMat_sameArrays hvu))))
  refine ⟨_, e, f, hexec, ?_, State.endMat_matQ hvu, harrays, hfaults, hecode, hfcode, heiss, hfiss⟩
  rw [State.here, hfocus, State.tile_endMat_ne hvu (partner_ne _).symm]
  exact hvq
end

/-- A half whose time is over, and not stopped by a save, gives up (R159). -/
theorem exec_pairTimeout_late {s : State} {q : MatCmd} {d : Nat} (hq : s.here.matQ = [q]) (hp : q.paired = true) (hr : q.ready = true)
    (hl : s.here.pairLost = 0) (hd : s.here.pairDeadline = some d) (hc : d ≤ s.clk) (hs : s.savesFor q.iss = false) :
    exec .pairTimeout s = .next ((s.unpost .pairTimeout s.focus).failMat s.focus.tile q .pairAbandoned) := by
  have hqs : (s.unpost .pairTimeout s.focus).readyPair s.focus.tile = some q := State.readyPair_of hq hp hr
  have hl' : (s.unpost .pairTimeout s.focus).here.pairLost = 0 := hl
  have hd' : (s.unpost .pairTimeout s.focus).here.pairDeadline = some d := hd
  have hs' : (s.unpost .pairTimeout s.focus).savesFor q.iss = false := hs
  rw [exec_pairTimeout, execPairTimeout]
  exact happening_some _ _ _ _ (by simp [hqs, hl', hd', hs', hc])

/-- R159: a half left alone past its time is abandoned, and the other half learns of it. -/
theorem pairTimeout_late_abandons {s : State} {q : MatCmd} {d : Nat} (hq : s.here.matQ = [q]) (hp : q.paired = true) (hr : q.ready = true)
    (hl : s.here.pairLost = 0) (hd : s.here.pairDeadline = some d) (hc : d ≤ s.clk) (hs : s.savesFor q.iss = false) :
    ∃ t e, exec .pairTimeout s = .next t ∧ t.here.matQ = [] ∧ t.engineFaults = s.engineFaults ++ [e] ∧ e.code = .pairAbandoned ∧
      e.iss = q.iss ∧ (t.tile (partner s.focus.tile)).pairLost = (s.tile (partner s.focus.tile)).pairLost + 1 ∧
      .happen .pairTimeout { tile := partner s.focus.tile } ∈ t.pending ∧ s.sameBytes t ∧ s.sameFiles t [] [] ∧ s.sameArrays t := by
  let t := s.focus.tile
  let w := (s.unpost .pairTimeout s.focus).matFails q .pairAbandoned
  have hwl : (w.tile t).pairLost = 0 := hl
  let u := w.losePair t q
  have hu : (u.tile t).matQ = [q] := (State.losePair_matQ hp hwl).trans hq
  obtain ⟨e, he, hecode, heiss⟩ := (s.unpost .pairTimeout s.focus).matFails_engineFaults q .pairAbandoned
  obtain ⟨hfocus, hbytes, hfiles⟩ : s.sameStores (u.endMat t) :=
    State.sameStores_trans ((s.unpost .pairTimeout s.focus).matFails_sameStores q .pairAbandoned)
      (State.sameStores_trans (State.losePair_sameStores hp hwl) (State.endMat_sameStores hu))
  refine ⟨_, e, exec_pairTimeout_late hq hp hr hl hd hc hs, ?_, ?_, hecode, heiss, ?_, ?_, hbytes, hfiles, ?_⟩
  · exact (congrArg (fun f : Focus => ((u.endMat t).tile f.tile).matQ) hfocus).trans (State.endMat_matQ hu)
  · exact (State.endMat_engineFaults hu).trans ((State.losePair_engineFaults hp hwl).trans he)
  · exact (congrArg Tile.pairLost (State.tile_endMat_ne hu (partner_ne t))).trans (State.losePair_pairLost hp hwl)
  · exact State.endMat_pending hu ▸ State.losePair_pending hp hwl
  · exact State.sameArrays_trans ((s.unpost .pairTimeout s.focus).matFails_sameArrays q .pairAbandoned)
      (State.sameArrays_trans (State.losePair_sameArrays hp hwl) (State.endMat_sameArrays hu))

/-! ## The statement -/

/-- Settles O41: clause by clause, one happening of the array. -/
theorem matrixArrayWorks : Obligations.MatrixArrayWorks := fun _ _ =>
  ⟨fun _ h hi hv => mlsLoaded_register_loadsShadow h hi hv,
   fun _ _ _ _ _ h hi hv hf hk hd => mlsLoaded_flit_collects h hi hv hf hk hd,
   fun _ l _ hrow h hi hv hr hp ha hm ht _ =>
    let ⟨t, q', hexec, hq, hland⟩ := zRowLand_row_accumulates hrow h hi hv hr hp ha hm ht
    ⟨t, q', l, hexec, hq, rfl, hland⟩,
   fun _ hh hl hl' ho hq hu hqp hqr hup hur hz =>
    ⟨fun hrows => pairStageArrive_joins hh hl hl' ho hq hu hqp hqr hup hur hz hrows,
     fun hrows => pairStageArrive_abandons hh hl hl' ho hq hu hqp hqr hup hur hrows⟩,
   fun _ hq hp hr hl hd hc hs => pairTimeout_late_abandons hq hp hr hl hd hc hs⟩

end Sys2Proof.Machine
end
